-- ==== Sys2Proof/Word.lean ====
section
/-!
DEFINITION. The word types of the AQ2400 model: what the manual treats as bits. Sample bytes and frame bytes are 8-bit,
offer tokens are 16-bit (R56), ticks, caller keys, call references and agent ids are 32-bit (00_scope 3.2, 3.3).
Slots, queue numbers, durations and counts that never wrap are natural numbers.
-/
namespace Sys2Proof

/-- A frame byte or a companded audio sample. -/
abbrev Byte := BitVec 8

/-- An offer token (R56). -/
abbrev Token := BitVec 16

/-- A 32-bit identifier: a caller key, a call reference or an agent id (00_scope 3.3). -/
abbrev Word32 := BitVec 32

/-- A tick count or a deadline; the count wraps from FFFFFFFFh to 0 (00_scope 3.2). -/
abbrev Tick := BitVec 32

end Sys2Proof
end

