-- ==== Sys2Proof/Config.lean ====
section
/-!
DEFINITION. What the part fixes once for all: its capacities (00_scope 1) and the limits its rules name.
Two constants have no body: bytes of outbound bodies whose code or content the specification does not give.
-/
namespace Sys2Proof.Config

/-- Agent slots, 0-1023 (R1). -/
abbrev agentSlots : Nat := 1024
/-- Call slots, 0-2047 (R30). -/
abbrev callSlots : Nat := 2048
/-- Skill queues, 0-63 (R32). -/
abbrev queueCount : Nat := 64
/-- Entries of one skill list (R1). -/
abbrev maxSkills : Nat := 8
/-- The highest priority band (R30). -/
abbrev topBand : Nat := 7
/-- The redirect limit: no call's redirect count exceeds it (R51). -/
abbrev maxRedirects : Nat := 7
/-- The exit reason REDIRECT_LIMIT (00_scope 3.5). -/
abbrev redirectLimitReason : Nat := 16
/-- The largest duration the part stores, in ticks (00_scope 3.2). -/
abbrev maxDuration : Nat := 65535
/-- The value that stands for an unknown expected wait (R104). -/
abbrev unknownWait : Nat := 65535
/-- Entries of the recent service list (R64). -/
abbrev recentEntries : Nat := 256
/-- Patterns of a bank (R117). -/
abbrev patternCount : Nat := 32
/-- Steps of a pattern (R117). -/
abbrev maxSteps : Nat := 16
/-- Timeless steps a treatment event runs at most (R136). -/
abbrev chainLimit : Nat := 16
/-- Sample blocks of the store (R141). -/
abbrev sampleBlocks : Nat := 16384
/-- Bytes of a sample block (R141). -/
abbrev blockBytes : Nat := 256
/-- Announcement segments (R143). -/
abbrev segmentCount : Nat := 512
/-- The largest block count of a segment (R143). -/
abbrev maxSegmentBlocks : Nat := 1024
/-- Programmes (R147). -/
abbrev programmeCount : Nat := 8
/-- Timeslots of a highway (R146). -/
abbrev timeslots : Nat := 128
/-- The first personal timeslot of a highway (R146). -/
abbrev firstPersonal : Nat := 8
/-- Inbound FIFO entries of a link (R176). -/
abbrev inboundEntries : Nat := 16
/-- Outbound entries kept for replies (R178). -/
abbrev replyEntries : Nat := 16
/-- Outbound entries that notices use (R178). -/
abbrev noticeEntries : Nat := 48
/-- Frames from one block boundary to the next (R185). -/
abbrev framesPerBlock : Nat := 256
/-- The largest number base of the vocabulary (R109). -/
abbrev maxNumberBase : Nat := 483
/-- The start delimiter of a frame (R188). -/
abbrev startDelimiter : Byte := 0xA5
/-- The largest frame length L (R175, R188). -/
abbrev maxFrameLength : Nat := 272

/-! ## Bytes that the specification leaves open -/

/-- A field of an outbound body whose codes the specification does not give. -/
inductive UncodedField where
  | agentCause | linkState | callState | treatmentState | channelState | programmeState
  deriving DecidableEq, Repr

/-- The code of a member of such a field, counted from 0 in the order in which its rule names the members: a free value.
DESIGN CHOICE: log entry 12. -/
opaque freeCode (field : UncodedField) (member : Nat) : Byte

/-- What stands in the place of an outbound value that its presence indication marks absent: a free value.
DESIGN CHOICE: log entry 12. -/
opaque absentByte : Byte

end Sys2Proof.Config
end

