-- ==== Sys2Proof/Syntax.lean ====
section
/-!
DEFINITION. The commands of the block: one constructor for each row of spec/opcode_table.json.

A command is one of the part's steps, each whole and indivisible. The first 37 are the taking of a request from a
link's inbound FIFO (R177): the command names the link, and the request's tag and fields are the bytes that stand at
the head of that FIFO, where FRAME_RECEIVED put them. The others are events: bytes received, a transmission completed,
a signal lost or regained, a reset, a deadline, an event of the playout clock, or one unit of the work that waits for
notice space. Each names the record it reaches.
-/
namespace Sys2Proof

/-- The three control links (00_scope 1). -/
inductive Link where
  | a | b | s
  deriving DecidableEq, Repr

/-- The two TDM hold highways; Highway A serves the calls of Link A and Highway B those of Link B (R146). -/
inductive Highway where
  | a | b
  deriving DecidableEq, Repr

/-- The part's steps, one constructor a row of the table. -/
inductive Instr where
  /-- CALL_ENTER taken on the link (R44, R47). -/
  | callEnter (l : Link)
  /-- CALL_WITHDRAW taken on the link (R49). -/
  | callWithdraw (l : Link)
  /-- CALL_RELEASE taken on the link (R50). -/
  | callRelease (l : Link)
  /-- AGENT_LOGIN taken on the link (R10). -/
  | agentLogin (l : Link)
  /-- AGENT_READY taken on the link (R12). -/
  | agentReady (l : Link)
  /-- AGENT_NOT_READY taken on the link (R13). -/
  | agentNotReady (l : Link)
  /-- AGENT_LOGOUT taken on the link (R15 to R17). -/
  | agentLogout (l : Link)
  /-- AGENT_UPDATE taken on the link (R19). -/
  | agentUpdate (l : Link)
  /-- AGENT_FORCE with action FORCE_LOGOUT taken on the link (R22). -/
  | forceLogout (l : Link)
  /-- AGENT_FORCE with action FORCE_NOT_READY taken on the link (R22). -/
  | forceNotReady (l : Link)
  /-- AGENT_FORCE with action FORCE_LOGOUT_NOW taken on the link (R23). -/
  | forceLogoutNow (l : Link)
  /-- WRAP_END taken on the link (R90). -/
  | wrapEnd (l : Link)
  /-- WRAP_EXTEND taken on the link (R88). -/
  | wrapExtend (l : Link)
  /-- OFFER_REPLY with answer ACCEPT taken on the link (R70, R72). -/
  | accept (l : Link)
  /-- OFFER_REPLY with answer DECLINE taken on the link (R70, R74). -/
  | decline (l : Link)
  /-- QUEUE_SET taken on the link (R32). -/
  | queueSet (l : Link)
  /-- BANK_OPEN taken on the link (R119). -/
  | bankOpen (l : Link)
  /-- BANK_CLOSE taken on the link (R120). -/
  | bankClose (l : Link)
  /-- BANK_ACTIVATE taken on the link (R121). -/
  | bankActivate (l : Link)
  /-- PATTERN_WRITE taken on the link (R122). -/
  | patternWrite (l : Link)
  /-- SEGMENT_SET taken on the link (R143). -/
  | segmentSet (l : Link)
  /-- SAMPLE_WRITE taken on the link (R142). -/
  | sampleWrite (l : Link)
  /-- PROGRAMME_SET taken on the link (R147). -/
  | programmeSet (l : Link)
  /-- PROGRAMME_CONTROL with action RUN taken on the link (R150). -/
  | run (l : Link)
  /-- PROGRAMME_CONTROL with action PAUSE taken on the link (R150). -/
  | pause (l : Link)
  /-- PROGRAMME_CONTROL with action STOP taken on the link (R150). -/
  | stop (l : Link)
  /-- VOCABULARY_SET taken on the link (R110). -/
  | vocabularySet (l : Link)
  /-- TREATMENT_SET taken on the link (R146). -/
  | treatmentSet (l : Link)
  /-- PORT_SET taken on the link (R181). -/
  | portSet (l : Link)
  /-- ENGINE_RESET taken on the link (R187). -/
  | engineReset (l : Link)
  /-- STATS_READ taken on the link (R166). -/
  | statsRead (l : Link)
  /-- STATS_CLEAR taken on the link (R167). -/
  | statsClear (l : Link)
  /-- QUEUE_READ taken on the link (R168). -/
  | queueRead (l : Link)
  /-- CALL_READ taken on the link (R168). -/
  | callRead (l : Link)
  /-- AGENT_READ taken on the link (R169). -/
  | agentRead (l : Link)
  /-- PORT_READ taken on the link (R169). -/
  | portRead (l : Link)
  /-- A request whose kind byte is not a request kind, taken on the link (R177 check 1). -/
  | unknownKindRequest (l : Link)
  /-- Bytes received on the link, with every frame that ends in them (R175). -/
  | frameReceived (l : Link) (bytes : List Byte)
  /-- The transmission of the link's head outbound entry completes (R178). -/
  | transmissionComplete (l : Link)
  /-- The link's receive signal is lost (R182). -/
  | linkDown (l : Link)
  /-- The link's receive signal is present (R183). -/
  | linkUp (l : Link)
  /-- Power-on reset (R186). -/
  | powerOnReset
  /-- The ring deadline of the call's offer is reached (R75). -/
  | ringExpiry (call : Nat)
  /-- The call's promotion deadline is reached (R41). -/
  | promotionDeadline (call : Nat)
  /-- The step deadline of the call's treatment is reached (R128). -/
  | stepDeadline (call : Nat)
  /-- The call's deferral deadline is reached (R156). -/
  | deferralExpiry (call : Nat)
  /-- The deadline of the agent's wrap record is reached (R91). -/
  | wrapDeadline (agent : Nat)
  /-- The agent's penalty deadline is reached (R27). -/
  | penaltyExpiry (agent : Nat)
  /-- A block boundary of the playout clock (R157). -/
  | blockBoundary
  /-- The channel has placed the last byte of its phrase (R158). -/
  | phraseEnd (h : Highway) (timeslot : Nat)
  /-- The link's oldest pending exit completes (R52). -/
  | pendingExitCompletion (l : Link)
  /-- The link's oldest held LISTEN, a source change, is queued (R129). -/
  | heldSourceQueued (l : Link)
  /-- The link's oldest held LISTEN, a return, is queued (R159). -/
  | heldReturnQueued (l : Link)
  /-- The head of the highway's deferral list is granted a channel (R155). -/
  | deferralGrant (h : Highway)
  /-- The distribution attempts that free notice space on the link calls for (R60). -/
  | freedSpaceAttempts (l : Link)
  /-- A tick of the reference clock (R184). -/
  | tick
  /-- One 125 microsecond frame of the playout clock (R149, R158). -/
  | playoutFrame
  deriving DecidableEq, Repr

end Sys2Proof
end

