-- ==== Sys2Proof/WellFormed.lean ====
section
/-!
DEFINITION. When a command names things the part has: call slots, agent slots and personal timeslots in range, a frame
no longer than the longest frame of R188 that begins with its delimiter, and, for the work that waits for notice space,
a link that can own calls (A or B).
-/
namespace Sys2Proof

/-- Links A and B can own calls and home agents; Link S cannot (R4, R44). -/
def Link.switching : Link → Bool
  | .a => true
  | .b => true
  | .s => false

/-- The command names only records and links that the part has for it. -/
def Instr.wellFormed : Instr → Bool
  | .frameReceived _ bytes =>
      bytes.head? == some Config.startDelimiter && decide (bytes.length ≤ Config.maxFrameLength + 5)
  | .ringExpiry c => decide (c < Config.callSlots)
  | .promotionDeadline c => decide (c < Config.callSlots)
  | .stepDeadline c => decide (c < Config.callSlots)
  | .deferralExpiry c => decide (c < Config.callSlots)
  | .wrapDeadline a => decide (a < Config.agentSlots)
  | .penaltyExpiry a => decide (a < Config.agentSlots)
  | .phraseEnd _ ts => decide (Config.firstPersonal ≤ ts) && decide (ts < Config.timeslots)
  | .pendingExitCompletion l => l.switching
  | .heldSourceQueued l => l.switching
  | .heldReturnQueued l => l.switching
  | .freedSpaceAttempts l => l.switching
  | .callEnter _ | .callWithdraw _ | .callRelease _ | .agentLogin _ | .agentReady _ | .agentNotReady _
  | .agentLogout _ | .agentUpdate _ | .forceLogout _ | .forceNotReady _ | .forceLogoutNow _ | .wrapEnd _
  | .wrapExtend _ | .accept _ | .decline _ | .queueSet _ | .bankOpen _ | .bankClose _ | .bankActivate _
  | .patternWrite _ | .segmentSet _ | .sampleWrite _ | .programmeSet _ | .run _ | .pause _ | .stop _
  | .vocabularySet _ | .treatmentSet _ | .portSet _ | .engineReset _ | .statsRead _ | .statsClear _
  | .queueRead _ | .callRead _ | .agentRead _ | .portRead _ | .unknownKindRequest _ | .transmissionComplete _
  | .linkDown _ | .linkUp _ | .powerOnReset | .blockBoundary | .deferralGrant _ | .tick | .playoutFrame => true

end Sys2Proof
end

