-- ==== Sys2Proof/Decode.lean ====
section
/-!
DEFINITION. The table of this part gives no row any bits (spec/98_reader.md: no row has fixed bits or fields), so no word
spells a command. What the part does decode, the frames of its links and the bodies of its requests, is in
Machine/Frames.lean and Machine/Operands.lean.
-/
namespace Sys2Proof

/-- The command that a word spells by the table's bits: none, because no row of the table has bits. -/
def decodeTableWord (_nbits _w : Nat) : Option Instr := none

end Sys2Proof
end

