-- ==== Sys2Proof/Machine/State.lean ====
section
/-!
DEFINITION. The state of the AQ2400, as plain data: every record, list, counter and flag the manual gives the part, with
the values power-on reset gives them (R186), and the queue of commands that wait. Fields the manual only implies are
marked so in their docstrings. A table keyed by slot or number lists, in rising order, only the entries that differ from
the value an unlisted entry has, so equal tables are equal data.
-/
namespace Sys2Proof.Machine

open Sys2Proof

/-- A table keyed by a slot, a number or an address. -/
abbrev Table (α : Type) := List (Nat × α)

/-! ## Agents (chapters 1 and 4) -/

/-- The seven agent states (R2). -/
inductive AgentState where
  | loggedOut | notReady | available | reserved | busy | wrapUp | inferredAbsent
  deriving DecidableEq, Repr

/-- The change that waits for the agent to leave an offer, a call or wrap-up (R14). -/
inductive PendingChange where
  | none
  | notReady (reason : Nat)
  | logout
  deriving DecidableEq, Repr

/-- How INFERRED_ABSENT ends (R26). -/
inductive ExitType where
  | timed | manual
  deriving DecidableEq, Repr

/-- How the offer of an agent's last token ended (R1, R55). -/
inductive OfferOutcome where
  | accepted | declined | expired | withdrawn
  deriving DecidableEq, Repr

/-- One skill: a queue and the agent's proficiency in it (R1). -/
structure Skill where
  queue : Nat
  proficiency : Nat
  deriving DecidableEq, Repr

/-- The agent record's side of an offer (R55). -/
structure AgentOffer where
  token : Token
  call : Nat
  deriving DecidableEq, Repr

/-- A wrap-up in progress (R83). -/
structure WrapRecord where
  queue : Nat
  talk : Nat
  start : Tick
  deadline : Tick
  granted : Nat
  deriving DecidableEq, Repr

/-- An agent record (R1). -/
structure Agent where
  state : AgentState
  home : Option Link
  id : Word32
  skills : List Skill
  reason : Nat
  pending : PendingChange
  availSince : Tick
  offer : Option AgentOffer
  call : Option Nat
  wrap : Option WrapRecord
  miss : Nat
  missLimit : Nat
  exitType : ExitType
  penalty : Nat
  penaltyDeadline : Option Tick
  lastToken : Token
  lastOutcome : Option OfferOutcome
  /-- The four accumulators (R95). -/
  handled : Nat
  talkTotal : Nat
  wrapTotal : Nat
  saturated : Bool
  deriving DecidableEq, Repr

/-- An agent record after either reset (R1). -/
def Agent.reset : Agent :=
  { state := .loggedOut, home := none, id := 0, skills := [], reason := 0, pending := .none, availSince := 0,
    offer := none, call := none, wrap := none, miss := 0, missLimit := 0, exitType := .timed, penalty := 1,
    penaltyDeadline := none, lastToken := 0, lastOutcome := none, handled := 0, talkTotal := 0, wrapTotal := 0,
    saturated := false }

/-! ## Calls and their treatment (chapters 2, 3 and 6) -/

/-- The states of a call (R30). -/
inductive CallState where
  | waiting | offering | connected
  deriving DecidableEq, Repr

/-- The call record's side of an offer (R55). -/
structure CallOffer where
  token : Token
  agent : Nat
  deadline : Tick
  deriving DecidableEq, Repr

/-- The two pattern banks (R117). -/
inductive Bank where
  | bank0 | bank1
  deriving DecidableEq, Repr

/-- What the owner link was last told the caller should hear (R124). -/
inductive Source where
  | none
  | programme (p : Nat)
  | personal (timeslot : Nat)
  deriving DecidableEq, Repr

/-- The states of a treatment (R125). -/
inductive TreatmentState where
  | running | awaitChannel | playing | returning | held | finished
  deriving DecidableEq, Repr

/-- The treatment part of a call record (R124). -/
structure Treatment where
  bank : Bank
  pattern : Nat
  step : Nat
  state : TreatmentState
  deadline : Option Tick
  loop : Nat
  source : Source
  lastProgramme : Option Nat
  heldSource : Option Source
  deriving DecidableEq, Repr

/-- A call record (R30). -/
structure Call where
  state : CallState
  owner : Link
  ref : Word32
  key : Option Word32
  queue : Nat
  basePriority : Nat
  band : Nat
  arrival : Tick
  entry : Tick
  promotion : Option Tick
  redirects : Nat
  exitPending : Option Nat
  offer : Option CallOffer
  agent : Option Nat
  connectTick : Option Tick
  treatment : Option Treatment
  deriving DecidableEq, Repr

/-- A step of a treatment pattern (R123). -/
inductive PatternStep where
  | music (programme duration : Nat)
  | silence (duration : Nat)
  | announce (segments : List Nat)
  | position
  | waitEstimate
  | goto (target count : Nat)
  | raise (n : Nat)
  | overflow (queue : Nat)
  | exit (reason : Nat)
  deriving DecidableEq, Repr

/-! ## Queues and their statistics (chapters 2, 4, 5 and 8) -/

/-- The configuration part of a queue record (R32). -/
structure QueueConfig where
  enabled : Bool
  minProficiency : Nat
  ringTime : Nat
  wrapLimit : Nat
  maxExtension : Nat
  serviceThreshold : Nat
  agingInterval : Nat
  upper : Nat
  lower : Nat
  overflowTarget : Option Nat
  maxWait : Option Nat
  pattern : Nat
  affinity : Bool
  shift : Nat
  initialHandle : Nat
  deriving DecidableEq, Repr

/-- The eight counters of a queue (R163), by the counter index of 10_frame_and_record_formats 10.2. -/
inductive CounterName where
  | offered | answered | answeredInService | abandoned | overflowedOut | rona | exited | announceSkipped
  deriving DecidableEq, Repr

/-- A counter with its wrap flag (R164). -/
structure Counter where
  value : Word32
  wrapped : Bool
  deriving DecidableEq, Repr

/-- The eight counters and the peak waiting count of a queue (R163, R165). -/
structure Statistics where
  offered : Counter
  answered : Counter
  answeredInService : Counter
  abandoned : Counter
  overflowedOut : Counter
  rona : Counter
  exited : Counter
  announceSkipped : Counter
  peak : Nat
  deriving DecidableEq, Repr

/-- A queue record: its configuration (R32) and its dynamic part (R35). The waiting count is the length of `order`. -/
structure Queue where
  config : QueueConfig
  order : List Nat
  closed : Bool
  aht : Nat
  weight : Nat
  stats : Statistics
  deriving DecidableEq, Repr

/-- A counter at zero with its flag clear (R163). -/
def Counter.zero : Counter := { value := 0, wrapped := false }

/-- Statistics after either reset (R163). -/
def Statistics.zero : Statistics :=
  { offered := .zero, answered := .zero, answeredInService := .zero, abandoned := .zero, overflowedOut := .zero,
    rona := .zero, exited := .zero, announceSkipped := .zero, peak := 0 }

/-- The power-on configuration of a queue (R32). -/
def QueueConfig.powerOn : QueueConfig :=
  { enabled := false, minProficiency := 1, ringTime := 150, wrapLimit := 0, maxExtension := 0,
    serviceThreshold := 200, agingInterval := 0, upper := 2048, lower := 2048, overflowTarget := none,
    maxWait := none, pattern := 0, affinity := false, shift := 4, initialHandle := 1800 }

/-- A queue whose dynamic part is as either reset leaves it (R35, R98). -/
def QueueConfig.emptyQueue (c : QueueConfig) : Queue :=
  { config := c, order := [], closed := false, aht := c.initialHandle * 16, weight := 0, stats := .zero }

/-- A queue record after power-on reset (R32, R35). -/
def Queue.powerOn : Queue := QueueConfig.powerOn.emptyQueue

/-! ## Recent service and vocabulary (chapters 3 and 5) -/

/-- An entry of the recent service list (R64). -/
structure RecentEntry where
  key : Word32
  agent : Nat
  deriving DecidableEq, Repr

/-- The vocabulary record (R109). -/
structure Vocabulary where
  base : Nat
  posBefore : Option Nat
  posAfter : Option Nat
  waitBefore : Option Nat
  waitAfter : Option Nat
  waitUnknown : Option Nat
  deriving DecidableEq, Repr

/-- The vocabulary record after power-on reset (R109). -/
def Vocabulary.powerOn : Vocabulary :=
  { base := 0, posBefore := none, posAfter := none, waitBefore := none, waitAfter := none, waitUnknown := none }

/-! ## Playout (chapter 7) -/

/-- A defined segment (R143). -/
structure Segment where
  first : Nat
  blocks : Nat
  lastBytes : Nat
  deriving DecidableEq, Repr

/-- How the tracks of a programme follow each other (R148). -/
inductive TrackOrder where
  | linear | interleaved
  deriving DecidableEq, Repr

/-- The states of a programme (R150). -/
inductive ProgrammeState where
  | stopped | running | paused
  deriving DecidableEq, Repr

/-- A programme with its cursor: the track counter and the byte offset (R147). -/
structure Programme where
  tracks : List Nat
  order : TrackOrder
  start : Nat
  state : ProgrammeState
  counter : Nat
  offset : Nat
  deriving DecidableEq, Repr

/-- A programme after power-on reset (R147). -/
def Programme.powerOn : Programme :=
  { tracks := [], order := .linear, start := 0, state := .stopped, counter := 0, offset := 0 }

/-- The states of a personal channel (R151). -/
inductive ChannelState where
  | free | bound | playing | draining
  deriving DecidableEq, Repr

/-- A personal channel (R151). The play cursor has meaning while it is PLAYING. -/
structure Channel where
  state : ChannelState
  holder : Option Nat
  phrase : Option (List Nat)
  segIndex : Nat
  offset : Nat
  deriving DecidableEq, Repr

/-- A FREE channel (R151). -/
def Channel.free : Channel := { state := .free, holder := none, phrase := none, segIndex := 0, offset := 0 }

/-- A channel that has been given up and waits for the next block boundary (R151). -/
def Channel.draining : Channel := { state := .draining, holder := none, phrase := none, segIndex := 0, offset := 0 }

/-- An entry of a highway's deferral list (R154). -/
structure Deferral where
  call : Nat
  deadline : Tick
  deriving DecidableEq, Repr

/-- A hold highway: its personal channels by timeslot, its deferral list, and the byte each of its 128 timeslots carried
in the last frame (R146, R151, R154).
DESIGN CHOICE: log entry 14. -/
structure HighwayRec where
  channels : Table Channel
  deferral : List Deferral
  output : List Byte
  deriving DecidableEq, Repr

/-- A highway after power-on reset: every channel FREE, no deferral, and the silence byte in every timeslot (R146, R162). -/
def HighwayRec.powerOn : HighwayRec :=
  { channels := [], deferral := [], output := List.replicate Config.timeslots 0xFF }

/-! ## Links (chapters 9 and 10) -/

/-- A permission set (R174). -/
structure Permissions where
  calls : Bool
  agents : Bool
  config : Bool
  stats : Bool
  deriving DecidableEq, Repr

/-- The three notice enables of a link (R174). -/
structure Enables where
  monitoring : Bool
  stats : Bool
  faults : Bool
  deriving DecidableEq, Repr

/-- A checked request in an inbound FIFO; its body is tested when it is taken (R175, R177). -/
structure Request where
  tag : Byte
  kind : Byte
  body : List Byte
  deriving DecidableEq, Repr

/-- The status codes of replies (00_scope 3.5). -/
inductive Status where
  | done | notPermitted | notOwner | noSuch | stateConflict | tableFull | queueClosed | queueDisabled
  | redirectLimit | tooLate | stale | bankInUse | bankNotOpen | inUse | malformed
  deriving DecidableEq, Repr

/-- The causes of an OFFER_CANCEL (R75, R77, R78). -/
inductive CancelCause where
  | ringExpired | callWithdrawn | agentLoggedOut
  deriving DecidableEq, Repr

/-- The causes of an AGENT_STATE (R171). -/
inductive Cause where
  | request | otherLink | offer | inference | expiry | force | linkLoss
  deriving DecidableEq, Repr

/-- The fault types (R175). -/
inductive FaultType where
  | badLength | badCheck | overrun | malformed
  deriving DecidableEq, Repr

/-- The ten notice kinds, with the fields their rules give them. -/
inductive Notice where
  | offer (token : Token) (agent : Nat) (agentId : Word32) (call queue : Nat) (key : Word32) (owner : Link) (ref : Word32)
  | offerCancel (token : Token) (agent call : Nat) (cause : CancelCause)
  | connect (call : Nat) (ref : Word32) (token : Token) (agent : Nat) (agentId : Word32) (home : Option Link) (queue : Nat)
  | listen (call : Nat) (ref : Word32) (highway : Highway) (timeslot : Option Nat)
  | callExit (call : Nat) (ref : Word32) (reason : Nat)
  | agentState (agent : Nat) (agentId : Word32) (new old : AgentState) (reason : Nat) (pending : PendingChange)
      (cause : Cause) (now : Tick)
  | queueState (queue : Nat) (closed : Bool) (count : Nat) (now : Tick)
  | statsWrap (queue : Nat) (counter : CounterName)
  | fault (link : Link) (type : FaultType) (tagAndKind : Option (Byte × Byte)) (count : Nat)
  | engineRestarted (now : Tick)
  deriving DecidableEq, Repr

/-- The bank status that every bank request's reply carries (R119). -/
structure BankStatus where
  active : Bank
  opened : Option Bank
  count0 : Nat
  count1 : Nat
  deriving DecidableEq, Repr

/-- The number of a highway's channels in each state and the length of its deferral list (R151, R169). -/
structure ChannelCounts where
  free : Nat
  bound : Nat
  playing : Nat
  draining : Nat
  deferred : Nat
  deriving DecidableEq, Repr

/-- The result fields of a reply, by the rule of the request it answers. -/
inductive Result where
  /-- the status alone (R177) -/
  | bare
  /-- a taken CALL_ENTER (R47) -/
  | entered (call queue position ewt : Nat)
  /-- an agent request that passed its slot check (R4), and a refused wrap request (R89) -/
  | agent (slot : Nat) (state : AgentState) (pending : PendingChange)
  /-- a taken AGENT_LOGIN, with the number of skill entries kept (R10) -/
  | login (slot : Nat) (state : AgentState) (pending : PendingChange) (kept : Nat)
  /-- a taken AGENT_UPDATE, with the mask of the fields applied (R19) -/
  | update (slot : Nat) (state : AgentState) (pending : PendingChange) (applied : Nat)
  /-- an OFFER_REPLY that passed its slot check (R71) -/
  | offerReply (slot : Nat) (token : Token) (state : AgentState) (pending : PendingChange)
  /-- a current ACCEPT (R71) -/
  | accepted (slot : Nat) (token : Token) (state : AgentState) (pending : PendingChange) (call : Nat) (owner : Link)
  /-- an OFFER_REPLY answered TOO_LATE (R71) -/
  | late (slot : Nat) (token : Token) (state : AgentState) (pending : PendingChange) (outcome : OfferOutcome)
  /-- a taken WRAP_EXTEND (R88) -/
  | extended (slot grant granted : Nat) (deadline : Tick)
  /-- a taken WRAP_END (R90) -/
  | wrapEnded (slot sample : Nat) (state : AgentState) (pending : PendingChange)
  /-- a taken QUEUE_SET (R32) -/
  | queueConfig (config : QueueConfig)
  /-- a bank request, whatever its status; the stored length is a taken PATTERN_WRITE's (R119, R122) -/
  | bank (status : BankStatus) (stored : Option Nat)
  /-- a taken SEGMENT_SET (R143) -/
  | segment (entry : Option Segment) (useCount : Nat)
  /-- a taken SAMPLE_WRITE (R142) -/
  | sample (block count : Nat)
  /-- a taken PROGRAMME_SET (R147) -/
  | programme (programme : Programme)
  /-- a taken PROGRAMME_CONTROL (R150) -/
  | programmeState (state : ProgrammeState) (counter offset : Nat)
  /-- a taken VOCABULARY_SET (R110) -/
  | vocabulary (record : Vocabulary)
  /-- a taken TREATMENT_SET (R146) -/
  | treatment (silence : Byte) (deferLimit : Nat)
  /-- a taken PORT_SET (R181) -/
  | port (permissions : Permissions) (enables : Enables)
  /-- a taken ENGINE_RESET (R187) -/
  | engineReset (now : Tick)
  /-- a taken STATS_READ or STATS_CLEAR (R166, R167) -/
  | stats (queue : Nat) (now : Tick) (stats : Statistics)
  /-- a taken QUEUE_READ (R168) -/
  | queue (config : QueueConfig) (count : Nat) (closed : Bool) (aht weight ewt : Nat)
  /-- a taken CALL_READ (R168) -/
  | call (record : Call) (deferral : Option Tick) (channel : Option (Highway × Nat × ChannelState))
  /-- a taken AGENT_READ (R169) -/
  | agentRecord (record : Agent) (position : Option Nat)
  /-- a taken PORT_READ (R169) -/
  | portRecord (up : Bool) (permissions : Permissions) (enables : Enables) (faultCount : Nat) (dropped : Bool)
      (queued reserved free : Nat) (channels : Option ChannelCounts)
  deriving DecidableEq, Repr

/-- A reply: the request's tag, the reply kind, one status and the result fields (R177, R188). -/
structure Reply where
  tag : Byte
  kind : Byte
  status : Status
  result : Result
  deriving DecidableEq, Repr

/-- An outbound entry (R178).
DESIGN CHOICE: log entry 12. -/
inductive OutEntry where
  | reply (r : Reply)
  | notice (n : Notice)
  deriving DecidableEq, Repr

/-- A link record (R174). `receiving` holds the bytes of a frame that has begun and not ended (implied by R175 and R182);
`exitOrder` and `listenOrder` hold the slots of the link's calls whose exit is pending and whose LISTEN is held, oldest
first (implied by R52, R129, R159 and R180).
DEDUCED: log entries 7 and 16. -/
structure LinkRec where
  up : Bool
  receiving : List Byte
  inbound : List Request
  outbound : List OutEntry
  reserved : Nat
  permissions : Permissions
  enables : Enables
  faultCount : Nat
  dropped : Bool
  exitOrder : List Nat
  listenOrder : List Nat
  deriving DecidableEq, Repr

/-- A link record after power-on reset, with its permission set and its notice enables (R174). -/
def LinkRec.powerOn (permissions : Permissions) (enables : Enables) : LinkRec :=
  { up := false, receiving := [], inbound := [], outbound := [], reserved := 0, permissions := permissions,
    enables := enables, faultCount := 0, dropped := false, exitOrder := [], listenOrder := [] }

/-- Link A and Link B after power-on reset (R174). -/
def LinkRec.powerOnSwitching : LinkRec :=
  .powerOn { calls := true, agents := true, config := false, stats := false }
    { monitoring := false, stats := false, faults := false }

/-- Link S after power-on reset (R174). -/
def LinkRec.powerOnSupervision : LinkRec :=
  .powerOn { calls := false, agents := false, config := true, stats := true }
    { monitoring := true, stats := true, faults := true }

/-! ## The state -/

/-- The reasons for which the part stops. There is none: every command of the table is carried out, answered with a
refusal status, or cannot arise and changes nothing, so no constructor is needed and no step faults. -/
inductive Fault where
  deriving DecidableEq, Repr

/-- The reasons for which the model has no meaning for a command. -/
inductive Refusal where
  /-- Raised by an arm of `exec` whose command has no meaning yet. No arm raises it now. Safe: the model stops. -/
  | notModelled (mnemonic : String)
  deriving DecidableEq, Repr

/-- The state of the part. -/
structure State where
  /-- The commands that wait, first in first out (the model's own queue). DESIGN CHOICE: log entry 1. -/
  pending : List Instr
  /-- TMB: the tick count (R184). -/
  tick : Tick
  /-- TMB: frames placed since the last block-boundary mark, 0-255 (R185). DEDUCED: log entry 3. -/
  frameCount : Nat
  /-- TMB: a block boundary has been marked and its event, which comes before the next frame, has not been taken (R185). DEDUCED:
  log entry 3. -/
  boundaryDue : Bool
  /-- LNK: the three link records (R174). -/
  linkA : LinkRec
  linkB : LinkRec
  linkS : LinkRec
  /-- AGT: the agent records by slot; an unlisted slot holds `Agent.reset` (R1). -/
  agents : Table Agent
  /-- AGT: the available list, head first (R6). -/
  available : List Nat
  /-- QMG: the call records by slot; an unlisted slot is free (R30). -/
  calls : Table Call
  /-- QMG, WHU, EWU, STU: the queue records; an unlisted queue holds `Queue.powerOn` (R32, R35). -/
  queues : Table Queue
  /-- DSU: the offer token counter, the token most recently issued (R56). -/
  token : Token
  /-- DSU: the recent service list, newest first (R64). -/
  recent : List RecentEntry
  /-- EWU: the vocabulary record (R109). -/
  vocabulary : Vocabulary
  /-- TSQ: the patterns of bank 0 and of bank 1; an unlisted pattern is empty (R117). -/
  patterns0 : Table (List PatternStep)
  patterns1 : Table (List PatternStep)
  /-- TSQ: the active-bank selector and the open bank (R117). -/
  activeBank : Bank
  openBank : Option Bank
  /-- TSQ: the bank reference counts (R118). -/
  refs0 : Nat
  refs1 : Nat
  /-- PLY: the sample store by byte address, block number times 256 plus the byte's place; an unlisted byte is 0 (R141). -/
  store : List Host.Cell
  /-- PLY: the segment table; an unlisted segment is undefined (R143). -/
  segments : Table Segment
  /-- PLY: the segments' use counts; an unlisted count is 0 (R144). -/
  useCounts : Table Nat
  /-- PLY: the programme table; an unlisted programme is as after power-on (R147). -/
  programmes : Table Programme
  /-- PLY: the two hold highways (R146, R151, R154). -/
  highwayA : HighwayRec
  highwayB : HighwayRec
  /-- PLY: the silence byte and the defer limit (R146). -/
  silence : Byte
  deferLimit : Nat
  deriving DecidableEq, Repr

/-- The part right after power-on reset (R186), with no command waiting. -/
def State.reset : State :=
  { pending := [], tick := 0, frameCount := 0, boundaryDue := false, linkA := .powerOnSwitching,
    linkB := .powerOnSwitching, linkS := .powerOnSupervision, agents := [], available := [], calls := [], queues := [],
    token := 0, recent := [], vocabulary := .powerOn, patterns0 := [], patterns1 := [], activeBank := .bank0,
    openBank := none, refs0 := 0, refs1 := 0, store := [], segments := [], useCounts := [], programmes := [],
    highwayA := .powerOn, highwayB := .powerOn, silence := 0xFF, deferLimit := 50 }

end Sys2Proof.Machine
end

