-- ==== Sys2Proof/Machine/Ops.lean ====
section
/-!
DEFINITION. Shared operations: tables, the sample store, tick comparison, access to the records of State, and the event
in progress with its outbound entries, reservations and waiting work (chapter 9).
-/
namespace Sys2Proof

/-- The highway whose personal channels serve a link's calls; Link S has none (R146). -/
def Link.highway? : Link → Option Highway
  | .a => some .a
  | .b => some .b
  | .s => none

/-- The link whose calls a highway's personal channels serve (R146). -/
def Highway.link : Highway → Link
  | .a => .a
  | .b => .b

end Sys2Proof

namespace Sys2Proof.Machine

open Sys2Proof

/-! ## Tables in canonical form -/

/-- The entry of a table at a key. -/
def Assoc.find {α : Type} (k : Nat) : List (Nat × α) → Option α
  | [] => none
  | (k', v) :: t => if k' = k then some v else Assoc.find k t

/-- The table without its entries at a key. -/
def Assoc.erase {α : Type} (k : Nat) (t : List (Nat × α)) : List (Nat × α) := t.filter fun e => e.1 != k

/-- The table with an entry placed before the first entry of a higher key. -/
def Assoc.insert {α : Type} (k : Nat) (v : α) : List (Nat × α) → List (Nat × α)
  | [] => [(k, v)]
  | (k', v') :: t => if k < k' then (k, v) :: (k', v') :: t else (k', v') :: Assoc.insert k v t

/-- The table with the entry at a key set. -/
def Assoc.put {α : Type} (k : Nat) (v : α) (t : List (Nat × α)) : List (Nat × α) :=
  Assoc.insert k v (Assoc.erase k t)

/-- The value of a table at a key, where an unlisted key holds `d`. -/
def Assoc.get {α : Type} (d : α) (k : Nat) (t : List (Nat × α)) : α := (Assoc.find k t).getD d

/-- The table with the value at a key set, where an unlisted key holds `d`: setting `d` removes the entry. -/
def Assoc.set {α : Type} [DecidableEq α] (d : α) (k : Nat) (v : α) (t : List (Nat × α)) : List (Nat × α) :=
  if v = d then Assoc.erase k t else Assoc.put k v t

/-- A table's keys rise strictly. -/
def Assoc.rising {α : Type} : List (Nat × α) → Bool
  | [] => true
  | [_] => true
  | (k, _) :: (k', v') :: t => decide (k < k') && Assoc.rising ((k', v') :: t)

/-! ## The sample store (R141) -/

/-- What an unlisted byte of the store reads as: power-on reset fills every block with zero bytes (R141). -/
def Memory.unlisted : Byte := 0

/-- One byte of the store. -/
def Memory.read (m : List Host.Cell) (a : Nat) : Byte := Assoc.get Memory.unlisted a m

/-- The store with one byte written. -/
def Memory.write (m : List Host.Cell) (a : Nat) (b : Byte) : List Host.Cell := Assoc.set Memory.unlisted a b m

/-- The store with bytes written from an address upward (R142). -/
def Memory.writeBytes (m : List Host.Cell) (a : Nat) : List Byte → List Host.Cell
  | [] => m
  | b :: bs => Memory.writeBytes (Memory.write m a b) (a + 1) bs

/-- The canonical form: addresses strictly rising, and no entry equal to what an unlisted address reads as. -/
def Memory.wf (m : List Host.Cell) : Bool := Assoc.rising m && m.all fun c => c.2 != Memory.unlisted

/-! ## Ticks (R184) -/

/-- `x` is later than `y`, by modular difference taken as a signed 32-bit number (00_scope 3.2). -/
def Tick.later (x y : Tick) : Bool := decide (0 < (x - y).toInt)

/-- A deadline is reached when the difference of now and it, as a signed 32-bit number, is zero or positive (R184). -/
def Tick.reached (now deadline : Tick) : Bool := decide (0 ≤ (now - deadline).toInt)

/-- A tick that lies a duration ahead. -/
def Tick.plus (t : Tick) (duration : Nat) : Tick := t + BitVec.ofNat 32 duration

/-- The ticks from one tick to a later one, by modular difference. -/
def Tick.elapsed (now start : Tick) : Nat := (now - start).toNat

/-- A number brought into a range. -/
def clamp (low high n : Nat) : Nat := max low (min high n)

/-! ## Records of State -/

/-- The record of a link. -/
def State.link (s : State) : Link → LinkRec
  | .a => s.linkA
  | .b => s.linkB
  | .s => s.linkS

/-- The state with a link's record set. -/
def State.setLink (s : State) (l : Link) (r : LinkRec) : State :=
  match l with
  | .a => { s with linkA := r }
  | .b => { s with linkB := r }
  | .s => { s with linkS := r }

/-- The agent record of a slot. -/
def State.agent (s : State) (slot : Nat) : Agent := Assoc.get Agent.reset slot s.agents

/-- The state with an agent record set. -/
def State.setAgent (s : State) (slot : Nat) (a : Agent) : State :=
  { s with agents := Assoc.set Agent.reset slot a s.agents }

/-- The call in a slot, absent when the slot is free (R30). -/
def State.call? (s : State) (slot : Nat) : Option Call := Assoc.find slot s.calls

/-- The state with a call record set. -/
def State.setCall (s : State) (slot : Nat) (c : Call) : State := { s with calls := Assoc.put slot c s.calls }

/-- The state with a call slot freed (R31). -/
def State.freeCall (s : State) (slot : Nat) : State := { s with calls := Assoc.erase slot s.calls }

/-- The state with a call record changed, if the slot holds one. -/
def State.updCall (s : State) (slot : Nat) (f : Call → Call) : State :=
  match s.call? slot with
  | some c => s.setCall slot (f c)
  | none => s

/-- The state with the treatment part of a call changed, if the call has one. -/
def State.updTreatment (s : State) (slot : Nat) (f : Treatment → Treatment) : State :=
  s.updCall slot fun c => { c with treatment := c.treatment.map f }

/-- The record of a queue. -/
def State.queue (s : State) (q : Nat) : Queue := Assoc.get Queue.powerOn q s.queues

/-- The state with a queue record set. -/
def State.setQueue (s : State) (q : Nat) (r : Queue) : State :=
  { s with queues := Assoc.set Queue.powerOn q r s.queues }

/-- The record of a highway. -/
def State.highway (s : State) : Highway → HighwayRec
  | .a => s.highwayA
  | .b => s.highwayB

/-- The state with a highway's record set. -/
def State.setHighway (s : State) (h : Highway) (r : HighwayRec) : State :=
  match h with
  | .a => { s with highwayA := r }
  | .b => { s with highwayB := r }

/-- A personal channel of a highway (R151). -/
def State.channel (s : State) (h : Highway) (timeslot : Nat) : Channel :=
  Assoc.get Channel.free timeslot (s.highway h).channels

/-- The state with a personal channel set. -/
def State.setChannel (s : State) (h : Highway) (timeslot : Nat) (c : Channel) : State :=
  s.setHighway h { s.highway h with channels := Assoc.set Channel.free timeslot c (s.highway h).channels }

/-- The pattern of a bank by its number (R117). -/
def State.pattern (s : State) (b : Bank) (p : Nat) : List PatternStep :=
  match b with
  | .bank0 => Assoc.get [] p s.patterns0
  | .bank1 => Assoc.get [] p s.patterns1

/-- The state with a pattern of a bank replaced whole (R122). -/
def State.setPattern (s : State) (b : Bank) (p : Nat) (steps : List PatternStep) : State :=
  match b with
  | .bank0 => { s with patterns0 := Assoc.set [] p steps s.patterns0 }
  | .bank1 => { s with patterns1 := Assoc.set [] p steps s.patterns1 }

/-- The reference count of a bank (R118). -/
def State.refs (s : State) : Bank → Nat
  | .bank0 => s.refs0
  | .bank1 => s.refs1

/-- The state with a bank's reference count changed (R118). -/
def State.updRefs (s : State) (b : Bank) (f : Nat → Nat) : State :=
  match b with
  | .bank0 => { s with refs0 := f s.refs0 }
  | .bank1 => { s with refs1 := f s.refs1 }

/-- The use count of a segment (R144). -/
def State.useCount (s : State) (segment : Nat) : Nat := Assoc.get 0 segment s.useCounts

/-- The state with the use count of each distinct segment of a list changed (R144). -/
def State.updUseCounts (s : State) (segments : List Nat) (f : Nat → Nat) : State :=
  { s with useCounts := segments.eraseDups.foldl (fun t g => Assoc.set 0 g (f (Assoc.get 0 g t)) t) s.useCounts }

/-- The segment of a number, absent when it is undefined (R143). -/
def State.segment? (s : State) (segment : Nat) : Option Segment := Assoc.find segment s.segments

/-- A programme by its number (R147). -/
def State.programme (s : State) (p : Nat) : Programme := Assoc.get Programme.powerOn p s.programmes

/-- The state with a programme set. -/
def State.setProgramme (s : State) (p : Nat) (r : Programme) : State :=
  { s with programmes := Assoc.set Programme.powerOn p r s.programmes }

/-- The three links, in the order in which one notice is offered to several of them.
DEDUCED: log entry 13. -/
def allLinks : List Link := [.a, .b, .s]

/-! ## Outbound queues and notice space (R178, R179) -/

/-- The entry is a notice. -/
def OutEntry.isNotice : OutEntry → Bool
  | .notice _ => true
  | .reply _ => false

/-- The notices queued on a link. -/
def LinkRec.noticeCount (r : LinkRec) : Nat := r.outbound.countP OutEntry.isNotice

/-- The replies queued on a link. -/
def LinkRec.replyCount (r : LinkRec) : Nat := r.outbound.countP fun e => !e.isNotice

/-- The free notice space of a link: 48 less the notices queued less the entries reserved; none while it is DOWN (R179). -/
def LinkRec.freeNotices (r : LinkRec) : Nat :=
  if r.up then Config.noticeEntries - r.noticeCount - r.reserved else 0

/-- The receive credit a link gives its controller: withdrawn while the inbound FIFO holds 16 requests (R176). -/
def LinkRec.receiveCredit (r : LinkRec) : Bool := decide (r.inbound.length < Config.inboundEntries)

/-- The free notice space of a link in a state. -/
def State.freeNotices (s : State) (l : Link) : Nat := (s.link l).freeNotices

/-! ## The event in progress -/

/-- A monitoring notice, or a FAULT, with the links it is offered to. It waits for the end of its event (R170, R175). -/
structure Offered where
  dests : List Link
  notice : Notice
  deriving DecidableEq, Repr

/-- An event in progress: the state, the monitoring notices it has called for, in order, and the links on which it has
freed notice space, whose waiting work is resumed at its end (R170, R180). -/
structure Ev where
  st : State
  offered : List Offered := []
  freedA : Bool := false
  freedB : Bool := false
  deriving DecidableEq, Repr

/-- The event with its state changed. -/
def Ev.upd (e : Ev) (f : State → State) : Ev := { e with st := f e.st }

/-- The event with a link's record changed. -/
def Ev.updLink (e : Ev) (l : Link) (f : LinkRec → LinkRec) : Ev :=
  { e with st := e.st.setLink l (f (e.st.link l)) }

/-- A monitoring notice, or a FAULT, called for by the event. -/
def Ev.offer (e : Ev) (dests : List Link) (n : Notice) : Ev :=
  { e with offered := e.offered ++ [{ dests := dests, notice := n }] }

/-- A notice queued on a link while a notice entry is free on it; LNK grants space only while it is free (R178, R179).
DESIGN CHOICE: log entry 17. -/
def Ev.queueNotice (e : Ev) (l : Link) (n : Notice) : Ev :=
  if 0 < e.st.freeNotices l then e.updLink l fun r => { r with outbound := r.outbound ++ [.notice n] } else e

/-- A reply queued on the link its request came on, with the request's tag and the reply kind given (R177, R188). -/
def Ev.replyWithKind (e : Ev) (l : Link) (r : Request) (kind : Byte) (status : Status) (result : Result) : Ev :=
  e.updLink l fun k =>
    { k with outbound := k.outbound ++ [.reply { tag := r.tag, kind := kind, status := status, result := result }] }

/-- A reply to a request: its kind is the request's kind plus 80h (R188). -/
def Ev.reply (e : Ev) (l : Link) (r : Request) (status : Status) (result : Result) : Ev :=
  e.replyWithKind l r (r.kind + 0x80) status result

/-- An entry reserved on a link for an offer in flight, while a notice entry is free on it (R179). -/
def Ev.reserve (e : Ev) (l : Link) : Ev :=
  if 0 < e.st.freeNotices l then e.updLink l fun r => { r with reserved := r.reserved + 1 } else e

/-- A reservation used: the notice it was held for takes its place. A link that has gone DOWN holds no reservation: it has
gone with the link's queue, and nothing is queued (R58, R182). -/
def Ev.useReservation (e : Ev) (l : Link) (n : Notice) : Ev :=
  if 0 < (e.st.link l).reserved then
    e.updLink l fun r => { r with reserved := r.reserved - 1, outbound := r.outbound ++ [.notice n] }
  else e

/-- The event has freed notice space on the link, so that the link's waiting work follows at its end (R180). -/
def Ev.markFreed (e : Ev) : Link → Ev
  | .a => { e with freedA := true }
  | .b => { e with freedB := true }
  | .s => e

/-- A reservation released: its entry returns to free notice space. On a link that has gone DOWN it has gone already
(R58, R182). -/
def Ev.releaseReservation (e : Ev) (l : Link) : Ev :=
  if 0 < (e.st.link l).reserved then
    (e.updLink l fun r => { r with reserved := r.reserved - 1 }).markFreed l
  else e

/-- One monitoring notice or FAULT at one destination: none on a link that is DOWN; queued where an entry is free;
dropped otherwise, which sets the link's notices-dropped flag (R170, R178). -/
def Ev.deliver (n : Notice) (e : Ev) (l : Link) : Ev :=
  if (e.st.link l).up then
    if 0 < e.st.freeNotices l then e.queueNotice l n else e.updLink l fun r => { r with dropped := true }
  else e

/-- The monitoring notices and FAULTs of the event, queued after everything else in the order of the changes that call
for them (R170, R175). -/
def Ev.deliverOffered (e : Ev) : State :=
  (e.offered.foldl (fun (e : Ev) (o : Offered) => o.dests.foldl (Ev.deliver o.notice) e) { e with offered := [] }).st

/-- A LISTEN for a call on its owner link (R129). -/
def Ev.queueListen (e : Ev) (slot : Nat) (c : Call) (timeslot : Option Nat) : Ev :=
  match c.owner.highway? with
  | some h => e.queueNotice c.owner (.listen slot c.ref h timeslot)
  | none => e

end Sys2Proof.Machine
end

