-- ==== Sys2Proof/Machine/Flags.lean ====
section
/-!
DEFINITION. The flags and counters of the part: the eight counters of a queue with their wrap flags (R163, R164), the
closed flag and its hysteresis (R43), the fault count of a link (R175), and the monitoring notices that report changes
of state (R164, R171, R172).
-/
namespace Sys2Proof.Machine

open Sys2Proof

/-! ## Counters (R163, R164) -/

/-- A counter of a queue's statistics by name. -/
def Statistics.counter (t : Statistics) : CounterName → Counter
  | .offered => t.offered
  | .answered => t.answered
  | .answeredInService => t.answeredInService
  | .abandoned => t.abandoned
  | .overflowedOut => t.overflowedOut
  | .rona => t.rona
  | .exited => t.exited
  | .announceSkipped => t.announceSkipped

/-- The statistics with a counter set. -/
def Statistics.setCounter (t : Statistics) (n : CounterName) (c : Counter) : Statistics :=
  match n with
  | .offered => { t with offered := c }
  | .answered => { t with answered := c }
  | .answeredInService => { t with answeredInService := c }
  | .abandoned => { t with abandoned := c }
  | .overflowedOut => { t with overflowedOut := c }
  | .rona => { t with rona := c }
  | .exited => { t with exited := c }
  | .announceSkipped => { t with announceSkipped := c }

/-- The eight counters in the order of their counter index (chapter 10.2). -/
def CounterName.all : List CounterName :=
  [.offered, .answered, .answeredInService, .abandoned, .overflowedOut, .rona, .exited, .announceSkipped]

/-- One more count: modular, and a counter that passes from FFFFFFFFh to 0 sets its wrap flag (R164). -/
def Counter.increment (c : Counter) : Counter :=
  { value := c.value + 1, wrapped := c.wrapped || decide (c.value = 0xFFFFFFFF) }

/-- The links that a STATS_WRAP is offered to (R164). -/
def State.statsWrapLinks (s : State) : List Link :=
  allLinks.filter fun l => (s.link l).up && (s.link l).permissions.stats && (s.link l).enables.stats

/-- A count on a queue's counter, with the STATS_WRAP when its wrap flag goes from clear to set (R164). -/
def Ev.count (e : Ev) (q : Nat) (n : CounterName) : Ev :=
  let r := e.st.queue q
  let c := r.stats.counter n
  let e := e.upd fun s => s.setQueue q { r with stats := r.stats.setCounter n c.increment }
  if c.increment.wrapped && !c.wrapped then e.offer e.st.statsWrapLinks (.statsWrap q n) else e

/-! ## The closed flag (R43, R172) -/

/-- The links whose monitoring enable is set (R171, R172). -/
def State.monitoringLinks (s : State) : List Link := allLinks.filter fun l => (s.link l).enables.monitoring

/-- A queue's closed flag set to a new value, with its QUEUE_STATE notice (R43, R172). -/
def Ev.setClosed (e : Ev) (q : Nat) (closed : Bool) : Ev :=
  let e := e.upd fun s => s.setQueue q { s.queue q with closed := closed }
  e.offer e.st.monitoringLinks (.queueState q closed (e.st.queue q).order.length e.st.tick)

/-- An open queue whose waiting count is at or above its upper threshold closes (R43). -/
def Ev.evalClosing (e : Ev) (q : Nat) : Ev :=
  let r := e.st.queue q
  if r.closed = false ∧ r.config.upper ≤ r.order.length then e.setClosed q true else e

/-- A closed queue whose waiting count is below its lower threshold opens (R43). -/
def Ev.evalOpening (e : Ev) (q : Nat) : Ev :=
  let r := e.st.queue q
  if r.closed = true ∧ r.order.length < r.config.lower then e.setClosed q false else e

/-! ## Agent state notices (R3, R171) -/

/-- The change is reported: the state changes, or the not-ready reason changes while the agent stays NOT_READY (R3). -/
def Agent.reported (old new : Agent) : Bool :=
  decide (old.state ≠ new.state) || decide (new.state = .notReady ∧ old.reason ≠ new.reason)

/-- The links an AGENT_STATE is offered to: those with monitoring enabled, and the home link held before the change
unless the cause is REQUEST; a link that qualifies twice receives one copy (R170, R171). A link whose own monitoring enable is
set is told of a login on it, and of a WRAP_END that it sent as the home link (R90).
DESIGN CHOICE: log entry 22. -/
def State.agentStateLinks (s : State) (home : Option Link) (cause : Cause) : List Link :=
  allLinks.filter fun l => (s.link l).enables.monitoring || decide (cause ≠ .request ∧ home = some l)

/-- The AGENT_STATE of a change from one record to another, when the change is reported (R171). -/
def Ev.reportAgent (e : Ev) (slot : Nat) (old new : Agent) (cause : Cause) : Ev :=
  if old.reported new then
    e.offer (e.st.agentStateLinks old.home cause)
      (.agentState slot new.id new.state old.state new.reason new.pending cause e.st.tick)
  else e

/-! ## Faults of a link (R175) -/

/-- The links a FAULT is offered to (R175). -/
def State.faultLinks (s : State) : List Link :=
  allLinks.filter fun l => (s.link l).up && (s.link l).permissions.config && (s.link l).enables.faults

/-- A faulty frame or request: the link's fault count rises by 1, a count at 65535 staying there, and a FAULT is offered
with the count after the increase (R175).
DESIGN CHOICE: log entry 12. -/
def Ev.raiseFault (e : Ev) (l : Link) (t : FaultType) (tagAndKind : Option (Byte × Byte)) : Ev :=
  let e := e.updLink l fun r => { r with faultCount := min 65535 (r.faultCount + 1) }
  e.offer e.st.faultLinks (.fault l t tagAndKind (e.st.link l).faultCount)

end Sys2Proof.Machine
end

