-- ==== Sys2Proof/Machine/Operands.lean ====
section
/-!
DEFINITION. The operands of the request commands: the bodies of chapter 10.3 and 10.4, field by field at the byte offsets
the chapter gives. A reader of a body answers none exactly where R189 and R190 make the body malformed; numbers out of
range that R189 leaves to the request's own rule are passed on as they are.
-/
namespace Sys2Proof.Machine

open Sys2Proof

/-! ## Fields (R188: most significant byte first) -/

/-- The byte at an offset, as a number. -/
def u8 (b : List Byte) (i : Nat) : Nat := (b.getD i 0).toNat

/-- The two-byte field at an offset. -/
def u16 (b : List Byte) (i : Nat) : Nat := u8 b i * 256 + u8 b (i + 1)

/-- The four-byte field at an offset. -/
def u32 (b : List Byte) (i : Nat) : Word32 := BitVec.ofNat 32 (u16 b i * 65536 + u16 b (i + 2))

/-! ## Codes (chapter 10.2) -/

/-- An exit type code (R189). -/
def exitType? (n : Nat) : Option ExitType :=
  if n = 0 then some .timed else if n = 1 then some .manual else none

/-- A two-valued code: enable, affinity, order, presence indication, keep-flags or clear option. -/
def flag? (n : Nat) : Option Bool := if n = 0 then some false else if n = 1 then some true else none

/-- A link code. -/
def link? (n : Nat) : Option Link :=
  if n = 0 then some .a else if n = 1 then some .b else if n = 2 then some .s else none

/-- A bank number (R119). -/
def bank? (n : Nat) : Option Bank :=
  if n = 0 then some .bank0 else if n = 1 then some .bank1 else none

/-- A track order code. -/
def trackOrder? (n : Nat) : Option TrackOrder :=
  if n = 0 then some .linear else if n = 1 then some .interleaved else none

/-- An optional value behind a presence indication: none when the indication is no code; when it reads absent the value is
not examined (R189). -/
def present? (indication value : Nat) : Option (Option Nat) :=
  if indication = 0 then some none else if indication = 1 then some (some value) else none

/-- The value of a masked field whose code must be valid; an unmasked field's content is not examined (R189). -/
def masked? {α : Type} (masked : Bool) (value : Option α) : Option (Option α) :=
  if masked then value.map some else some none

/-! ## The bodies -/

/-- CALL_ENTER (R189). -/
structure CallEnterBody where
  ref : Word32
  queue : Nat
  priority : Nat
  key : Word32
  deriving DecidableEq, Repr

def readCallEnter (b : List Byte) : Option CallEnterBody :=
  if b.length = 10 then some { ref := u32 b 0, queue := u8 b 4, priority := u8 b 5, key := u32 b 6 } else none

/-- A body that is one two-byte slot: CALL_WITHDRAW, CALL_RELEASE, AGENT_LOGOUT, AGENT_READY, WRAP_END, CALL_READ. -/
def readSlot (b : List Byte) : Option Nat := if b.length = 2 then some (u16 b 0) else none

/-- Skill entries from an offset on. -/
def readSkills (b : List Byte) (i : Nat) : Nat → List Skill
  | 0 => []
  | n + 1 => { queue := u8 b i, proficiency := u8 b (i + 1) } :: readSkills b (i + 2) n

/-- AGENT_LOGIN (R189). -/
structure LoginBody where
  slot : Nat
  id : Word32
  missLimit : Nat
  exitType : ExitType
  penalty : Nat
  skills : List Skill
  deriving DecidableEq, Repr

def readLogin (b : List Byte) : Option LoginBody :=
  let n := u8 b 10
  if 11 ≤ b.length ∧ n ≤ Config.maxSkills ∧ b.length = 11 + 2 * n then
    (exitType? (u8 b 7)).map fun x =>
      { slot := u16 b 0, id := u32 b 2, missLimit := u8 b 6, exitType := x, penalty := u16 b 8,
        skills := readSkills b 11 n }
  else none

/-- AGENT_NOT_READY (R189). -/
structure NotReadyBody where
  slot : Nat
  reason : Nat
  deriving DecidableEq, Repr

def readNotReady (b : List Byte) : Option NotReadyBody :=
  if b.length = 3 then some { slot := u16 b 0, reason := u8 b 2 } else none

/-- AGENT_UPDATE: a field is present when it is masked (R189). -/
structure UpdateBody where
  slot : Nat
  skills : Option (List Skill)
  missLimit : Option Nat
  exitType : Option ExitType
  penalty : Option Nat
  id : Option Word32
  deriving DecidableEq, Repr

def readUpdate (b : List Byte) : Option UpdateBody :=
  let mask := u16 b 2
  let n := u8 b 12
  if 13 ≤ b.length ∧ n ≤ Config.maxSkills ∧ b.length = 13 + 2 * n ∧ mask < 32 then
    (masked? (mask.testBit 2) (exitType? (u8 b 9))).map fun x =>
      { slot := u16 b 0
        skills := if mask.testBit 0 then some (readSkills b 13 n) else none
        missLimit := if mask.testBit 1 then some (u8 b 8) else none
        exitType := x
        penalty := if mask.testBit 3 then some (u16 b 10) else none
        id := if mask.testBit 4 then some (u32 b 4) else none }
  else none

/-- The AGENT_FORCE actions (R22). -/
inductive ForceAction where
  | logout | notReady | logoutNow
  deriving DecidableEq, Repr

/-- AGENT_FORCE; the reason is examined only for FORCE_NOT_READY (R189). -/
structure ForceBody where
  slot : Nat
  action : ForceAction
  reason : Nat
  deriving DecidableEq, Repr

def forceAction? (n : Nat) : Option ForceAction :=
  if n = 1 then some .logout else if n = 2 then some .notReady else if n = 3 then some .logoutNow else none

def readForce (b : List Byte) : Option ForceBody :=
  if b.length = 4 then
    (forceAction? (u8 b 2)).map fun x => { slot := u16 b 0, action := x, reason := u8 b 3 }
  else none

/-- WRAP_EXTEND (R189). -/
structure ExtendBody where
  slot : Nat
  requested : Nat
  deriving DecidableEq, Repr

def readExtend (b : List Byte) : Option ExtendBody :=
  if b.length = 4 then some { slot := u16 b 0, requested := u16 b 2 } else none

/-- OFFER_REPLY; `accepts` is its answer (R189). -/
structure OfferReplyBody where
  slot : Nat
  token : Token
  accepts : Bool
  deriving DecidableEq, Repr

def answer? (n : Nat) : Option Bool := if n = 1 then some true else if n = 2 then some false else none

def readOfferReply (b : List Byte) : Option OfferReplyBody :=
  if b.length = 5 then
    (answer? (u8 b 4)).map fun x => { slot := u16 b 0, token := BitVec.ofNat 16 (u16 b 2), accepts := x }
  else none

/-- QUEUE_SET: a field is present when it is masked; the overflow target and the maximum wait carry a presence of their own
(R32, R189). -/
structure QueueSetBody where
  queue : Nat
  enabled : Option Bool
  minProficiency : Option Nat
  ringTime : Option Nat
  wrapLimit : Option Nat
  maxExtension : Option Nat
  serviceThreshold : Option Nat
  agingInterval : Option Nat
  upper : Option Nat
  lower : Option Nat
  overflowTarget : Option (Option Nat)
  maxWait : Option (Option Nat)
  pattern : Option Nat
  affinity : Option Bool
  shift : Option Nat
  initialHandle : Option Nat
  reseed : Bool
  deriving DecidableEq, Repr

def readQueueSet (b : List Byte) : Option QueueSetBody :=
  let mask := u16 b 1
  let plain (bit value : Nat) : Option Nat := if mask.testBit bit then some value else none
  if b.length = 29 then
    match masked? (mask.testBit 0) (flag? (u8 b 3)), masked? (mask.testBit 9) (present? (u8 b 19) (u8 b 20)),
        masked? (mask.testBit 10) (present? (u8 b 21) (u16 b 22)), masked? (mask.testBit 12) (flag? (u8 b 25)) with
    | some enabled, some overflowTarget, some maxWait, some affinity =>
        some { queue := u8 b 0, enabled := enabled, minProficiency := plain 1 (u8 b 4), ringTime := plain 2 (u16 b 5),
               wrapLimit := plain 3 (u16 b 7), maxExtension := plain 4 (u16 b 9),
               serviceThreshold := plain 5 (u16 b 11), agingInterval := plain 6 (u16 b 13),
               upper := plain 7 (u16 b 15), lower := plain 8 (u16 b 17), overflowTarget := overflowTarget,
               maxWait := maxWait, pattern := plain 11 (u8 b 24), affinity := affinity,
               shift := plain 13 (u8 b 26), initialHandle := plain 14 (u16 b 27), reseed := mask.testBit 15 }
    | _, _, _, _ => none
  else none

/-- A body that is one byte: BANK_OPEN, BANK_CLOSE, BANK_ACTIVATE, STATS_READ, QUEUE_READ. -/
def readByte (b : List Byte) : Option Nat := if b.length = 1 then some (u8 b 0) else none

/-- The used segment numbers of an ANNOUNCE step. -/
def readSegments (b : List Byte) (i : Nat) : Nat → List Nat
  | 0 => []
  | n + 1 => u16 b i :: readSegments b (i + 2) n

/-- A pattern step of 10 bytes at an offset, after the clamps of R123 (R190). -/
def readStep (b : List Byte) (i : Nat) : Option PatternStep :=
  let x := u8 b (i + 1)
  match u8 b i with
  | 1 => if x ≤ 7 then some (.music x (u16 b (i + 2))) else none
  | 2 => some (.silence (u16 b (i + 1)))
  | 3 =>
      let segments := readSegments b (i + 2) x
      if 1 ≤ x ∧ x ≤ 4 ∧ (segments.all fun g => decide (g < Config.segmentCount)) = true then some (.announce segments) else none
  | 4 => some .position
  | 5 => some .waitEstimate
  | 6 => if x ≤ 15 then some (.goto x (u8 b (i + 2))) else none
  | 7 => some (.raise (clamp 1 7 x))
  | 8 => if x < Config.queueCount then some (.overflow x) else none
  | 9 => if x ≤ 15 then some (.exit x) else none
  | _ => none

/-- Pattern steps from an offset on; none when any of them is malformed (R190). -/
def readSteps (b : List Byte) (i : Nat) : Nat → Option (List PatternStep)
  | 0 => some []
  | n + 1 =>
      match readStep b i, readSteps b (i + 10) n with
      | some step, some rest => some (step :: rest)
      | _, _ => none

/-- PATTERN_WRITE (R190). -/
structure PatternWriteBody where
  bank : Nat
  pattern : Nat
  steps : List PatternStep
  deriving DecidableEq, Repr

def readPatternWrite (b : List Byte) : Option PatternWriteBody :=
  let n := u8 b 2
  if 3 ≤ b.length ∧ n ≤ Config.maxSteps ∧ b.length = 3 + 10 * n then
    (readSteps b 3 n).map fun steps => { bank := u8 b 0, pattern := u8 b 1, steps := steps }
  else none

/-- SEGMENT_SET; the values are present when the entry is to be defined (R189). -/
structure SegmentSetBody where
  segment : Nat
  entry : Option (Nat × Nat × Nat)
  deriving DecidableEq, Repr

def readSegmentSet (b : List Byte) : Option SegmentSetBody :=
  if b.length = 9 then
    (flag? (u8 b 2)).map fun defined =>
      { segment := u16 b 0, entry := if defined then some (u16 b 3, u16 b 5, u16 b 7) else none }
  else none

/-- SAMPLE_WRITE (R189). -/
structure SampleWriteBody where
  block : Nat
  bytes : List Byte
  deriving DecidableEq, Repr

def readSampleWrite (b : List Byte) : Option SampleWriteBody :=
  let n := u16 b 2
  if 4 ≤ b.length ∧ 1 ≤ n ∧ n ≤ Config.blockBytes ∧ b.length = 4 + n then
    some { block := u16 b 0, bytes := b.drop 4 }
  else none

/-- PROGRAMME_SET (R189). -/
structure ProgrammeSetBody where
  programme : Nat
  tracks : List Nat
  order : TrackOrder
  start : Nat
  deriving DecidableEq, Repr

def readProgrammeSet (b : List Byte) : Option ProgrammeSetBody :=
  let n := u8 b 1
  if 4 ≤ b.length ∧ n ≤ 8 ∧ b.length = 4 + 2 * n then
    (trackOrder? (u8 b (2 + 2 * n))).map fun order =>
      { programme := u8 b 0, tracks := readSegments b 2 n, order := order, start := u8 b (3 + 2 * n) }
  else none

/-- The PROGRAMME_CONTROL actions (R150). -/
inductive ProgrammeAction where
  | run | pause | stop
  deriving DecidableEq, Repr

def programmeAction? (n : Nat) : Option ProgrammeAction :=
  if n = 1 then some .run else if n = 2 then some .pause else if n = 3 then some .stop else none

/-- PROGRAMME_CONTROL (R189). -/
structure ProgrammeControlBody where
  programme : Nat
  action : ProgrammeAction
  deriving DecidableEq, Repr

def readProgrammeControl (b : List Byte) : Option ProgrammeControlBody :=
  if b.length = 2 then (programmeAction? (u8 b 1)).map fun x => { programme := u8 b 0, action := x } else none

/-- VOCABULARY_SET: the record as given (R189). -/
def readVocabulary (b : List Byte) : Option Vocabulary :=
  if b.length = 17 then
    match present? (u8 b 2) (u16 b 3), present? (u8 b 5) (u16 b 6), present? (u8 b 8) (u16 b 9),
        present? (u8 b 11) (u16 b 12), present? (u8 b 14) (u16 b 15) with
    | some p1, some p2, some p3, some p4, some p5 =>
        some { base := u16 b 0, posBefore := p1, posAfter := p2, waitBefore := p3, waitAfter := p4, waitUnknown := p5 }
    | _, _, _, _, _ => none
  else none

/-- TREATMENT_SET (R189). -/
structure TreatmentSetBody where
  silence : Byte
  deferLimit : Nat
  deriving DecidableEq, Repr

def readTreatmentSet (b : List Byte) : Option TreatmentSetBody :=
  if b.length = 3 then some { silence := b.getD 0 0, deferLimit := u16 b 1 } else none

/-- PORT_SET (R189). -/
structure PortSetBody where
  link : Link
  permissions : Permissions
  enables : Enables
  deriving DecidableEq, Repr

def readPortSet (b : List Byte) : Option PortSetBody :=
  let p := u8 b 1
  let n := u8 b 2
  if b.length = 3 ∧ p < 16 ∧ n < 8 then
    (link? (u8 b 0)).map fun l =>
      { link := l
        permissions := { calls := p.testBit 0, agents := p.testBit 1, config := p.testBit 2, stats := p.testBit 3 }
        enables := { monitoring := n.testBit 0, stats := n.testBit 1, faults := n.testBit 2 } }
  else none

/-- A body with no fields: ENGINE_RESET (R187). -/
def readEmpty (b : List Byte) : Option Unit := if b.length = 0 then some () else none

/-- STATS_CLEAR; the mask holds a bit for each counter and, at bit 8, the peak (R189). -/
structure StatsClearBody where
  queue : Nat
  mask : Nat
  keepFlags : Bool
  deriving DecidableEq, Repr

def readStatsClear (b : List Byte) : Option StatsClearBody :=
  let mask := u16 b 1
  if b.length = 4 ∧ mask < 512 then
    (flag? (u8 b 3)).map fun keep => { queue := u8 b 0, mask := mask, keepFlags := keep }
  else none

/-- AGENT_READ (R189). -/
structure AgentReadBody where
  slot : Nat
  clear : Bool
  deriving DecidableEq, Repr

def readAgentRead (b : List Byte) : Option AgentReadBody :=
  if b.length = 3 then (flag? (u8 b 2)).map fun x => { slot := u16 b 0, clear := x } else none

/-- PORT_READ (R189). -/
def readPortRead (b : List Byte) : Option Link := if b.length = 1 then link? (u8 b 0) else none

end Sys2Proof.Machine
end

