-- ==== Sys2Proof/Machine/Frames.lean ====
section
/-!
DEFINITION. Frames (R175, R188): how the receiver of a link finds and checks them, how one is laid out, and the bytes of
the replies and notices that the part sends.
-/
namespace Sys2Proof.Machine

open Sys2Proof

/-! ## The layout of a frame (R188) -/

/-- The sum of bytes that the check of a frame takes, modulo 65536 (R175, R188). -/
def byteSum (b : List Byte) : Nat := (b.map BitVec.toNat).sum % 65536

/-- A number as a two-byte field. -/
def bytes16 (n : Nat) : List Byte := [BitVec.ofNat 8 (n / 256), BitVec.ofNat 8 n]

/-- A number as a four-byte field. -/
def bytes32 (w : Word32) : List Byte := bytes16 (w.toNat / 65536) ++ bytes16 (w.toNat % 65536)

/-- A frame: delimiter, length, tag, kind, body and check (R188). -/
def frameOf (tag kind : Byte) (body : List Byte) : List Byte :=
  let checked := bytes16 (body.length + 2) ++ tag :: kind :: body
  Config.startDelimiter :: checked ++ bytes16 (byteSum checked)

/-! ## The receiver (R175) -/

/-- What the receiver finds in the bytes it holds: no whole frame yet, with the bytes to keep; an impossible length; or a
whole frame, with whether its check agrees; the last two with the bytes from which it hunts again. -/
inductive Scanned where
  | unfinished (keep : List Byte)
  | badLength (rest : List Byte)
  | frame (r : Request) (checked : Bool) (rest : List Byte)
  deriving DecidableEq, Repr

/-- The hunt for a start delimiter, and then checks 1 and 2 of R175. Bytes outside a frame are discarded. -/
def scanFrame (buffer : List Byte) : Scanned :=
  match buffer.dropWhile (· != Config.startDelimiter) with
  | d :: hi :: lo :: more =>
      let length := hi.toNat * 256 + lo.toNat
      if length < 2 ∨ Config.maxFrameLength < length then .badLength more
      else if more.length < length + 2 then .unfinished (d :: hi :: lo :: more)
      else
        let content := more.take length
        let check := u16 (more.drop length) 0
        .frame { tag := content.getD 0 0, kind := content.getD 1 0, body := content.drop 2 }
          (decide (check = byteSum (hi :: lo :: content))) (more.drop (length + 2))
  | short => .unfinished short

/-- The frames that end in the bytes a link's receiver holds, one after another: each enters the inbound FIFO or is
discarded as a fault, and a frame that has begun is kept (R175, R176). Each frame takes at least three bytes, so the number
of bytes is fuel enough.
DESIGN CHOICE: log entry 16. -/
def Ev.receive (l : Link) : Nat → List Byte → Ev → Ev
  | 0, buffer, e => e.updLink l fun r => { r with receiving := buffer }
  | fuel + 1, buffer, e =>
      match scanFrame buffer with
      | .unfinished keep => e.updLink l fun r => { r with receiving := keep }
      | .badLength rest => Ev.receive l fuel rest (e.raiseFault l .badLength none)
      | .frame r false rest => Ev.receive l fuel rest (e.raiseFault l .badCheck (some (r.tag, r.kind)))
      | .frame r true rest =>
          if (e.st.link l).inbound.length < Config.inboundEntries then
            Ev.receive l fuel rest (e.updLink l fun k => { k with inbound := k.inbound ++ [r] })
          else Ev.receive l fuel rest (e.raiseFault l .overrun (some (r.tag, r.kind)))

/-! ## Codes and bytes of outbound entries (chapters 10.2 and 10.3) -/

/-- A number as a one-byte field. -/
def byte1 (n : Nat) : Byte := BitVec.ofNat 8 n

/-- The link codes. -/
def linkCode : Link → Byte
  | .a => 0x00
  | .b => 0x01
  | .s => 0x02

/-- The highway codes of a LISTEN. -/
def highwayCode : Highway → Byte
  | .a => 0x00
  | .b => 0x01

/-- The status codes. -/
def Status.code : Status → Byte
  | .done => 0x00
  | .notPermitted => 0x01
  | .notOwner => 0x02
  | .noSuch => 0x03
  | .stateConflict => 0x04
  | .tableFull => 0x05
  | .queueClosed => 0x06
  | .queueDisabled => 0x07
  | .redirectLimit => 0x08
  | .tooLate => 0x09
  | .stale => 0x0A
  | .bankInUse => 0x0B
  | .bankNotOpen => 0x0C
  | .inUse => 0x0D
  | .malformed => 0x0E

/-- The agent state codes. -/
def AgentState.code : AgentState → Byte
  | .loggedOut => 0x00
  | .notReady => 0x01
  | .available => 0x02
  | .reserved => 0x03
  | .busy => 0x04
  | .wrapUp => 0x05
  | .inferredAbsent => 0x06

/-- The pending codes: NOT_READY carries its reason in the low four bits. -/
def PendingChange.code : PendingChange → Byte
  | .none => 0x00
  | .notReady reason => 0x10 + byte1 reason
  | .logout => 0x20

/-- The last-outcome codes; 00h is an absent outcome. -/
def OfferOutcome.code : OfferOutcome → Byte
  | .accepted => 0x01
  | .declined => 0x02
  | .expired => 0x03
  | .withdrawn => 0x04

/-- The OFFER_CANCEL cause codes. -/
def CancelCause.code : CancelCause → Byte
  | .ringExpired => 0x01
  | .callWithdrawn => 0x02
  | .agentLoggedOut => 0x03

/-- The notice kinds. -/
def Notice.kind : Notice → Byte
  | .offer .. => 0x40
  | .offerCancel .. => 0x41
  | .connect .. => 0x42
  | .listen .. => 0x43
  | .callExit .. => 0x44
  | .agentState .. => 0x45
  | .queueState .. => 0x46
  | .statsWrap .. => 0x47
  | .fault .. => 0x48
  | .engineRestarted .. => 0x49

/-- The fault type codes. -/
def FaultType.code : FaultType → Byte
  | .badLength => 0x01
  | .badCheck => 0x02
  | .overrun => 0x03
  | .malformed => 0x04

/-- The bank codes. -/
def bankCode : Bank → Byte
  | .bank0 => 0x00
  | .bank1 => 0x01

/-- The exit type codes. -/
def ExitType.code : ExitType → Byte
  | .timed => 0x00
  | .manual => 0x01

/-- The track order codes. -/
def TrackOrder.code : TrackOrder → Byte
  | .linear => 0x00
  | .interleaved => 0x01

/-- The codes of an enable, an affinity, a presence indication, and of every field that is set or clear. -/
def flagCode (b : Bool) : Byte := if b then 0x01 else 0x00

/-- The timeslot codes: FFh is none. -/
def timeslotCode : Option Nat → Byte
  | some ts => byte1 ts
  | none => 0xFF

/-- A source by the timeslot that carries it (R129). -/
def Source.code : Source → Byte
  | .none => timeslotCode .none
  | .programme p => timeslotCode (some p)
  | .personal ts => timeslotCode (some ts)

/-- The counter index of a counter. -/
def CounterName.code (n : CounterName) : Byte := byte1 (CounterName.all.idxOf n)

/-- The cause of an AGENT_STATE, in the order of the table of R171. -/
def Cause.code (c : Cause) : Byte :=
  Config.freeCode .agentCause
    ([Cause.request, .otherLink, .offer, .inference, .expiry, .force, .linkLoss].idxOf c)

/-- The state of a link (R174). -/
def linkStateCode (up : Bool) : Byte := Config.freeCode .linkState (if up then 0 else 1)

/-- The state of a call, in the order of R30. -/
def CallState.code (c : CallState) : Byte :=
  Config.freeCode .callState ([CallState.waiting, .offering, .connected].idxOf c)

/-- The state of a treatment, in the order of R125. -/
def TreatmentState.code (t : TreatmentState) : Byte :=
  Config.freeCode .treatmentState
    ([TreatmentState.running, .awaitChannel, .playing, .returning, .held, .finished].idxOf t)

/-- The state of a personal channel, in the order of R151. -/
def ChannelState.code (c : ChannelState) : Byte :=
  Config.freeCode .channelState ([ChannelState.free, .bound, .playing, .draining].idxOf c)

/-- The state of a programme, in the order of R150. -/
def ProgrammeState.code (p : ProgrammeState) : Byte :=
  Config.freeCode .programmeState ([ProgrammeState.stopped, .running, .paused].idxOf p)

/-! ## The bodies of replies and notices (R188, chapters 10.3 and 10.4)

A body that chapter 10 lays out follows it. Every other body holds the fields in the order in which its rule names them. A field
that some body of chapter 10 carries has the size it has there; every other field has a size of the model's own, and so has the
grouping of fields behind one presence indication. DESIGN CHOICE: log entry 12, which lists both field by field. -/

/-- A number as a four-byte field: an AHT, a total of ticks, the byte offset of a programme's cursor.
DESIGN CHOICE: log entry 12, as chapter 10 lays out none of these fields. -/
def count32 (n : Nat) : List Byte := bytes32 (BitVec.ofNat 32 n)

/-- An optional field: its presence indication, and its value or as many bytes in its place. -/
def optionField {α : Type} (width : Nat) (bytes : α → List Byte) : Option α → List Byte
  | some v => flagCode true :: bytes v
  | none => flagCode false :: List.replicate width Config.absentByte

/-- Members of a set, as the bits of a byte from bit 0 upward. -/
def maskByte (members : List Bool) : Byte :=
  byte1 (members.foldr (fun b n => (if b then 1 else 0) + 2 * n) 0)

/-- A permission set, with the bits of PORT_SET (R189). -/
def Permissions.code (p : Permissions) : Byte := maskByte [p.calls, p.agents, p.config, p.stats]

/-- The notice enables of a link, with the bits of PORT_SET (R189). -/
def Enables.code (n : Enables) : Byte := maskByte [n.monitoring, n.stats, n.faults]

/-- The body of a notice. A CONNECT always has a home link; the place of an absent one is kept. Chapter 10 lays out OFFER,
OFFER_CANCEL, CONNECT, LISTEN and CALL_EXIT. In the others the sizes of a tick (four bytes), of a waiting count and of a fault count
(two bytes each) are the model's, and a FAULT's tag and kind stand behind one presence indication that they share.
DESIGN CHOICE: log entry 12. -/
def Notice.body : Notice → List Byte
  | .offer token agent agentId call queue key owner ref =>
      bytes16 token.toNat ++ bytes16 agent ++ bytes32 agentId ++ bytes16 call ++ [byte1 queue] ++ bytes32 key
        ++ [linkCode owner] ++ bytes32 ref
  | .offerCancel token agent call cause => bytes16 token.toNat ++ bytes16 agent ++ bytes16 call ++ [cause.code]
  | .connect call ref token agent agentId home queue =>
      bytes16 call ++ bytes32 ref ++ bytes16 token.toNat ++ bytes16 agent ++ bytes32 agentId
        ++ [(home.map linkCode).getD Config.absentByte, byte1 queue]
  | .listen call ref highway timeslot =>
      bytes16 call ++ bytes32 ref ++ [highwayCode highway, timeslotCode timeslot]
  | .callExit call ref reason => bytes16 call ++ bytes32 ref ++ [byte1 reason]
  | .agentState agent agentId new old reason pending cause now =>
      bytes16 agent ++ bytes32 agentId ++ [new.code, old.code, byte1 reason, pending.code, cause.code] ++ bytes32 now
  | .queueState queue closed count now => [byte1 queue, flagCode closed] ++ bytes16 count ++ bytes32 now
  | .statsWrap queue counter => [byte1 queue, counter.code]
  | .fault link type tagAndKind count =>
      [linkCode link, type.code] ++ optionField 2 (fun x => [x.1, x.2]) tagAndKind ++ bytes16 count
  | .engineRestarted now => bytes32 now

/-- The configuration part of a queue, in the order and sizes of QUEUE_SET (R32). -/
def QueueConfig.body (c : QueueConfig) : List Byte :=
  [flagCode c.enabled, byte1 c.minProficiency] ++ bytes16 c.ringTime ++ bytes16 c.wrapLimit ++ bytes16 c.maxExtension
    ++ bytes16 c.serviceThreshold ++ bytes16 c.agingInterval ++ bytes16 c.upper ++ bytes16 c.lower
    ++ optionField 1 (fun t => [byte1 t]) c.overflowTarget ++ optionField 2 bytes16 c.maxWait
    ++ [byte1 c.pattern, flagCode c.affinity, byte1 c.shift] ++ bytes16 c.initialHandle

/-- The bank status (R119, R190). -/
def BankStatus.body (b : BankStatus) : List Byte :=
  [bankCode b.active, (b.opened.map bankCode).getD 0xFF] ++ bytes16 b.count0 ++ bytes16 b.count1

/-- An entry of the segment table as SEGMENT_SET lays it out (R143). -/
def Segment.body (g : Segment) : List Byte := bytes16 g.first ++ bytes16 g.blocks ++ bytes16 g.lastBytes

/-- A programme's state and cursor (R147, R150): the track counter in one byte, the byte offset in four.
DESIGN CHOICE: log entry 12. -/
def programmeCursor (state : ProgrammeState) (counter offset : Nat) : List Byte :=
  [state.code, byte1 counter] ++ count32 offset

/-- A programme as PROGRAMME_SET lays it out, with its state and cursor behind it (R147). -/
def Programme.body (p : Programme) : List Byte :=
  [byte1 p.tracks.length] ++ p.tracks.flatMap bytes16 ++ [p.order.code, byte1 p.start]
    ++ programmeCursor p.state p.counter p.offset

/-- The vocabulary record as VOCABULARY_SET lays it out (R110). -/
def Vocabulary.body (v : Vocabulary) : List Byte :=
  bytes16 v.base ++ [v.posBefore, v.posAfter, v.waitBefore, v.waitAfter, v.waitUnknown].flatMap (optionField 2 bytes16)

/-- The eight counters of four bytes each, their wrap flags in one byte by counter index, and the peak in two bytes (R166).
DESIGN CHOICE: log entry 12. -/
def Statistics.body (t : Statistics) : List Byte :=
  (CounterName.all.flatMap fun n => bytes32 (t.counter n).value)
    ++ [maskByte (CounterName.all.map fun n => (t.counter n).wrapped)] ++ bytes16 t.peak

/-- A treatment part (R124, R168): the step index and the loop counter in one byte each, the step deadline in four.
DESIGN CHOICE: log entry 12. -/
def Treatment.body (t : Treatment) : List Byte :=
  [bankCode t.bank, byte1 t.pattern, byte1 t.step, t.state.code] ++ optionField 4 bytes32 t.deadline
    ++ [byte1 t.loop, t.source.code] ++ optionField 1 (fun p => [byte1 p]) t.lastProgramme
    ++ optionField 1 (fun s => [Source.code s]) t.heldSource

/-- The offer of a call record (R55, R168): the ring deadline in four bytes.
DESIGN CHOICE: log entry 12. -/
def CallOffer.body (o : CallOffer) : List Byte := bytes16 o.token.toNat ++ bytes16 o.agent ++ bytes32 o.deadline

/-- A call record (R168). The caller key is 0 when absent, as in CALL_ENTER and OFFER. Ticks have four bytes, a band and the redirect
count one; the offer stands behind one presence indication, and so does the treatment part.
DESIGN CHOICE: log entry 12. -/
def Call.body (c : Call) : List Byte :=
  [c.state.code, linkCode c.owner] ++ bytes32 c.ref ++ bytes32 (c.key.getD 0)
    ++ [byte1 c.queue, byte1 c.basePriority, byte1 c.band] ++ bytes32 c.arrival ++ bytes32 c.entry
    ++ optionField 4 bytes32 c.promotion ++ [byte1 c.redirects] ++ optionField 1 (fun r => [byte1 r]) c.exitPending
    ++ optionField 8 CallOffer.body c.offer ++ optionField 2 bytes16 c.agent ++ optionField 4 bytes32 c.connectTick
    ++ optionField 15 Treatment.body c.treatment

/-- The offer of an agent record (R55, R169). -/
def AgentOffer.body (o : AgentOffer) : List Byte := bytes16 o.token.toNat ++ bytes16 o.call

/-- A wrap record (R83, R169): the talk time and the granted extension in two bytes each, the ticks in four.
DESIGN CHOICE: log entry 12. -/
def WrapRecord.body (w : WrapRecord) : List Byte :=
  [byte1 w.queue] ++ bytes16 w.talk ++ bytes32 w.start ++ bytes32 w.deadline ++ bytes16 w.granted

/-- An agent record (R169). Ticks and the two totals have four bytes, the calls handled two, and the miss count one, as the miss limit;
the offer stands behind one presence indication, and so does the wrap record.
DESIGN CHOICE: log entry 12. -/
def Agent.body (a : Agent) : List Byte :=
  [a.state.code] ++ optionField 1 (fun l => [linkCode l]) a.home ++ bytes32 a.id ++ [byte1 a.skills.length]
    ++ (a.skills.flatMap fun k => [byte1 k.queue, byte1 k.proficiency]) ++ [byte1 a.reason, a.pending.code]
    ++ bytes32 a.availSince ++ optionField 4 AgentOffer.body a.offer ++ optionField 2 bytes16 a.call
    ++ optionField 13 WrapRecord.body a.wrap ++ [byte1 a.miss, byte1 a.missLimit, a.exitType.code] ++ bytes16 a.penalty
    ++ optionField 4 bytes32 a.penaltyDeadline ++ bytes16 a.lastToken.toNat
    ++ [(a.lastOutcome.map OfferOutcome.code).getD 0x00] ++ bytes16 a.handled ++ count32 a.talkTotal
    ++ count32 a.wrapTotal ++ [flagCode a.saturated]

/-- The number of channels in each state, of one byte each, and the length of the deferral list, of two (R169).
DESIGN CHOICE: log entry 12. -/
def ChannelCounts.body (c : ChannelCounts) : List Byte :=
  [byte1 c.free, byte1 c.bound, byte1 c.playing, byte1 c.draining] ++ bytes16 c.deferred

/-- The result fields of a reply, as the rule of its request names them. Chapter 10 lays out those of CALL_ENTER, AGENT_LOGIN,
OFFER_REPLY and PATTERN_WRITE. Elsewhere the sizes of the fields that no body of chapter 10 carries are the model's: a tick and an AHT
have four bytes; a number of wrap-up ticks, a granted extension, a waiting count, a use count, a staffing weight, a fault count and a
place in the available list have two; the numbers of notices queued, reserved and free have one. A segment's entry stands behind one indication,
as in SEGMENT_SET, and so does a call's channel, which is the model's.
DESIGN CHOICE: log entry 12. -/
def Result.body : Result → List Byte
  | .bare => []
  | .entered c q position ewt => bytes16 c ++ [byte1 q] ++ bytes16 position ++ bytes16 ewt
  | .agent slot state pending => bytes16 slot ++ [state.code, pending.code]
  | .login slot state pending kept => bytes16 slot ++ [state.code, pending.code, byte1 kept]
  | .update slot state pending applied => bytes16 slot ++ [state.code, pending.code] ++ bytes16 applied
  | .offerReply slot token state pending => bytes16 slot ++ bytes16 token.toNat ++ [state.code, pending.code]
  | .accepted slot token state pending c owner =>
      bytes16 slot ++ bytes16 token.toNat ++ [state.code, pending.code] ++ bytes16 c ++ [linkCode owner]
  | .late slot token state pending outcome =>
      bytes16 slot ++ bytes16 token.toNat ++ [state.code, pending.code, outcome.code]
  | .extended slot grant granted deadline => bytes16 slot ++ bytes16 grant ++ bytes16 granted ++ bytes32 deadline
  | .wrapEnded slot ticks state pending => bytes16 slot ++ bytes16 ticks ++ [state.code, pending.code]
  | .queueConfig config => config.body
  | .bank status stored => status.body ++ (stored.map byte1).toList
  | .segment entry useCount => optionField 6 Segment.body entry ++ bytes16 useCount
  | .sample block count => bytes16 block ++ bytes16 count
  | .programme p => p.body
  | .programmeState state counter offset => programmeCursor state counter offset
  | .vocabulary record => record.body
  | .treatment silence deferLimit => [silence] ++ bytes16 deferLimit
  | .port permissions enables => [permissions.code, enables.code]
  | .engineReset now => bytes32 now
  | .stats q now t => [byte1 q] ++ bytes32 now ++ t.body
  | .queue config count closed aht weight ewt =>
      config.body ++ bytes16 count ++ [flagCode closed] ++ count32 aht ++ bytes16 weight ++ bytes16 ewt
  | .call record deferral channel =>
      record.body ++ optionField 4 bytes32 deferral
        ++ optionField 3 (fun k : Highway × Nat × ChannelState => [highwayCode k.1, byte1 k.2.1, k.2.2.code]) channel
  | .agentRecord record position => record.body ++ optionField 2 bytes16 position
  | .portRecord up permissions enables faultCount dropped queued reserved free channels =>
      [linkStateCode up, permissions.code, enables.code] ++ bytes16 faultCount ++ [flagCode dropped]
        ++ [byte1 queued, byte1 reserved, byte1 free] ++ (channels.map ChannelCounts.body).getD []

/-- The tag, the kind and the body of an outbound entry: a reply has its request's tag and begins with its status code, and a
notice has tag 00h (R188). -/
def OutEntry.content : OutEntry → Request
  | .reply r => { tag := r.tag, kind := r.kind, body := r.status.code :: r.result.body }
  | .notice n => { tag := 0x00, kind := n.kind, body := n.body }

/-- The frame that the part sends for an outbound entry (R188). -/
def OutEntry.frame (x : OutEntry) : List Byte := frameOf x.content.tag x.content.kind x.content.body

end Sys2Proof.Machine
end

