-- ==== Sys2Proof/Machine/Estimate.lean ====
section
/-!
DEFINITION. EWU (chapter 5): qualification and staffing weight, expected wait, spoken numbers and phrases.
-/
namespace Sys2Proof.Machine

open Sys2Proof

/-! ## Qualification and staffing weight (R5, R101 to R103) -/

/-- An agent in one of these states is working (R2). -/
def AgentState.working : AgentState → Bool
  | .available | .reserved | .busy | .wrapUp => true
  | .loggedOut | .notReady | .inferredAbsent => false

/-- The agent's skill list holds the queue with a proficiency at or above its minimum (R5). -/
def State.qualified (s : State) (a : Agent) (q : Nat) : Bool :=
  a.skills.any fun k => k.queue == q && decide ((s.queue q).config.minProficiency ≤ k.proficiency)

/-- The share of an agent, in sixteenths, by the length of its whole skill list (R101). -/
def Agent.share (a : Agent) : Nat := if a.skills.length = 0 then 0 else 16 / a.skills.length

/-- What an agent contributes to the staffing weight of a queue (R101). -/
def State.contribution (s : State) (a : Agent) (q : Nat) : Nat :=
  if a.state.working && s.qualified a q then a.share else 0

/-- The sum of the contributions of all agents to a queue: what its staffing weight equals (R101). -/
def State.weightSum (s : State) (q : Nat) : Nat := (s.agents.map fun e => s.contribution e.2 q).sum

/-- The staffing weight of each queue that a working agent is qualified for, changed by the agent's share (R102). -/
def State.adjustWeights (s : State) (a : Agent) (f : Nat → Nat → Nat) : State :=
  if a.state.working then
    a.skills.foldl (fun s k =>
      let r := s.queue k.queue
      if r.config.minProficiency ≤ k.proficiency then s.setQueue k.queue { r with weight := f r.weight a.share } else s) s
  else s

/-- The staffing weights after an agent's record changes: the old share is subtracted from every queue it was qualified
for, and the new share is added to every queue it is now qualified for. A change within the working set that keeps the
skill list leaves them as they are (R102). -/
def State.reweigh (s : State) (old new : Agent) : State :=
  if old.state.working = new.state.working ∧ old.skills = new.skills then s
  else (s.adjustWeights old (· - ·)).adjustWeights new (· + ·)

/-- The staffing weight of a queue recounted over all agents (R103). -/
def State.recountWeight (s : State) (q : Nat) : State := s.setQueue q { s.queue q with weight := s.weightSum q }

/-! ## Expected wait (R104 to R107) -/

/-- A quotient rounded up. -/
def ceilDiv (n d : Nat) : Nat := (n + d - 1) / d

/-- EWT(p, q): the expected wait of a position, in ticks, from the queue's AHT and staffing weight (R104). -/
def Queue.ewt (r : Queue) (position : Nat) : Nat :=
  if r.weight = 0 then Config.unknownWait else min Config.unknownWait (ceilDiv (position * r.aht) r.weight)

/-- The EWT for the next arrival as QUEUE_READ reports it (R105, R107). -/
def Queue.nextEwt (r : Queue) : Nat := r.ewt (min 2048 (r.order.length + 1))

/-- The position of a call in its queue's waiting order, from 1 (R37). -/
def State.position (s : State) (slot : Nat) (c : Call) : Nat := (s.queue c.queue).order.idxOf slot + 1

/-! ## Spoken numbers and phrases (R108, R111 to R115) -/

/-- The whole minutes that a WAIT_ESTIMATE phrase speaks (R108). -/
def minutesOf (ewt : Nat) : Nat := ceilDiv ewt 600

/-- The number segments that speak a number (R111). -/
def Vocabulary.number (v : Vocabulary) (n : Nat) : List Nat :=
  if n < 20 then [v.base + n]
  else if n < 100 then
    if n % 10 = 0 then [v.base + 18 + n / 10] else [v.base + 18 + n / 10, v.base + n % 10]
  else [v.base + 28]

/-- The segments of a list that are defined, in their order (R112). -/
def State.keepDefined (s : State) (segments : List Nat) : List Nat :=
  segments.filter fun g => (s.segment? g).isSome

/-- The words of a POSITION phrase (R113). -/
def Vocabulary.positionWords (v : Vocabulary) (position : Nat) : List Nat :=
  v.posBefore.toList ++ v.number position ++ v.posAfter.toList

/-- The words of a WAIT_ESTIMATE phrase (R114). -/
def Vocabulary.waitWords (v : Vocabulary) (ewt : Nat) : List Nat :=
  v.waitBefore.toList
    ++ (if ewt = Config.unknownWait then v.waitUnknown.toList else v.number (minutesOf ewt))
    ++ v.waitAfter.toList

/-- The phrase of a phrase step, assembled with the values of this event; empty for a step of another kind
(R112 to R115). -/
def State.assemble (s : State) (slot : Nat) (c : Call) : PatternStep → List Nat
  | .announce segments => s.keepDefined segments
  | .position => s.keepDefined (s.vocabulary.positionWords (s.position slot c))
  | .waitEstimate => s.keepDefined (s.vocabulary.waitWords ((s.queue c.queue).ewt (s.position slot c)))
  | .music _ _ | .silence _ | .goto _ _ | .raise _ | .overflow _ | .exit _ => []

end Sys2Proof.Machine
end

