-- ==== Sys2Proof/Machine/AgentTable.lean ====
section
/-!
DEFINITION. AGT (chapter 1) and WHU's part of the agent record (chapter 4): the available list, the settling of agents,
logout, wrap-up and the average handle time.
-/
namespace Sys2Proof.Machine

open Sys2Proof

/-! ## The available list (R6 to R9) -/

/-- A slot inserted in the available list just before the first agent whose available-since is later (R9). -/
def State.restoreSlot (s : State) (slot : Nat) (since : Tick) : List Nat → List Nat
  | [] => [slot]
  | x :: xs =>
      if Tick.later (s.agent x).availSince since then slot :: x :: xs else x :: State.restoreSlot s slot since xs

/-- The available list without a slot (R8). -/
def dropSlot (slot : Nat) (available : List Nat) : List Nat := available.filter (· != slot)

/-! ## Changes of an agent record (R2, R3) -/

/-- An agent record replaced, with what the change hands to AGT's neighbours: the agent leaves the available list when
it is not AVAILABLE, the staffing weights follow its share, and the change is reported (R3, R8, R102, R171). -/
def Ev.putAgent (e : Ev) (slot : Nat) (new : Agent) (cause : Cause) : Ev :=
  let old := e.st.agent slot
  let e := e.upd fun s => (s.setAgent slot new).reweigh old new
  let e := if new.state = .available then e
    else e.upd fun s => { s with available := dropSlot slot s.available }
  e.reportAgent slot old new cause

/-- An agent record replaced, where an AVAILABLE agent joins the tail of the available list (R7). -/
def Ev.putAgentAtTail (e : Ev) (slot : Nat) (new : Agent) (cause : Cause) : Ev :=
  let e := e.putAgent slot new cause
  if new.state = .available then e.upd fun s => { s with available := dropSlot slot s.available ++ [slot] } else e

/-- An agent that becomes AVAILABLE now (R7). -/
def Agent.madeAvailable (a : Agent) (now : Tick) : Agent :=
  { a with state := .available, pending := .none, availSince := now }

/-- An agent that becomes NOT_READY with a reason (R13, R24, R25, R94). -/
def Agent.madeNotReady (a : Agent) (reason : Nat) : Agent :=
  { a with state := .notReady, reason := reason, pending := .none }

/-! ## Logout (R18) -/

/-- An agent record after its logout is completed (R18). -/
def Agent.loggedOut (a : Agent) : Agent :=
  { a with state := .loggedOut, home := none, pending := .none, miss := 0, offer := none, call := none, wrap := none,
           penaltyDeadline := none }

/-- A logout completed: the record, the recent service list and the notices (R18, R66). -/
def Ev.completeLogout (e : Ev) (slot : Nat) (cause : Cause) : Ev :=
  let e := e.upd fun s => { s with recent := s.recent.filter fun r => r.agent != slot }
  e.putAgent slot (e.st.agent slot).loggedOut cause

/-! ## The settling of an agent when an offer ends (R24 to R26) -/

/-- An agent that has failed an offer: one more miss, then INFERRED_ABSENT, NOT_READY or the tail of the available list
(R25, R26). -/
def Agent.failedOffer (a : Agent) (now : Tick) : Agent :=
  let a := { a with offer := none, miss := min 7 (a.miss + 1) }
  if a.missLimit ≠ 0 ∧ a.missLimit ≤ a.miss then
    { a with state := .inferredAbsent, pending := .none,
             penaltyDeadline := match a.exitType with
               | .timed => some (Tick.plus now a.penalty)
               | .manual => none }
  else
    match a.pending with
    | .notReady reason => a.madeNotReady reason
    | .none | .logout => a.madeAvailable now

/-- The agent of a failed offer is settled (R25). -/
def Ev.settleFailed (e : Ev) (slot : Nat) (cause : Cause) : Ev :=
  e.putAgentAtTail slot ((e.st.agent slot).failedOffer e.st.tick) cause

/-- The agent of an offer withdrawn from the call side is settled: a pending NOT_READY is applied, otherwise the agent is
restored to its old place in the available list (R9, R24). -/
def Ev.settleWithdrawn (e : Ev) (slot : Nat) (cause : Cause) : Ev :=
  let a := e.st.agent slot
  match a.pending with
  | .notReady reason => e.putAgent slot (a.madeNotReady reason) cause
  | .none | .logout =>
      let e := e.putAgent slot { a with state := .available, pending := .none } cause
      e.upd fun s => { s with available := s.restoreSlot slot a.availSince (dropSlot slot s.available) }

/-! ## The average handle time (R97 to R99) -/

/-- The adjustment of an AHT by a sample: the difference divided by a power of two, rounded toward zero (R99). -/
def ahtAdjustment (aht shift sample : Nat) : Int := ((16 * sample : Nat) - (aht : Int)).tdiv (2 ^ shift : Nat)

/-- The AHT after a sample (R99). -/
def ahtUpdate (aht shift sample : Nat) : Nat := ((aht : Int) + ahtAdjustment aht shift sample).toNat

/-- A handle-time sample folded into a queue's AHT (R97, R99). -/
def State.updateAht (s : State) (q sample : Nat) : State :=
  let r := s.queue q
  s.setQueue q { r with aht := ahtUpdate r.aht r.config.shift sample }

/-! ## Accumulators (R95, R96) -/

/-- A saturating addition: the sum, and whether the true sum exceeds the saturation value (R95). -/
def saturatingAdd (limit n m : Nat) : Nat × Bool := (min limit (n + m), decide (limit < n + m))

/-- The accumulators after the start of a wrap-up (R84, R95). -/
def Agent.addCall (a : Agent) (talk : Nat) : Agent :=
  let calls := saturatingAdd 65535 a.handled 1
  let total := saturatingAdd 4294967295 a.talkTotal talk
  { a with handled := calls.1, talkTotal := total.1, saturated := a.saturated || calls.2 || total.2 }

/-- The accumulators after the end of a wrap-up with a sample (R90, R95). -/
def Agent.addWrap (a : Agent) (ticks : Nat) : Agent :=
  let total := saturatingAdd 4294967295 a.wrapTotal ticks
  { a with wrapTotal := total.1, saturated := a.saturated || total.2 }

/-- The accumulators and the saturated flag returned to zero (R96). -/
def Agent.clearAccumulators (a : Agent) : Agent :=
  { a with handled := 0, talkTotal := 0, wrapTotal := 0, saturated := false }

/-! ## Wrap-up (R84 to R94) -/

/-- The leave rule: an agent leaves BUSY or WRAP_UP by its pending value (R94). The distribution attempt for an agent that
becomes AVAILABLE is made by the event that applies the rule. -/
def Ev.leave (e : Ev) (slot : Nat) (cause : Cause) : Ev :=
  let a := { e.st.agent slot with wrap := none, call := none }
  match a.pending with
  | .logout => e.completeLogout slot cause
  | .notReady reason => e.putAgent slot (a.madeNotReady reason) cause
  | .none => e.putAgentAtTail slot (a.madeAvailable e.st.tick) cause

/-- The talk ticks of a call that ends now (R84). -/
def talkTicks (now connect : Tick) : Nat := min Config.maxDuration (Tick.elapsed now connect)

/-- The start of wrap-up for the agent of a connected call that has ended: the accumulators, then WRAP_UP with a wrap
record (R86), or the sample and the leave rule where the queue's wrap limit is 0 (R84, R85). -/
def Ev.startWrap (e : Ev) (slot q : Nat) (connect : Tick) (cause : Cause) : Ev :=
  let now := e.st.tick
  let talk := talkTicks now connect
  let a := { (e.st.agent slot).addCall talk with call := none }
  let limit := (e.st.queue q).config.wrapLimit
  if limit = 0 then
    (e.upd fun s => (s.setAgent slot a).updateAht q talk).leave slot cause
  else
    e.putAgent slot
      { a with state := .wrapUp,
               wrap := some { queue := q, talk := talk, start := now, deadline := Tick.plus now limit, granted := 0 } }
      cause

/-- The handle-time sample of a wrap-up that ends now (R90, R97). -/
def WrapRecord.sample (w : WrapRecord) (now : Tick) : Nat :=
  min Config.maxDuration (w.talk + Tick.elapsed now w.start)

/-- The end of a wrap-up with a sample: the wrap total, the AHT and the leave rule (R90 steps 1 to 6, R91). -/
def Ev.endWrap (e : Ev) (slot : Nat) (w : WrapRecord) (cause : Cause) : Ev :=
  let now := e.st.tick
  let a := (e.st.agent slot).addWrap (Tick.elapsed now w.start)
  (e.upd fun s => (s.setAgent slot a).updateAht w.queue (w.sample now)).leave slot cause

/-- The grant of a WRAP_EXTEND (R88). -/
def WrapRecord.grant (w : WrapRecord) (maxExtension requested : Nat) : Nat :=
  if w.granted < maxExtension then min requested (maxExtension - w.granted) else 0

/-! ## Skill lists (R10) -/

/-- Skill entries brought into range: an entry naming a queue already named is dropped, and a proficiency is kept within
1-15 (R10). -/
def normalizeSkills : List Skill → List Skill :=
  fun given => (given.foldl (fun (kept : List Skill) k =>
    if kept.any fun o => o.queue == k.queue then kept
    else { k with proficiency := clamp 1 15 k.proficiency } :: kept) []).reverse

end Sys2Proof.Machine
end

