-- ==== Sys2Proof/Machine/Playout.lean ====
section
/-!
DEFINITION. PLY (chapter 7): segments and programmes, personal channels and their deferral lists, and the bytes that each
frame of the playout clock places in the timeslots of the two highways.
-/
namespace Sys2Proof.Machine

open Sys2Proof

/-! ## Segments (R143, R145) -/

/-- The length of a segment in bytes (R143). -/
def Segment.length (g : Segment) : Nat := (g.blocks - 1) * Config.blockBytes + g.lastBytes

/-- The length of a segment by number; an undefined segment has a length of zero (R145). -/
def State.segmentLength (s : State) (segment : Nat) : Nat :=
  match s.segment? segment with
  | some g => g.length
  | none => 0

/-- The byte of a segment at an offset, read from the sample store at the moment it is placed (R141, R145). -/
def State.segmentByte (s : State) (segment offset : Nat) : Byte :=
  match s.segment? segment with
  | some g => Memory.read s.store (g.first * Config.blockBytes + offset)
  | none => s.silence

/-- A segment's values brought into range (R143). -/
def Segment.clamped (first blocks lastBytes : Nat) : Segment :=
  { first := first, blocks := min (clamp 1 Config.maxSegmentBlocks blocks) (Config.sampleBlocks - first),
    lastBytes := clamp 1 Config.blockBytes lastBytes }

/-! ## Programmes (R147 to R150) -/

/-- The track of a programme's list that is played for a track counter (R148). -/
def Programme.track (p : Programme) (k : Nat) : Nat :=
  let n := p.tracks.length
  match p.order with
  | .linear => (p.start + k) % n
  | .interleaved => if n = 1 ∨ n = 2 ∨ n = 4 ∨ n = 8 then p.start ^^^ k else (p.start + k) % n

/-- The segment that a programme plays for a track counter; none when its list is empty. -/
def Programme.segmentAt (p : Programme) (k : Nat) : Option Nat := p.tracks[p.track k]?

/-- The length of the track a programme plays for a track counter (R149). -/
def State.trackLength (s : State) (p : Programme) (k : Nat) : Nat :=
  match p.segmentAt k with
  | some segment => s.segmentLength segment
  | none => 0

/-- The byte of the track a programme plays for a track counter, at an offset (R149). -/
def State.trackByte (s : State) (p : Programme) (k offset : Nat) : Byte :=
  match p.segmentAt k with
  | some segment => s.segmentByte segment offset
  | none => s.silence

/-- The cursor moved past tracks that have no byte at it: an undefined track, and a track that has been placed whole. The
result is the cursor of the next byte, or none when no track of the list is defined (R149). -/
def State.seekTrack (s : State) (p : Programme) : Nat → Nat → Nat → Option (Nat × Nat)
  | 0, _, _ => none
  | fuel + 1, k, offset =>
      if offset < s.trackLength p k then some (k, offset)
      else State.seekTrack s p fuel ((k + 1) % p.tracks.length) 0

/-- The cursor after the byte at it has been placed (R149). After a track's last byte it stands on the next track, defined or
not: an undefined one is passed over in the frame that reaches it.
DESIGN CHOICE: log entry 24. -/
def State.advanceTrack (s : State) (p : Programme) (k offset : Nat) : Programme :=
  if offset + 1 < s.trackLength p k then { p with counter := k, offset := offset + 1 }
  else { p with counter := (k + 1) % p.tracks.length, offset := 0 }

/-- The byte a programme places in a frame, and the programme after it (R149). -/
def State.programmeFrame (s : State) (p : Programme) : Byte × Programme :=
  match p.state with
  | .running =>
      match s.seekTrack p (p.tracks.length + 1) p.counter p.offset with
      | some (k, offset) => (s.trackByte p k offset, s.advanceTrack p k offset)
      | none => (s.silence, p)
  | .stopped | .paused => (s.silence, p)

/-- The programme of a STOPPED state and a cursor at its start (R147, R150). -/
def Programme.stopped (p : Programme) : Programme := { p with state := .stopped, counter := 0, offset := 0 }

/-- The segments whose use count a programme holds: those of its track list while it is RUNNING or PAUSED (R144). -/
def Programme.used (p : Programme) : List Nat :=
  match p.state with
  | .running | .paused => p.tracks
  | .stopped => []

/-! ## Personal channels (R151 to R160) -/

/-- The segments whose use count a channel holds: those of its phrase (R144). -/
def Channel.used (c : Channel) : List Nat := c.phrase.getD []

/-- A channel given up: its phrase is released and it goes to DRAINING (R160). -/
def State.drainChannel (s : State) (h : Highway) (timeslot : Nat) : State :=
  (s.updUseCounts (s.channel h timeslot).used (· - 1)).setChannel h timeslot .draining

/-- The timeslot of the channel that a call holds on a highway (R151). -/
def State.heldTimeslot (s : State) (h : Highway) (slot : Nat) : Option Nat :=
  ((s.highway h).channels.find? fun e => e.2.holder == some slot).map (·.1)

/-- A call taken out of a highway's deferral list; the entries behind it keep their order (R154). -/
def State.leaveDeferral (s : State) (h : Highway) (slot : Nat) : State :=
  let r := s.highway h
  s.setHighway h { r with deferral := r.deferral.filter fun d => d.call != slot }

/-- A call placed at the tail of a highway's deferral list, with deadline now plus the defer limit (R154). -/
def State.joinDeferral (s : State) (h : Highway) (slot : Nat) : State :=
  let r := s.highway h
  s.setHighway h { r with deferral := r.deferral ++ [{ call := slot, deadline := Tick.plus s.tick s.deferLimit }] }

/-- What PLY does when a call's treatment stops: its deferral entry is removed, and the channel it holds goes to DRAINING
(R160). -/
def State.stopAudio (s : State) (slot : Nat) (c : Call) : State :=
  match c.owner.highway? with
  | none => s
  | some h =>
      let s := s.leaveDeferral h slot
      match s.heldTimeslot h slot with
      | some timeslot => s.drainChannel h timeslot
      | none => s

/-- The lowest FREE personal timeslot of a highway from a timeslot on, of the number given (R153). -/
def State.freeFrom (s : State) (h : Highway) : Nat → Nat → Option Nat
  | 0, _ => none
  | n + 1, timeslot =>
      if (s.channel h timeslot).state = .free then some timeslot else State.freeFrom s h n (timeslot + 1)

/-- The lowest FREE personal timeslot of a highway (R153). -/
def State.freeTimeslot (s : State) (h : Highway) : Option Nat :=
  s.freeFrom h (Config.timeslots - Config.firstPersonal) Config.firstPersonal

/-- A channel bound to a call with its phrase, the LISTEN queued, and the grant reported to TSQ (R153 steps 3 to 5). -/
def Ev.bindChannel (e : Ev) (h : Highway) (timeslot slot : Nat) (c : Call) (phrase : List Nat) : Ev :=
  let e := e.upd fun s =>
    (s.updUseCounts phrase (· + 1)).setChannel h timeslot
      { state := .bound, holder := some slot, phrase := some phrase, segIndex := 0, offset := 0 }
  let e := e.queueListen slot c (some timeslot)
  e.upd fun s => s.updTreatment slot fun t => { t with state := .playing, source := .personal timeslot }

/-! ## The frame and the block boundary (R146, R149, R157, R158) -/

/-- The last byte of a channel's phrase has been placed (R158). -/
def Channel.phraseDone (c : Channel) : Bool := decide ((c.phrase.getD []).length ≤ c.segIndex)

/-- The cursor moved past segments of a phrase that have no byte at it. Phrases hold no undefined segment (R145), so the
move is over segments placed whole. -/
def State.seekSegment (s : State) (phrase : List Nat) : Nat → Nat → Nat → Nat × Nat
  | 0, i, offset => (i, offset)
  | fuel + 1, i, offset =>
      if i < phrase.length ∧ s.segmentLength (phrase.getD i 0) ≤ offset then
        State.seekSegment s phrase fuel (i + 1) 0
      else (i, offset)

/-- The byte a personal channel places in a frame, and the channel after it (R151, R158). -/
def State.channelFrame (s : State) (c : Channel) : Byte × Channel :=
  match c.state, c.phrase with
  | .playing, some phrase =>
      let cursor := s.seekSegment phrase phrase.length c.segIndex c.offset
      if cursor.1 < phrase.length then
        let after := s.seekSegment phrase phrase.length cursor.1 (cursor.2 + 1)
        (s.segmentByte (phrase.getD cursor.1 0) cursor.2, { c with segIndex := after.1, offset := after.2 })
      else (s.silence, { c with segIndex := cursor.1, offset := cursor.2 })
  | _, _ => (s.silence, c)

/-- The bytes that a frame places in the 128 timeslots of a highway: programmes in 0-7, personal channels in 8-127, and
the silence byte where nothing plays (R146). -/
def State.frameBytes (s : State) (h : Highway) : List Byte :=
  (List.range Config.timeslots).map fun ts =>
    if ts < Config.firstPersonal then (s.programmeFrame (s.programme ts)).1 else (s.channelFrame (s.channel h ts)).1

/-- A table of channels with each entry changed, in canonical form. -/
def mapChannels (f : Channel → Channel) (t : Table Channel) : Table Channel :=
  (t.map fun e => (e.1, f e.2)).filter fun e => decide (e.2 ≠ Channel.free)

/-- A highway after a frame: its output, and the cursors of its PLAYING channels (R158). -/
def State.highwayFrame (s : State) (h : Highway) : HighwayRec :=
  let r := s.highway h
  { r with output := s.frameBytes h, channels := mapChannels (fun c => (s.channelFrame c).2) r.channels }

/-- The programmes after a frame (R149). -/
def State.programmesFrame (s : State) : Table Programme :=
  (s.programmes.map fun e => (e.1, (s.programmeFrame e.2).2)).filter fun e => decide (e.2 ≠ Programme.powerOn)

/-- The state after one frame of the playout clock. A block boundary is marked after every 256th frame (R185); an earlier mark has
been taken before the frame (`State.takePlayoutEvents`). -/
def State.frame (s : State) : State :=
  { s with
    highwayA := s.highwayFrame .a
    highwayB := s.highwayFrame .b
    programmes := s.programmesFrame
    frameCount := (s.frameCount + 1) % Config.framesPerBlock
    boundaryDue := decide ((s.frameCount + 1) % Config.framesPerBlock = 0) }

/-- A channel at a block boundary: DRAINING becomes FREE, BOUND with a phrase becomes PLAYING from its first byte, and a
BOUND channel without a phrase stays BOUND (R157 steps 1 to 3). -/
def Channel.atBoundary (c : Channel) : Channel :=
  match c.state with
  | .draining => .free
  | .bound => if c.phrase.isSome then { c with state := .playing, segIndex := 0, offset := 0 } else c
  | .free | .playing => c

/-- A highway's channels at a block boundary (R157). -/
def State.boundaryChannels (s : State) (h : Highway) : State :=
  let r := s.highway h
  s.setHighway h { r with channels := mapChannels Channel.atBoundary r.channels }

/-- What PLY does on the highway of a lost link beyond the stopping of its calls' treatments: the deferral list is
emptied, and each channel still BOUND or PLAYING goes to DRAINING (R161). -/
def State.drainHighway (s : State) (h : Highway) : State :=
  let s := s.setHighway h { s.highway h with deferral := [] }
  (s.highway h).channels.foldl (fun s e =>
    if e.2.state = .bound ∨ e.2.state = .playing then s.drainChannel h e.1 else s) s

/-- A highway when its link comes UP again: every personal channel FREE, and an empty deferral list (R161, R183). A phrase still
held, which no run brings about, is released. -/
def State.freeHighway (s : State) (h : Highway) : State :=
  let s := s.drainHighway h
  s.setHighway h { s.highway h with channels := [], deferral := [] }

/-- The use counts that the programmes alone hold (R144, engine reset). -/
def State.programmeUseCounts (s : State) : Table Nat :=
  (s.programmes.foldl (fun (t : State) e => t.updUseCounts e.2.used (· + 1)) { s with useCounts := [] }).useCounts

/-- The number of a highway's channels in a state (R151). -/
def State.channelsIn (s : State) (h : Highway) (k : ChannelState) : Nat :=
  ((List.range Config.timeslots).filter fun ts =>
    decide (Config.firstPersonal ≤ ts) && decide ((s.channel h ts).state = k)).length

end Sys2Proof.Machine
end

