-- ==== Sys2Proof/Machine/Queueing.lean ====
section
/-!
DEFINITION. QMG (chapter 2): waiting orders, joining and leaving them, redirects and exits, the entry check and the divert
chains, and the stopping of a treatment that every departure from a waiting order brings with it (R138).
-/
namespace Sys2Proof.Machine

open Sys2Proof

/-! ## Waiting orders (R36) -/

/-- The call in a slot stands before a call of a band and a queue entry tick: its band is higher, or its band is equal and
its entry tick is earlier or equal (R36). -/
def State.standsBefore (s : State) (band : Nat) (entry : Tick) (slot : Nat) : Bool :=
  match s.call? slot with
  | some c => decide (band < c.band) || (decide (c.band = band) && !Tick.later c.entry entry)
  | none => false

/-- A slot inserted in a waiting order by band and queue entry tick (R36). -/
def State.insertInOrder (s : State) (slot band : Nat) (entry : Tick) : List Nat → List Nat
  | [] => [slot]
  | x :: xs =>
      if s.standsBefore band entry x then x :: State.insertInOrder s slot band entry xs else slot :: x :: xs

/-- A call re-inserted in its waiting order by its band and queue entry tick (R36). -/
def State.reinsert (s : State) (slot : Nat) (c : Call) : State :=
  let r := s.queue c.queue
  s.setQueue c.queue
    { r with order := s.insertInOrder slot c.band c.entry (r.order.filter (· != slot)) }

/-- The promotion deadline a call has on insertion: present when the aging interval is nonzero and its band is below 7
(R40). -/
def QueueConfig.firstPromotion (r : QueueConfig) (band : Nat) (entry : Tick) : Option Tick :=
  if r.agingInterval ≠ 0 ∧ band < Config.topBand then some (Tick.plus entry r.agingInterval) else none

/-- A call joins the waiting order of its queue: the waiting count and the peak rise, and the queue may close
(R39, R43, R165). -/
def Ev.joinOrder (e : Ev) (slot : Nat) (c : Call) : Ev :=
  let e := e.upd fun s =>
    let r := s.queue c.queue
    let order := s.insertInOrder slot c.band c.entry r.order
    s.setQueue c.queue { r with order := order, stats := { r.stats with peak := max r.stats.peak order.length } }
  e.evalClosing c.queue

/-! ## Stopping a treatment (R138) -/

/-- A treatment stops: the bank's reference count falls, the deferral entry or the channel is given up, a held LISTEN is
discarded, and the treatment part becomes absent (R138, R160). -/
def State.stopTreatment (s : State) (slot : Nat) : State :=
  match s.call? slot with
  | none => s
  | some c =>
      match c.treatment with
      | none => s
      | some t =>
          let s := (s.updRefs t.bank (· - 1)).stopAudio slot c
          let r := s.link c.owner
          let s := s.setLink c.owner { r with listenOrder := r.listenOrder.filter (· != slot) }
          s.setCall slot { c with treatment := none }

/-- A call leaves its waiting order: the waiting count falls, the promotion deadline goes, its treatment stops, and the
queue may open (R39, R43). -/
def Ev.leaveOrder (e : Ev) (slot : Nat) (c : Call) : Ev :=
  let e := e.upd fun s =>
    let s := s.stopTreatment slot
    let s := s.updCall slot fun c => { c with promotion := none }
    let r := s.queue c.queue
    s.setQueue c.queue { r with order := r.order.filter (· != slot) }
  e.evalOpening c.queue

/-- A WAITING call removed: it leaves its waiting order and its slot is freed, with one count on its queue
(R49, R51, R53). A pending exit of the call goes with it. -/
def Ev.removeCall (e : Ev) (slot : Nat) (c : Call) (n : CounterName) : Ev :=
  let e := e.leaveOrder slot c
  let e := e.count c.queue n
  let e := e.updLink c.owner fun r => { r with exitOrder := r.exitOrder.filter (· != slot) }
  e.upd fun s => s.freeCall slot

/-! ## Exit (R51, R52) -/

/-- A call exits with a reason: at once when its owner link has a free notice entry, and pending otherwise
(R51, R52). -/
def Ev.exitCall (e : Ev) (slot : Nat) (c : Call) (reason : Nat) : Ev :=
  if 0 < e.st.freeNotices c.owner then
    (e.queueNotice c.owner (.callExit slot c.ref reason)).removeCall slot c .exited
  else
    let e := e.upd fun s =>
      (s.stopTreatment slot).updCall slot fun c => { c with exitPending := some reason, promotion := none }
    e.updLink c.owner fun r => { r with exitOrder := r.exitOrder ++ [slot] }

/-- The redirect that DSU asks QMG to charge after a failed offer: below 7 the count rises by 1, and at 7 the call exits
with reason 16, REDIRECT_LIMIT (R51). -/
def Ev.chargeRedirect (e : Ev) (slot : Nat) : Ev :=
  match e.st.call? slot with
  | none => e
  | some c =>
      if c.redirects < Config.maxRedirects then
        e.upd fun s => s.setCall slot { c with redirects := c.redirects + 1 }
      else e.exitCall slot c Config.redirectLimitReason

/-! ## Aging and RAISE (R41, R42) -/

/-- A call whose promotion deadline is reached: one band up, the next deadline from the one reached, and its place by its
new band (R41). -/
def State.promote (s : State) (slot : Nat) (c : Call) (deadline : Tick) : State :=
  let band := c.band + 1
  let next := if band < Config.topBand then
    some (Tick.plus deadline (s.queue c.queue).config.agingInterval) else none
  let c := { c with band := band, promotion := next }
  (s.setCall slot c).reinsert slot c

/-- A call raised by n bands, to band 7 at most, and re-inserted; at band 7 it has no promotion deadline, and a call
already at band 7 stays where it is (R42). -/
def State.raiseCall (s : State) (slot : Nat) (c : Call) (n : Nat) : State :=
  if c.band = Config.topBand then s
  else
    let band := min Config.topBand (c.band + n)
    let c := { c with band := band, promotion := if band = Config.topBand then none else c.promotion }
    (s.setCall slot c).reinsert slot c

/-! ## The entry check and the divert chains (R45, R46, R48) -/

/-- The outcome of the entry check of an ENABLED queue (R45). -/
inductive EntryCheck where
  | pass | closed | overWait
  deriving DecidableEq, Repr

/-- The entry check: closed by its flag, or over-wait when its maximum wait is present and the EWT for position waiting
count + 1 exceeds it (R45, R106). -/
def Queue.entryCheck (r : Queue) : EntryCheck :=
  if r.closed then .closed
  else
    match r.config.maxWait with
    | none => .pass
    | some limit => if r.ewt (r.order.length + 1) ≤ limit then .pass else .overWait

/-- The queue a divert goes to: the overflow target, when it is present and ENABLED (R46). -/
def State.divertTarget (s : State) (q : Nat) : Option Nat :=
  match (s.queue q).config.overflowTarget with
  | some t => if (s.queue t).config.enabled then some t else none
  | none => none

/-- Where a chain places a call: the queue, the redirect count, and the queues passed over before it. -/
structure Placement where
  queue : Nat
  redirects : Nat
  passed : List Nat
  deriving DecidableEq, Repr

/-- The outcome of the divert chain of an arrival (R46). -/
inductive ArrivalChain where
  | placed (p : Placement)
  | queueClosed
  | redirectLimit
  deriving DecidableEq, Repr

/-- The divert chain of an arrival from an ENABLED queue: `count` diverts made so far, the queues `passed` over, and the
last open queue reached (R46). The fuel exceeds the number of diverts the redirect limit allows. -/
def State.arrivalChain (s : State) : Nat → Nat → Nat → List Nat → Option Placement → ArrivalChain
  | 0, _, _, _, _ => .redirectLimit
  | fuel + 1, q, count, passed, lastOpen =>
      let here : Placement := { queue := q, redirects := count, passed := passed }
      let ended (o : Option Placement) : ArrivalChain :=
        match o with
        | some p => .placed p
        | none => .queueClosed
      let divert (lastOpen : Option Placement) : ArrivalChain :=
        match s.divertTarget q with
        | none => ended lastOpen
        | some t =>
            if Config.maxRedirects < count + 1 then .redirectLimit
            else s.arrivalChain fuel t (count + 1) (passed ++ [q]) lastOpen
      match (s.queue q).entryCheck with
      | .pass => .placed here
      | .overWait => divert (some here)
      | .closed => divert lastOpen

/-- The outcome of an OVERFLOW step for a WAITING call (R48). -/
inductive MoveChain where
  | stays
  | exits
  | moves (p : Placement)
  deriving DecidableEq, Repr

/-- The divert chain of an overflow move, at a queue reached that is neither DISABLED nor the call's own, with the move
and the diverts so far already in `count` (R48).
DEDUCED: log entry 9. -/
def State.moveChainFrom (s : State) (own : Nat) : Nat → Nat → Nat → List Nat → MoveChain
  | 0, _, _, _ => .stays
  | fuel + 1, q, count, passed =>
      if (s.queue q).entryCheck = .pass then .moves { queue := q, redirects := count, passed := passed }
      else
        match s.divertTarget q with
        | none => .stays
        | some t =>
            if Config.maxRedirects < count + 1 then .exits
            else if t = own then .stays
            else s.moveChainFrom own fuel t (count + 1) (passed ++ [q])

/-- The chain of an OVERFLOW step that names a queue, for a WAITING call (R48). -/
def State.moveChain (s : State) (c : Call) (q : Nat) : MoveChain :=
  if q = c.queue ∨ (s.queue q).config.enabled = false then .stays
  else if Config.maxRedirects < c.redirects + 1 then .exits
  else s.moveChainFrom c.queue (Config.maxRedirects + 1) q (c.redirects + 1) []

/-- One count of OVERFLOWED_OUT on each queue of a list (R46, R48). -/
def Ev.countPassed (e : Ev) (passed : List Nat) : Ev := passed.foldl (fun e q => e.count q .overflowedOut) e

/-- The lowest free call slot from a slot on, of the number given (R31). -/
def State.freeSlotFrom (s : State) : Nat → Nat → Option Nat
  | 0, _ => none
  | n + 1, slot => if (s.call? slot).isNone then some slot else State.freeSlotFrom s n (slot + 1)

/-- The lowest-numbered free call slot (R31). -/
def State.freeSlot (s : State) : Option Nat := s.freeSlotFrom Config.callSlots 0

end Sys2Proof.Machine
end

