-- ==== Sys2Proof/Machine/Distribution.lean ====
section
/-!
DEFINITION. DSU (chapter 3): tokens, pairing, distribution attempts, affinity, and the resolutions of an offer.
-/
namespace Sys2Proof.Machine

open Sys2Proof

/-! ## Making an offer (R56, R57, R68) -/

/-- The token after a token: it rises by 1, passing from 65535 to 1 (R56). -/
def nextToken (t : Token) : Token := if t = 0xFFFF then 1 else t + 1

/-- The links of a call and an agent can supply the three outbound entries of an offer (R57). -/
def State.pairable (s : State) (c : Call) (a : Agent) : Bool :=
  match a.home with
  | none => false
  | some h =>
      if h = c.owner then decide (3 ≤ s.freeNotices h)
      else decide (2 ≤ s.freeNotices h) && decide (1 ≤ s.freeNotices c.owner)

/-- An offer of the call in a slot to an agent, in the six steps of R68. -/
def Ev.makeOffer (e : Ev) (slot : Nat) (c : Call) (agentSlot : Nat) : Ev :=
  let token := nextToken e.st.token
  let a := e.st.agent agentSlot
  let e := e.upd fun s => { s with token := token }
  let e := e.putAgent agentSlot
    { a with state := .reserved, offer := some { token := token, call := slot }, lastToken := token,
             lastOutcome := none } .offer
  let deadline := Tick.plus e.st.tick (e.st.queue c.queue).config.ringTime
  let e := e.upd fun s =>
    s.setCall slot { c with state := .offering, offer := some { token := token, agent := agentSlot, deadline := deadline } }
  match a.home with
  | none => e
  | some h =>
      let e := e.queueNotice h
        (.offer token agentSlot a.id slot c.queue (c.key.getD 0) c.owner c.ref)
      (e.reserve h).reserve c.owner

/-! ## Distribution attempts (R38, R59 to R62) -/

/-- The call is a candidate: WAITING, no exit pending, and its owner link has a free notice entry (R38). -/
def State.candidate (s : State) (c : Call) : Bool :=
  decide (c.state = .waiting) && c.exitPending.isNone && decide (0 < s.freeNotices c.owner)

/-- The first agent of the available list that is qualified for a queue and pairable with a call (R59). -/
def State.agentFor (s : State) (q : Nat) (c : Call) : Option Nat :=
  s.available.find? fun x => s.qualified (s.agent x) q && s.pairable c (s.agent x)

/-- The pair that a queue attempt offers: the first candidate call of a waiting order for which an agent is found
(R59). -/
def State.pairIn (s : State) (q : Nat) : List Nat → Option (Nat × Call × Nat)
  | [] => none
  | slot :: rest =>
      match s.call? slot with
      | none => State.pairIn s q rest
      | some c =>
          if s.candidate c then
            match s.agentFor q c with
            | some x => some (slot, c, x)
            | none => State.pairIn s q rest
          else State.pairIn s q rest

/-- The distribution attempt for a queue, repeated while it makes offers. Each offer takes an agent out of the available
list, so the fuel of `queueAttempts` is enough (R59). -/
def Ev.attemptLoop (q : Nat) : Nat → Ev → Ev
  | 0, e => e
  | fuel + 1, e =>
      match e.st.pairIn q (e.st.queue q).order with
      | some (slot, c, x) => Ev.attemptLoop q fuel (e.makeOffer slot c x)
      | none => e

/-- The distribution attempts for a queue: attempts are repeated until one makes no offer (R59, R60). -/
def Ev.queueAttempts (e : Ev) (q : Nat) : Ev := Ev.attemptLoop q (e.st.available.length + 1) e

/-- The first candidate call of a waiting order that is pairable with an agent (R61). -/
def State.callFor (s : State) (a : Agent) : List Nat → Option (Nat × Call)
  | [] => none
  | slot :: rest =>
      match s.call? slot with
      | none => State.callFor s a rest
      | some c => if s.candidate c && s.pairable c a then some (slot, c) else State.callFor s a rest

/-- The first call is chosen before the second: higher band, or equal band and earlier queue entry tick (R61). -/
def Call.preferred (c d : Call) : Bool :=
  decide (d.band < c.band) || (decide (c.band = d.band) && Tick.later d.entry c.entry)

/-- The call that an agent attempt offers: among the first pairable candidates of the queues the agent is qualified for,
the highest band, then the earliest queue entry tick, then the lowest queue number (R61). -/
def State.bestCall (s : State) (a : Agent) : Option (Nat × Call) :=
  (List.range Config.queueCount).foldl (fun best q =>
    if s.qualified a q then
      match s.callFor a (s.queue q).order, best with
      | some found, some kept => if found.2.preferred kept.2 then some found else best
      | some found, none => some found
      | none, _ => best
    else best) none

/-- The distribution attempt for an agent, made only while it is AVAILABLE (R61, R62). -/
def Ev.agentAttempt (e : Ev) (agentSlot : Nat) : Ev :=
  let a := e.st.agent agentSlot
  if a.state = .available then
    match e.st.bestCall a with
    | some (slot, c) => e.makeOffer slot c agentSlot
    | none => e
  else e

/-! ## Affinity (R64 to R67) -/

/-- A push on the recent service list: any entry with the key goes, the new entry is placed at the head, and a 257th entry
is dropped (R65). -/
def pushRecent (key : Word32) (agentSlot : Nat) (list : List RecentEntry) : List RecentEntry :=
  ({ key := key, agent := agentSlot } :: list.filter fun r => r.key != key).take Config.recentEntries

/-- The agent that the affinity lookup of an arrival offers the call to (R67). -/
def State.affinityAgent (s : State) (q : Nat) (c : Call) : Option Nat :=
  if (s.queue q).config.affinity then
    match c.key with
    | none => none
    | some key =>
        match s.recent.find? fun r => r.key == key with
        | none => none
        | some r =>
            let a := s.agent r.agent
            if a.state = .available ∧ s.qualified a q = true ∧ s.pairable c a = true then some r.agent else none
  else none

/-- The affinity lookup of an arrival in its placement queue: not made when the call is no longer WAITING there without an
exit pending (R67). -/
def Ev.affinityOffer (e : Ev) (slot q : Nat) : Ev :=
  match e.st.call? slot with
  | none => e
  | some c =>
      if c.state = .waiting ∧ c.exitPending = none ∧ c.queue = q then
        match e.st.affinityAgent q c with
        | some x => e.makeOffer slot c x
        | none => e
      else e

/-! ## Resolving an offer (R55, R58) -/

/-- An offer's fields made absent in the call and in the agent, with the agent's last outcome; the call is WAITING at the
place it holds (R55, R74 to R78). -/
def State.endOffer (s : State) (slot agentSlot : Nat) (o : OfferOutcome) : State :=
  let s := s.updCall slot fun c => { c with state := .waiting, offer := none }
  s.setAgent agentSlot { s.agent agentSlot with offer := none, lastOutcome := some o }

/-- The OFFER_CANCEL of an offer, queued on the entry reserved for it on the agent's home link (R58). -/
def Ev.cancelOffer (e : Ev) (o : CallOffer) (slot : Nat) (cause : CancelCause) : Ev :=
  match (e.st.agent o.agent).home with
  | some h => e.useReservation h (.offerCancel o.token o.agent slot cause)
  | none => e

/-- The home-link reservation of an offer released (R58). -/
def Ev.releaseHome (e : Ev) (agentSlot : Nat) : Ev :=
  match (e.st.agent agentSlot).home with
  | some h => e.releaseReservation h
  | none => e

/-- An offer withdrawn from the call side: steps 1 to 5 of R77, less the agent attempt, which follows the call's
removal. -/
def Ev.withdrawFromCall (e : Ev) (slot : Nat) (c : Call) (o : CallOffer) (cause : Cause) : Ev :=
  let e := e.upd fun s => s.endOffer slot o.agent .withdrawn
  let e := e.cancelOffer o slot .callWithdrawn
  let e := e.releaseReservation c.owner
  e.settleWithdrawn o.agent cause

/-- An offer withdrawn from the agent side: steps 1 to 4 of R78. -/
def Ev.withdrawFromAgent (e : Ev) (slot : Nat) (c : Call) (o : CallOffer) : Ev :=
  let e := e.upd fun s => s.endOffer slot o.agent .withdrawn
  let e := e.cancelOffer o slot .agentLoggedOut
  e.releaseReservation c.owner

end Sys2Proof.Machine
end

