-- ==== Sys2Proof/Machine/Treatment.lean ====
section
/-!
DEFINITION. TSQ (chapter 6) with PLY's answers to it (R152 to R159): source changes, the running of pattern steps, overflow
moves, channel requests, and the completion or skip of phrase steps.
-/
namespace Sys2Proof.Machine

open Sys2Proof

/-! ## Source changes (R129) -/

/-- The timeslot that carries a source, none for NONE (R129). -/
def Source.timeslot : Source → Option Nat
  | .none => .none
  | .programme p => some p
  | .personal ts => some ts

/-- The source a phrase returns to: the last programme heard, or NONE (R126, R130). -/
def Treatment.returnSource (t : Treatment) : Source :=
  match t.lastProgramme with
  | some p => .programme p
  | none => .none

/-- A source change that TSQ makes: the LISTEN is queued and the source takes its new value when the owner link has a free
notice entry; otherwise the change is held. The result says whether it was queued (R129). -/
def Ev.changeSource (e : Ev) (slot : Nat) (c : Call) (source : Source) : Ev × Bool :=
  if 0 < e.st.freeNotices c.owner then
    let e := e.queueListen slot c source.timeslot
    (e.upd fun s => s.updTreatment slot fun t => { t with source := source, heldSource := none }, true)
  else
    let e := e.upd fun s => s.updTreatment slot fun t =>
      { t with heldSource := some source, state := .running, deadline := none }
    (e.updLink c.owner fun r => { r with listenOrder := r.listenOrder ++ [slot] }, false)

/-! ## Starting a treatment (R126) and the overflow move (R48) -/

/-- A treatment made for a call on the active bank with its queue's pattern, from a source and a last programme heard; a
carried source that names a drained personal channel is changed to the return source. The result says whether step 0 may
run now (R126). -/
def Ev.startTreatment (e : Ev) (slot : Nat) (c : Call) (source : Source) (lastProgramme : Option Nat) : Ev × Bool :=
  let bank := e.st.activeBank
  let t : Treatment :=
    { bank := bank, pattern := (e.st.queue c.queue).config.pattern, step := 0, state := .running, deadline := none,
      loop := 0, source := source, lastProgramme := lastProgramme, heldSource := none }
  let e := e.upd fun s => (s.setCall slot { c with treatment := some t }).updRefs bank (· + 1)
  match source with
  | .personal _ => e.changeSource slot c t.returnSource
  | .none | .programme _ => (e, true)

/-- An overflow move of a call to the queue its chain placed it in: steps 1 to 5 of R48, up to the first step of the new
treatment. The result says whether step 0 may run now. -/
def Ev.moveCall (e : Ev) (slot : Nat) (c : Call) (t : Treatment) (p : Placement) : Ev × Bool :=
  let now := e.st.tick
  let e := e.leaveOrder slot c
  let c' := { c with queue := p.queue, entry := now, redirects := p.redirects, treatment := none,
                     promotion := (e.st.queue p.queue).config.firstPromotion c.band now }
  let e := (e.upd fun s => s.setCall slot c').joinOrder slot c'
  let e := ((e.count c.queue .overflowedOut).countPassed p.passed).count p.queue .offered
  e.startTreatment slot c' t.source t.lastProgramme

/-! ## Running one step (R127 to R137) -/

/-- How the running of one step ends: the treatment waits or has ended; the next step is run, with the timeless steps
counted so far; or the call has moved to another queue and its new treatment may or may not run step 0 now. -/
inductive StepEnd where
  | waits (e : Ev)
  | goesOn (count : Nat) (e : Ev)
  | moved (queue : Nat) (runs : Bool) (e : Ev)

/-- The treatment becomes FINISHED, with its source kept (R136, R137). -/
def Ev.finishTreatment (e : Ev) (slot : Nat) : Ev :=
  e.upd fun s => s.updTreatment slot fun t => { t with state := .finished, deadline := none }

/-- The step index rises by 1 (R128, R130, R131, R133). -/
def Ev.advanceStep (e : Ev) (slot : Nat) : Ev :=
  e.upd fun s => s.updTreatment slot fun t => { t with step := t.step + 1 }

/-- A timeless step: not run when 16 timeless steps have been run in the event, where the treatment becomes FINISHED
instead (R136). -/
def timeless (count slot : Nat) (e : Ev) (done : Ev) : StepEnd :=
  if count < Config.chainLimit then .goesOn (count + 1) done else .waits (e.finishTreatment slot)

/-- A MUSIC or SILENCE step: the last programme heard, the source change, and then the step's deadline; a held change stops
before the deadline, and the step is run again, with its source already in place, when the change is queued (R128). -/
def Ev.sourceStep (e : Ev) (slot : Nat) (c : Call) (t : Treatment) (lastProgramme : Option Nat) (source : Source)
    (duration : Nat) : Ev :=
  let e := e.upd fun s => s.updTreatment slot fun t => { t with lastProgramme := lastProgramme }
  let r := if t.source = source then (e, true) else e.changeSource slot c source
  if r.2 then
    r.1.upd fun s => s.updTreatment slot fun t =>
      { t with state := .running,
               deadline := if duration = 0 then none else some (Tick.plus s.tick duration) }
  else r.1

/-- A run off the end of the pattern: FINISHED, the step index being the pattern's length; an empty pattern first changes
the source to NONE (R124, R137).
DEDUCED: log entry 8. -/
def Ev.runOff (e : Ev) (slot : Nat) (c : Call) (t : Treatment) (length : Nat) : Ev :=
  if length = 0 ∧ t.source ≠ .none then
    let r := e.changeSource slot c .none
    if r.2 then r.1.finishTreatment slot else r.1
  else
    (e.upd fun s => s.updTreatment slot fun t => { t with step := length }).finishTreatment slot

/-- The GOTO rule on a treatment part (R131). -/
def Treatment.goto (t : Treatment) (target count : Nat) : Treatment :=
  if count = 0 ∨ t.loop < count then { t with loop := min 255 (t.loop + 1), step := target }
  else { t with loop := 0, step := t.step + 1 }

/-- A phrase step whose phrase is not empty asks PLY for a channel: granted in the same event when the deferral list is
empty, a channel is FREE and the owner link has a free notice entry; otherwise the call joins the deferral list. With a
defer limit of 0 its deadline is reached in the joining event: the step is skipped and counted, and the next step is run
in the same treatment event (R130, R152 to R154, R156).
DEDUCED: log entry 6. -/
def Ev.requestChannel (e : Ev) (count slot : Nat) (c : Call) (phrase : List Nat) : StepEnd :=
  match c.owner.highway? with
  | none => .waits e
  | some h =>
      let ready := if (e.st.highway h).deferral = [] ∧ 0 < e.st.freeNotices c.owner then e.st.freeTimeslot h else none
      match ready with
      | some timeslot => .waits (e.bindChannel h timeslot slot c phrase)
      | none =>
          if e.st.deferLimit = 0 then .goesOn count ((e.count c.queue .announceSkipped).advanceStep slot)
          else
            .waits (e.upd fun s =>
              (s.joinDeferral h slot).updTreatment slot fun t => { t with state := .awaitChannel })

/-- A step held because the call is OFFERING (R135). -/
def Ev.holdStep (e : Ev) (slot : Nat) : Ev :=
  e.upd fun s => s.updTreatment slot fun t => { t with state := .held, deadline := none }

/-- The step at a treatment's step index is run, with the number of timeless steps run so far in the treatment event
(R127 to R137). -/
def Ev.runStep (e : Ev) (count slot : Nat) (c : Call) (t : Treatment) : StepEnd :=
  let steps := e.st.pattern t.bank t.pattern
  match steps[t.step]? with
  | none => .waits (e.runOff slot c t steps.length)
  | some step =>
      match step with
      | .music p duration => .waits (e.sourceStep slot c t (some p) (.programme p) duration)
      | .silence duration => .waits (e.sourceStep slot c t none .none duration)
      | .announce _ | .position | .waitEstimate =>
          let phrase := e.st.assemble slot c step
          if phrase = [] then timeless count slot e (e.advanceStep slot)
          else e.requestChannel count slot c phrase
      | .goto target n =>
          timeless count slot e (e.upd fun s => s.updTreatment slot fun t => t.goto target n)
      | .raise n =>
          timeless count slot e ((e.upd fun s => s.raiseCall slot c n).advanceStep slot)
      | .overflow q =>
          if c.state = .offering then .waits (e.holdStep slot)
          else
            match e.st.moveChain c q with
            | .stays => timeless count slot e (e.advanceStep slot)
            | .exits => .waits (e.exitCall slot c Config.redirectLimitReason)
            | .moves p =>
                let r := e.moveCall slot c t p
                .moved p.queue r.2 r.1
      | .exit reason =>
          if c.state = .offering then .waits (e.holdStep slot) else .waits (e.exitCall slot c reason)

/-- Steps run one after another until one takes time, the treatment ends or the chain limit is met (R127). After a move the
new treatment runs with a chain count of its own, and then the queue moved to gets its distribution attempt (R48 steps 5
and 6). The fuel of `treatmentEvent` exceeds the steps that 7 moves, 16 timeless steps a treatment and 16 steps a pattern
allow. -/
def Ev.runSteps : Nat → Nat → Nat → Ev → Ev
  | 0, _, _, e => e
  | fuel + 1, count, slot, e =>
      match e.st.call? slot with
      | none => e
      | some c =>
          match c.treatment with
          | none => e
          | some t =>
              match e.runStep count slot c t with
              | .waits e => e
              | .goesOn n e => Ev.runSteps fuel n slot e
              | .moved q runs e =>
                  (if runs then Ev.runSteps fuel 0 slot e else e).queueAttempts q

/-- A treatment event: the steps of a call's treatment are run from its step index (R127).
DEDUCED: log entry 15. -/
def Ev.treatmentEvent (e : Ev) (slot : Nat) : Ev := Ev.runSteps 4096 0 slot e

/-- A phrase step completed or skipped: the step index rises by 1 and the next step is run in the same event (R130). -/
def Ev.completePhrase (e : Ev) (slot : Nat) : Ev := (e.advanceStep slot).treatmentEvent slot

/-- The held step of a call whose offer has ended, run when the call is WAITING without an exit pending (R81 step 1,
R135). -/
def Ev.runHeldStep (e : Ev) (slot : Nat) : Ev :=
  match e.st.call? slot with
  | none => e
  | some c =>
      match c.treatment with
      | some t =>
          if c.state = .waiting ∧ c.exitPending = none ∧ t.state = .held then e.treatmentEvent slot else e
      | none => e

/-! ## Phrase ends and returns (R158, R159) -/

/-- The return of a call to its return source: the LISTEN is queued, the channel goes to DRAINING, and the phrase step is
complete (R130, R158 step 2, R159). -/
def Ev.queueReturn (e : Ev) (slot : Nat) (c : Call) (t : Treatment) (h : Highway) (timeslot : Nat) : Ev :=
  let e := e.queueListen slot c t.returnSource.timeslot
  let e := e.upd fun s => s.drainChannel h timeslot
  let e := e.upd fun s => s.updTreatment slot fun t => { t with source := t.returnSource }
  e.completePhrase slot

/-- The phrase-end event of a channel held by a call (R158). -/
def Ev.endPhrase (e : Ev) (h : Highway) (timeslot slot : Nat) (c : Call) (t : Treatment) : Ev :=
  let channel := e.st.channel h timeslot
  let e := e.upd fun s => s.updUseCounts channel.used (· - 1)
  let bare : Channel := { state := .bound, holder := some slot, phrase := none, segIndex := 0, offset := 0 }
  let e := e.upd fun s => s.setChannel h timeslot bare
  if 0 < e.st.freeNotices c.owner then e.queueReturn slot c t h timeslot
  else
    let e := e.upd fun s => s.updTreatment slot fun t => { t with state := .returning }
    e.updLink c.owner fun r => { r with listenOrder := r.listenOrder ++ [slot] }

/-! ## Deferral grants (R153, R155) -/

/-- The head of a highway's deferral list taken out and granted a channel, or its step skipped when its phrase assembled
now is empty; none when the list is empty, no channel is FREE or the link has no free notice entry (R153, R155). -/
def Ev.grantHead (e : Ev) (h : Highway) : Option Ev :=
  match (e.st.highway h).deferral, e.st.freeTimeslot h with
  | d :: _, some timeslot =>
      if 0 < e.st.freeNotices h.link then
        let e := e.upd fun s => s.leaveDeferral h d.call
        match e.st.call? d.call with
        | none => some e
        | some c =>
            match c.treatment with
            | none => some e
            | some t =>
                let phrase := match (e.st.pattern t.bank t.pattern)[t.step]? with
                  | some step => e.st.assemble d.call c step
                  | none => []
                if phrase = [] then some (e.completePhrase d.call)
                else some (e.bindChannel h timeslot d.call c phrase)
      else none
  | _, _ => none

/-- Grants from a highway's deferral list until one of their conditions fails (R155). -/
def Ev.grantLoop (h : Highway) : Nat → Ev → Ev
  | 0, e => e
  | fuel + 1, e =>
      match e.grantHead h with
      | some e => Ev.grantLoop h fuel e
      | none => e

/-- The grants of R155 on a highway. Each takes an entry out of the list or a free notice entry, and the fuel is far above
what a list of 2048 entries needs. -/
def Ev.grants (e : Ev) (h : Highway) : Ev := Ev.grantLoop h 65536 e

end Sys2Proof.Machine
end

