-- ==== Sys2Proof/Machine/LinkWork.lean ====
section
/-!
DEFINITION. LNK's work that waits for notice space (R180) and the end of an event: the waiting work of the links on which
the event freed space, and then its monitoring notices (R170).
-/
namespace Sys2Proof.Machine

open Sys2Proof

/-! ## Stage 1: pending exits (R52) -/

/-- The link's oldest pending exit completes: its CALL_EXIT is queued with the reason held, the call is removed, and EXITED
is counted (R52). -/
def Ev.completeExit (e : Ev) (l : Link) (slot : Nat) : Ev :=
  let e := e.updLink l fun r => { r with exitOrder := r.exitOrder.filter (· != slot) }
  match e.st.call? slot with
  | none => e
  | some c =>
      match c.exitPending with
      | none => e
      | some reason => (e.queueNotice l (.callExit slot c.ref reason)).removeCall slot c .exited

/-- Pending exits of the link complete, oldest first, while a free notice entry remains (R52, R180 stage 1). -/
def Ev.exitStage (l : Link) : Nat → Ev → Ev
  | 0, e => e
  | fuel + 1, e =>
      match (e.st.link l).exitOrder with
      | [] => e
      | slot :: _ => if 0 < e.st.freeNotices l then Ev.exitStage l fuel (e.completeExit l slot) else e

/-! ## Stage 2: held LISTENs (R129, R159) -/

/-- What a call's held LISTEN is: a source change of TSQ or a return of PLY. -/
inductive HeldListen where
  | sourceChange (source : Source)
  | phraseReturn (h : Highway) (timeslot : Nat)
  deriving DecidableEq, Repr

/-- The held LISTEN of a call (R129, R159). -/
def State.heldListen (s : State) (slot : Nat) (c : Call) (t : Treatment) : Option HeldListen :=
  match t.heldSource with
  | some source => some (.sourceChange source)
  | none =>
      if t.state = .returning then
        match c.owner.highway? with
        | none => none
        | some h => (s.heldTimeslot h slot).map fun timeslot => .phraseReturn h timeslot
      else none

/-- A held source change queued: the source takes its value and the treatment carries on from where it waited (R129).
DEDUCED: log entry 7. -/
def Ev.queueHeldSource (e : Ev) (slot : Nat) (c : Call) (source : Source) : Ev :=
  (e.changeSource slot c source).1.treatmentEvent slot

/-- The held LISTEN of a call queued, in a treatment event of its own (R180 stage 2). -/
def Ev.queueHeldListen (e : Ev) (slot : Nat) (c : Call) (t : Treatment) : Ev :=
  match e.st.heldListen slot c t with
  | some (.sourceChange source) => e.queueHeldSource slot c source
  | some (.phraseReturn h timeslot) => e.queueReturn slot c t h timeslot
  | none => e

/-- The link's oldest held LISTEN taken out of its order and queued. -/
def Ev.takeHeldListen (e : Ev) (l : Link) (slot : Nat) : Ev :=
  let e := e.updLink l fun r => { r with listenOrder := r.listenOrder.filter (· != slot) }
  match e.st.call? slot with
  | none => e
  | some c =>
      match c.treatment with
      | none => e
      | some t => e.queueHeldListen slot c t

/-- Held LISTENs of the link are queued, oldest first, while a free notice entry remains (R180 stage 2). -/
def Ev.listenStage (l : Link) : Nat → Ev → Ev
  | 0, e => e
  | fuel + 1, e =>
      match (e.st.link l).listenOrder with
      | [] => e
      | slot :: _ => if 0 < e.st.freeNotices l then Ev.listenStage l fuel (e.takeHeldListen l slot) else e

/-! ## Stages 3 and 4, and the four stages together -/

/-- A waiting order holds a WAITING call without an exit pending (R60). -/
def State.hasWaiting (s : State) (q : Nat) : Bool :=
  (s.queue q).order.any fun slot =>
    match s.call? slot with
    | some c => decide (c.state = .waiting) && c.exitPending.isNone
    | none => false

/-- The distribution attempts that free space calls for, in ascending queue number, while a free notice entry remains on
the link (R60, R180 stage 4). -/
def Ev.attemptStage (e : Ev) (l : Link) : Ev :=
  (List.range Config.queueCount).foldl
    (fun e q => if 0 < e.st.freeNotices l ∧ e.st.hasWaiting q = true then e.queueAttempts q else e) e

/-- The four stages of the work that waits for notice space on a switching link (R180). Every completed exit and every
queued LISTEN takes an entry, so the fuel of the first two stages covers the orders they start with. -/
def Ev.resumeWork (e : Ev) (l : Link) : Ev :=
  match l.highway? with
  | none => e
  | some h =>
      let e := Ev.exitStage l ((e.st.link l).exitOrder.length + 1) e
      let e := Ev.listenStage l ((e.st.link l).listenOrder.length + 49) e
      let e := e.grants h
      e.attemptStage l

/-- The end of an event: the waiting work of Link A and then of Link B, where the event freed space (R180), and last the
monitoring notices (R170). -/
def Ev.finish (e : Ev) : State :=
  let e := if e.freedA then e.resumeWork .a else e
  let e := if e.freedB then e.resumeWork .b else e
  e.deliverOffered

/-- An event that begins in a state. -/
def State.event (s : State) : Ev := { st := s }

/-! ## The work that follows a failed or withdrawn offer (R81) -/

/-- Steps 1 to 3 of R81 after a failed offer or an agent-side withdrawal: the held step, the attempts for the queue in
which the call was offered, and the attempt for the agent. Step 4 is the end of the event. -/
def Ev.afterOffer (e : Ev) (slot q agentSlot : Nat) : Ev :=
  ((e.runHeldStep slot).queueAttempts q).agentAttempt agentSlot

/-- An immediate logout (R15, R16, R23): an offer is withdrawn from the agent side and a connected call loses its agent;
then the logout is completed, and after a withdrawal the work of R81 follows. -/
def Ev.logoutNow (e : Ev) (slot : Nat) (cause : Cause) : Ev :=
  let a := e.st.agent slot
  let e := e.upd fun s =>
    match a.call with
    | some c => s.updCall c fun r => { r with agent := none }
    | none => s
  match a.offer with
  | none => e.completeLogout slot cause
  | some o =>
      match e.st.call? o.call with
      | some c =>
          match c.offer with
          | some co =>
              ((e.withdrawFromAgent o.call c co).completeLogout slot cause).afterOffer o.call c.queue slot
          | none => e.completeLogout slot cause
      | none => e.completeLogout slot cause

/-! ## The loss of a switching link (R182) -/

/-- Step 1 of R182 for one call that the lost link owns (R53). -/
def Ev.loseCall (l : Link) (e : Ev) (slot : Nat) : Ev :=
  match e.st.call? slot with
  | none => e
  | some c =>
      match c.state with
      | .waiting => e.removeCall slot c .abandoned
      | .offering =>
          let e :=
            match c.offer with
            | none => e
            | some o =>
                if (e.st.agent o.agent).home = some l then e.upd fun s => s.endOffer slot o.agent .withdrawn
                else e.withdrawFromCall slot c o .linkLoss
          e.removeCall slot c .abandoned
      | .connected =>
          let e := e.upd fun s => s.freeCall slot
          match c.agent, c.connectTick with
          | some x, some t => if (e.st.agent x).home = some l then e else e.startWrap x c.queue t .linkLoss
          | _, _ => e

/-- Step 2 of R182 for one agent that the lost link homes: an offer of the other link's call ends WITHDRAWN and the call
returns to WAITING, a connected call of the other link loses its agent, and the logout is completed (R28). -/
def Ev.loseAgent (e : Ev) (slot : Nat) : Ev :=
  let a := e.st.agent slot
  let e := e.upd fun s =>
    match a.call with
    | some c => s.updCall c fun r => { r with agent := none }
    | none => s
  let e :=
    match a.offer with
    | none => e
    | some o =>
        match e.st.call? o.call with
        | none => e
        | some c => (e.upd fun s => s.endOffer o.call slot .withdrawn).releaseReservation c.owner
  e.completeLogout slot .linkLoss

/-- The calls a link owns, in ascending slot. -/
def State.ownedCalls (s : State) (l : Link) : List Nat :=
  (s.calls.filter fun e => decide (e.2.owner = l)).map (·.1)

/-- The agents a link homes that are not LOGGED_OUT, in ascending slot. -/
def State.homedAgents (s : State) (l : Link) : List Nat :=
  (s.agents.filter fun e => decide (e.2.home = some l ∧ e.2.state ≠ .loggedOut)).map (·.1)

/-- The calls of the other links that were OFFERING in an earlier state and are WAITING now, in ascending slot, each with
the queue in which it was offered. -/
def State.returnedCalls (before s : State) : List (Nat × Nat) :=
  (before.calls.filter fun e =>
    decide (e.2.state = .offering) &&
      match s.call? e.1 with
      | some c => decide (c.state = .waiting)
      | none => false).map fun e => (e.1, e.2.queue)

/-- The agents that are AVAILABLE now and were not in an earlier state, in ascending slot. -/
def State.enteredAvailable (before s : State) : List Nat :=
  (s.agents.filter fun e =>
    decide (e.2.state = .available ∧ (before.agent e.1).state ≠ .available)).map (·.1)

/-- The link record of a link whose signal is lost (R182). -/
def LinkRec.lost (r : LinkRec) : LinkRec :=
  { r with up := false, receiving := [], inbound := [], outbound := [], reserved := 0, exitOrder := [],
           listenOrder := [] }

/-- The loss of a switching link: the calls it owns, the agents it homes, the held steps, the queue attempts and the agent
attempts, in the order of R182.
DEDUCED: log entry 18. -/
def Ev.loseSwitchingLink (e : Ev) (l : Link) (h : Highway) : Ev :=
  let before := e.st
  let e := (before.ownedCalls l).foldl (Ev.loseCall l) e
  let e := e.upd fun s => s.drainHighway h
  let e := (e.st.homedAgents l).foldl Ev.loseAgent e
  let returned := before.returnedCalls e.st
  let entered := before.enteredAvailable e.st
  let e := returned.foldl (fun (e : Ev) r => e.runHeldStep r.1) e
  let queues := (List.range Config.queueCount).filter fun q => returned.any fun r => r.2 == q
  let e := queues.foldl Ev.queueAttempts e
  entered.foldl Ev.agentAttempt e

end Sys2Proof.Machine
end

