-- ==== Sys2Proof/Machine/Requests.lean ====
section
/-!
DEFINITION. How a request is taken (R177): the head of a link's inbound FIFO, when the link is UP and its outbound queue has
room for a reply; then the checks of class and body; then the request's own rule; and last the end of the event.
-/
namespace Sys2Proof.Machine

open Sys2Proof

/-- The request classes (R177). -/
inductive RequestClass where
  | calls | agents | config | stats
  deriving DecidableEq, Repr

/-- A permission set holds a class (R174). -/
def Permissions.holds (p : Permissions) : RequestClass → Bool
  | .calls => p.calls
  | .agents => p.agents
  | .config => p.config
  | .stats => p.stats

/-- The request that LNK takes next from a link: the head of its inbound FIFO while fewer than 16 replies are queued
(R177). -/
def State.headRequest (s : State) (l : Link) : Option Request :=
  if (s.link l).up ∧ (s.link l).replyCount < Config.replyEntries then (s.link l).inbound.head? else none

/-- The event that takes the head of a link's inbound FIFO out of it. -/
def State.takeHead (s : State) (l : Link) : Ev :=
  s.event.updLink l fun r => { r with inbound := r.inbound.tail }

/-- A request command: the head request of the link is taken whole when it is one of this command's (R177). A command whose
request is not at the head, or for whose reply there is no room, cannot arise and changes nothing. -/
def takeRequest (s : State) (l : Link) (mine : Request → Bool) (serve : Request → Ev → Ev) : State :=
  match s.headRequest l with
  | some r => if mine r then (serve r (s.takeHead l)).finish else s
  | none => s

/-- A request refused MALFORMED: its reply is queued first, and then the fault is raised (R175, R177). -/
def Ev.refuseMalformed (e : Ev) (l : Link) (r : Request) (result : Result) : Ev :=
  (e.reply l r .malformed result).raiseFault l .malformed (some (r.tag, r.kind))

/-- Checks 2 and 3 of R177, and then the request's own rule on its body. `result` is what a refused reply carries beside its
status. -/
def Ev.checked {α : Type} (e : Ev) (l : Link) (r : Request) (c : RequestClass) (read : List Byte → Option α)
    (result : Result) (serve : α → Ev) : Ev :=
  if (e.st.link l).permissions.holds c then
    match read r.body with
    | some b => serve b
    | none => e.refuseMalformed l r result
  else e.reply l r .notPermitted result

/-- The kind byte of a request is this one. -/
def ofKind (kind : Byte) (r : Request) : Bool := decide (r.kind = kind)

/-- An AGENT_FORCE is taken by the command of its action; one whose action is none of the three is taken, and refused, by
FORCE_LOGOUT.
DESIGN CHOICE: log entry 10. -/
def ofForce (action : ForceAction) (r : Request) : Bool :=
  ofKind 0x0D r && decide ((forceAction? (u8 r.body 2)).getD .logout = action)

/-- An OFFER_REPLY is taken by the command of its answer; one whose answer is neither is taken, and refused, by ACCEPT.
DESIGN CHOICE: log entry 10. -/
def ofAnswer (accepts : Bool) (r : Request) : Bool :=
  ofKind 0x0B r && decide ((answer? (u8 r.body 4)).getD true = accepts)

/-- A PROGRAMME_CONTROL is taken by the command of its action; one whose action is none of the three is taken, and refused,
by RUN.
DESIGN CHOICE: log entry 10. -/
def ofControl (action : ProgrammeAction) (r : Request) : Bool :=
  ofKind 0x15 r && decide ((programmeAction? (u8 r.body 1)).getD .run = action)

/-- The kind byte is not a request kind (R177 check 1, R188). -/
def ofUnknownKind (r : Request) : Bool := decide (r.kind.toNat = 0 ∨ 0x1F < r.kind.toNat)

end Sys2Proof.Machine
end

