-- ==== Sys2Proof/Machine/AgentRequests.lean ====
section
/-!
DEFINITION. The agent requests of chapter 1 and the wrap-up requests of chapter 4: AGENT_LOGIN, AGENT_READY,
AGENT_NOT_READY, AGENT_LOGOUT, AGENT_UPDATE, AGENT_FORCE with its three actions, WRAP_END and WRAP_EXTEND.
A reply is queued before the notices of its own event, and its state and pending fields are those the request's own rule
gives, before the distribution attempts that follow (R47, R74, R90; notes/assumptions/4.md).
-/
namespace Sys2Proof.Machine

open Sys2Proof

/-- The fields that the reply to an agent request carries (R4). -/
def Agent.result (a : Agent) (slot : Nat) : Result := .agent slot a.state a.pending

/-- The agent slot is in range (R4 check 3). -/
def slotInRange (slot : Nat) : Bool := decide (slot < Config.agentSlots)

/-- Every queue of a skill list is in range (R4 check 3). -/
def skillsInRange (skills : List Skill) : Bool := skills.all fun k => decide (k.queue < Config.queueCount)

/-- The agent is logged in by another link (R4 check 4). -/
def Agent.foreign (a : Agent) (l : Link) : Bool := decide (a.state ≠ .loggedOut ∧ a.home ≠ some l)

/-- Checks 3 and 4 of R4 for a request of the agent's home link, and then the request's own rule.
DEDUCED: log entry 11. -/
def Ev.forAgent (e : Ev) (l : Link) (r : Request) (slot : Nat) (inRange : Bool) (serve : Agent → Ev) : Ev :=
  if slotInRange slot && inRange then
    let a := e.st.agent slot
    if a.foreign l then e.reply l r .notOwner (a.result slot) else serve a
  else e.reply l r .noSuch .bare

/-- Check 3 of R4 for an AGENT_FORCE, whose ownership is not checked, and then its own rule (R22). -/
def Ev.forForce (e : Ev) (l : Link) (r : Request) (slot : Nat) (serve : Agent → Ev) : Ev :=
  if slotInRange slot then serve (e.st.agent slot) else e.reply l r .noSuch .bare

/-! ## AGENT_LOGIN (R10, R11) -/

/-- An agent record after a login (R10). -/
def Agent.login (a : Agent) (l : Link) (b : LoginBody) : Agent :=
  { a.clearAccumulators with
    state := .notReady, home := some l, id := b.id, skills := normalizeSkills b.skills, reason := 0, pending := .none,
    miss := 0, missLimit := min 7 b.missLimit, exitType := b.exitType, penalty := max 1 b.penalty,
    penaltyDeadline := none }

/-- AGENT_LOGIN after its body is read (R4, R10). -/
def Ev.serveLogin (e : Ev) (l : Link) (r : Request) (b : LoginBody) : Ev :=
  if slotInRange b.slot && skillsInRange b.skills then
    let a := e.st.agent b.slot
    if l = .s then e.reply l r .notPermitted (a.result b.slot)
    else if a.state = .loggedOut then
      let new := a.login l b
      (e.reply l r .done (.login b.slot new.state new.pending new.skills.length)).putAgent b.slot new .request
    else e.reply l r .stateConflict (a.result b.slot)
  else e.reply l r .noSuch .bare

/-- AGENT_LOGIN taken on a link. -/
def execAgentLogin (l : Link) (s : State) : Host.Outcome State Fault Refusal :=
  .next (takeRequest s l (ofKind 0x04) fun r e => e.checked l r .agents readLogin .bare (e.serveLogin l r))

/-! ## AGENT_READY (R12) -/

/-- An agent record after AGENT_READY, at a tick (R12, R26). -/
def Agent.ready (a : Agent) (now : Tick) : Agent :=
  match a.state with
  | .notReady | .inferredAbsent => { a.madeAvailable now with miss := 0, penaltyDeadline := none }
  | .reserved | .busy | .wrapUp =>
      match a.pending with
      | .notReady _ => { a with pending := .none }
      | .none | .logout => a
  | .available | .loggedOut => a

/-- AGENT_READY for a logged-in agent of the link: the reply, the change, and the attempt for an agent that has become
AVAILABLE (R7, R12, R62). -/
def Ev.serveReady (e : Ev) (l : Link) (r : Request) (slot : Nat) (a : Agent) : Ev :=
  let new := a.ready e.st.tick
  match a.state with
  | .loggedOut => e.reply l r .stateConflict (a.result slot)
  | .notReady | .inferredAbsent =>
      ((e.reply l r .done (new.result slot)).putAgentAtTail slot new .request).agentAttempt slot
  | .available => e.reply l r .done (a.result slot)
  | .reserved | .busy | .wrapUp => (e.reply l r .done (new.result slot)).upd fun s => s.setAgent slot new

/-- AGENT_READY taken on a link. -/
def execAgentReady (l : Link) (s : State) : Host.Outcome State Fault Refusal :=
  .next (takeRequest s l (ofKind 0x06) fun r e =>
    e.checked l r .agents readSlot .bare fun slot => e.forAgent l r slot true (e.serveReady l r slot))

/-! ## AGENT_NOT_READY and FORCE_NOT_READY (R13, R22) -/

/-- An agent record after AGENT_NOT_READY with a reason, which is lowered to 15 (R13). -/
def Agent.notReady (a : Agent) (reason : Nat) : Agent :=
  let reason := min 15 reason
  match a.state with
  | .available => a.madeNotReady reason
  | .notReady => { a with reason := reason }
  | .inferredAbsent => { a.madeNotReady reason with miss := 0, penaltyDeadline := none }
  | .reserved | .busy | .wrapUp =>
      match a.pending with
      | .logout => a
      | .none | .notReady _ => { a with pending := .notReady reason }
  | .loggedOut => a

/-- A not-ready taken for an agent, from its home link or by force: the reply and the change (R13, R22). -/
def Ev.serveNotReady (e : Ev) (l : Link) (r : Request) (slot reason : Nat) (cause : Cause) (a : Agent) : Ev :=
  let new := a.notReady reason
  if a.state = .loggedOut then e.reply l r .stateConflict (a.result slot)
  else (e.reply l r .done (new.result slot)).putAgent slot new cause

/-- AGENT_NOT_READY taken on a link. -/
def execAgentNotReady (l : Link) (s : State) : Host.Outcome State Fault Refusal :=
  .next (takeRequest s l (ofKind 0x07) fun r e =>
    e.checked l r .agents readNotReady .bare fun b =>
      e.forAgent l r b.slot true (e.serveNotReady l r b.slot b.reason .request))

/-- FORCE_NOT_READY taken on a link. -/
def execForceNotReady (l : Link) (s : State) : Host.Outcome State Fault Refusal :=
  .next (takeRequest s l (ofForce .notReady) fun r e =>
    e.checked l r .config readForce .bare fun b =>
      e.forForce l r b.slot (e.serveNotReady l r b.slot b.reason .force))

/-! ## AGENT_LOGOUT, FORCE_LOGOUT and FORCE_LOGOUT_NOW (R15 to R18, R22, R23) -/

/-- The reply of an immediate logout, and then the logout (R15, R16, R23). -/
def Ev.replyAndLogout (e : Ev) (l : Link) (r : Request) (slot : Nat) (cause : Cause) : Ev :=
  (e.reply l r .done (.agent slot .loggedOut .none)).logoutNow slot cause

/-- A logout taken for an agent, from its home link or by force: refused when LOGGED_OUT, pended when BUSY or WRAP_UP,
immediate otherwise (R15 to R17, R22). -/
def Ev.serveLogout (e : Ev) (l : Link) (r : Request) (slot : Nat) (cause : Cause) (a : Agent) : Ev :=
  match a.state with
  | .loggedOut => e.reply l r .stateConflict (a.result slot)
  | .notReady | .available | .inferredAbsent | .reserved => e.replyAndLogout l r slot cause
  | .busy | .wrapUp =>
      let new := { a with pending := .logout }
      (e.reply l r .done (new.result slot)).upd fun s => s.setAgent slot new

/-- AGENT_LOGOUT taken on a link. -/
def execAgentLogout (l : Link) (s : State) : Host.Outcome State Fault Refusal :=
  .next (takeRequest s l (ofKind 0x05) fun r e =>
    e.checked l r .agents readSlot .bare fun slot => e.forAgent l r slot true (e.serveLogout l r slot .request))

/-- FORCE_LOGOUT taken on a link. -/
def execForceLogout (l : Link) (s : State) : Host.Outcome State Fault Refusal :=
  .next (takeRequest s l (ofForce .logout) fun r e =>
    e.checked l r .config readForce .bare fun b => e.forForce l r b.slot (e.serveLogout l r b.slot .force))

/-- FORCE_LOGOUT_NOW taken for an agent: refused when LOGGED_OUT, immediate from every other state (R23). -/
def Ev.serveLogoutNow (e : Ev) (l : Link) (r : Request) (slot : Nat) (a : Agent) : Ev :=
  if a.state = .loggedOut then e.reply l r .stateConflict (a.result slot) else e.replyAndLogout l r slot .force

/-- FORCE_LOGOUT_NOW taken on a link. -/
def execForceLogoutNow (l : Link) (s : State) : Host.Outcome State Fault Refusal :=
  .next (takeRequest s l (ofForce .logoutNow) fun r e =>
    e.checked l r .config readForce .bare fun b => e.forForce l r b.slot (e.serveLogoutNow l r b.slot))

/-! ## AGENT_UPDATE (R19 to R21) -/

/-- The masked skill list is applied: in every state but RESERVED (R20). -/
def UpdateBody.appliedSkills (b : UpdateBody) (a : Agent) : Option (List Skill) :=
  if a.state = .reserved then none else b.skills.map normalizeSkills

/-- An agent record after AGENT_UPDATE (R19, R20). -/
def Agent.update (a : Agent) (b : UpdateBody) : Agent :=
  { a with
    skills := (b.appliedSkills a).getD a.skills
    missLimit := (b.missLimit.map fun n => min 7 n).getD a.missLimit
    exitType := b.exitType.getD a.exitType
    penalty := (b.penalty.map fun n => max 1 n).getD a.penalty
    id := b.id.getD a.id }

/-- A present field as a bit of a mask. -/
def maskBit {α : Type} (bit : Nat) (o : Option α) : Nat := if o.isSome then 2 ^ bit else 0

/-- The mask of the fields an AGENT_UPDATE applies (R19). -/
def UpdateBody.appliedMask (b : UpdateBody) (a : Agent) : Nat :=
  maskBit 0 (b.appliedSkills a) + maskBit 1 b.missLimit + maskBit 2 b.exitType + maskBit 3 b.penalty + maskBit 4 b.id

/-- AGENT_UPDATE for an agent of the link: the reply, the change, and the attempt for an AVAILABLE agent whose skill list
was replaced (R19, R20). -/
def Ev.serveUpdate (e : Ev) (l : Link) (r : Request) (b : UpdateBody) (a : Agent) : Ev :=
  if a.state = .loggedOut then e.reply l r .stateConflict (a.result b.slot)
  else
    let new := a.update b
    let e := (e.reply l r .done (.update b.slot new.state new.pending (b.appliedMask a))).putAgent b.slot new .request
    if (b.appliedSkills a).isSome then e.agentAttempt b.slot else e

/-- AGENT_UPDATE taken on a link. -/
def execAgentUpdate (l : Link) (s : State) : Host.Outcome State Fault Refusal :=
  .next (takeRequest s l (ofKind 0x08) fun r e =>
    e.checked l r .agents readUpdate .bare fun b =>
      e.forAgent l r b.slot (skillsInRange (b.skills.getD [])) (e.serveUpdate l r b))

/-! ## WRAP_END and WRAP_EXTEND (R88, R90) -/

/-- The agent's record as the leave rule settles it, for the reply to WRAP_END (R90, R94). -/
def Agent.afterLeave (a : Agent) : AgentState :=
  match a.pending with
  | .logout => .loggedOut
  | .notReady _ => .notReady
  | .none => .available

/-- WRAP_END for an agent of the link (R90). -/
def Ev.serveWrapEnd (e : Ev) (l : Link) (r : Request) (slot : Nat) (a : Agent) : Ev :=
  match a.state, a.wrap with
  | .wrapUp, some w =>
      ((e.reply l r .done (.wrapEnded slot (w.sample e.st.tick) a.afterLeave .none)).endWrap slot w .request).agentAttempt
        slot
  | _, _ => e.reply l r .stateConflict (a.result slot)

/-- WRAP_END taken on a link. -/
def execWrapEnd (l : Link) (s : State) : Host.Outcome State Fault Refusal :=
  .next (takeRequest s l (ofKind 0x09) fun r e =>
    e.checked l r .agents readSlot .bare fun slot => e.forAgent l r slot true (e.serveWrapEnd l r slot))

/-- WRAP_EXTEND for an agent of the link (R88). -/
def Ev.serveWrapExtend (e : Ev) (l : Link) (r : Request) (b : ExtendBody) (a : Agent) : Ev :=
  match a.state, a.wrap with
  | .wrapUp, some w =>
      let grant := w.grant (e.st.queue w.queue).config.maxExtension b.requested
      let new := { w with deadline := Tick.plus w.deadline grant, granted := w.granted + grant }
      (e.reply l r .done (.extended b.slot grant new.granted new.deadline)).upd fun s =>
        s.setAgent b.slot { a with wrap := some new }
  | _, _ => e.reply l r .stateConflict (a.result b.slot)

/-- WRAP_EXTEND taken on a link. -/
def execWrapExtend (l : Link) (s : State) : Host.Outcome State Fault Refusal :=
  .next (takeRequest s l (ofKind 0x0A) fun r e =>
    e.checked l r .agents readExtend .bare fun b => e.forAgent l r b.slot true (e.serveWrapExtend l r b))

end Sys2Proof.Machine
end

