-- ==== Sys2Proof/Machine/AudioRequests.lean ====
section
/-!
DEFINITION. The audio requests of chapter 7: SAMPLE_WRITE, SEGMENT_SET, PROGRAMME_SET and PROGRAMME_CONTROL with its three
actions.
-/
namespace Sys2Proof.Machine

open Sys2Proof

/-! ## SAMPLE_WRITE (R142) -/

/-- SAMPLE_WRITE after its body is read: the bytes are written into the block from its byte 0 upward (R142). -/
def Ev.serveSampleWrite (e : Ev) (l : Link) (r : Request) (b : SampleWriteBody) : Ev :=
  if b.block < Config.sampleBlocks then
    (e.upd fun s => { s with store := Memory.writeBytes s.store (b.block * Config.blockBytes) b.bytes }).reply l r .done
      (.sample b.block b.bytes.length)
  else e.reply l r .noSuch .bare

/-- SAMPLE_WRITE taken on a link. -/
def execSampleWrite (l : Link) (s : State) : Host.Outcome State Fault Refusal :=
  .next (takeRequest s l (ofKind 0x13) fun r e => e.checked l r .config readSampleWrite .bare (e.serveSampleWrite l r))

/-! ## SEGMENT_SET (R143) -/

/-- The segment number and a first block given are in range (R143). -/
def SegmentSetBody.inRange (b : SegmentSetBody) : Bool :=
  decide (b.segment < Config.segmentCount) && decide ((b.entry.getD (0, 0, 0)).1 < Config.sampleBlocks)

/-- The entry a SEGMENT_SET stores: undefined, or its values brought into range (R143). -/
def SegmentSetBody.stored (b : SegmentSetBody) : Option Segment :=
  b.entry.map fun v => Segment.clamped v.1 v.2.1 v.2.2

/-- The state with a segment table entry set (R143). -/
def State.setSegment (s : State) (segment : Nat) (entry : Option Segment) : State :=
  match entry with
  | some g => { s with segments := Assoc.put segment g s.segments }
  | none => { s with segments := Assoc.erase segment s.segments }

/-- SEGMENT_SET after its body is read (R143). -/
def Ev.serveSegmentSet (e : Ev) (l : Link) (r : Request) (b : SegmentSetBody) : Ev :=
  if b.inRange then
    if 0 < e.st.useCount b.segment then e.reply l r .inUse .bare
    else
      (e.upd fun s => s.setSegment b.segment b.stored).reply l r .done (.segment b.stored (e.st.useCount b.segment))
  else e.reply l r .noSuch .bare

/-- SEGMENT_SET taken on a link. -/
def execSegmentSet (l : Link) (s : State) : Host.Outcome State Fault Refusal :=
  .next (takeRequest s l (ofKind 0x12) fun r e => e.checked l r .config readSegmentSet .bare (e.serveSegmentSet l r))

/-! ## PROGRAMME_SET (R147) -/

/-- The programme number and every segment number are in range (R147). -/
def ProgrammeSetBody.inRange (b : ProgrammeSetBody) : Bool :=
  decide (b.programme < Config.programmeCount) && b.tracks.all fun g => decide (g < Config.segmentCount)

/-- The programme that a PROGRAMME_SET stores: STOPPED, at its start, with its start index brought into range (R147). -/
def ProgrammeSetBody.stored (b : ProgrammeSetBody) : Programme :=
  { tracks := b.tracks, order := b.order, start := if b.tracks = [] then 0 else b.start % b.tracks.length,
    state := .stopped, counter := 0, offset := 0 }

/-- PROGRAMME_SET after its body is read (R147). -/
def Ev.serveProgrammeSet (e : Ev) (l : Link) (r : Request) (b : ProgrammeSetBody) : Ev :=
  if b.inRange then
    if (e.st.programme b.programme).state = .stopped then
      (e.upd fun s => s.setProgramme b.programme b.stored).reply l r .done (.programme b.stored)
    else e.reply l r .inUse .bare
  else e.reply l r .noSuch .bare

/-- PROGRAMME_SET taken on a link. -/
def execProgrammeSet (l : Link) (s : State) : Host.Outcome State Fault Refusal :=
  .next (takeRequest s l (ofKind 0x14) fun r e => e.checked l r .config readProgrammeSet .bare (e.serveProgrammeSet l r))

/-! ## PROGRAMME_CONTROL (R150) -/

/-- The programme number's check, and then the action's own rule (R150). -/
def Ev.forProgramme (e : Ev) (l : Link) (r : Request) (b : ProgrammeControlBody) (serve : Programme → Ev) : Ev :=
  if b.programme < Config.programmeCount then serve (e.st.programme b.programme) else e.reply l r .noSuch .bare

/-- A programme stored by a taken action, and its DONE reply with the state and cursor after the request (R150). -/
def Ev.controlled (e : Ev) (l : Link) (r : Request) (n : Nat) (p : Programme) : Ev :=
  (e.upd fun s => s.setProgramme n p).reply l r .done (.programmeState p.state p.counter p.offset)

/-- RUN of a programme (R144, R150). -/
def Ev.serveRun (e : Ev) (l : Link) (r : Request) (n : Nat) (p : Programme) : Ev :=
  match p.state with
  | .stopped =>
      (e.upd fun s => s.updUseCounts p.tracks (· + 1)).controlled l r n { p with state := .running, counter := 0, offset := 0 }
  | .running => e.controlled l r n p
  | .paused => e.controlled l r n { p with state := .running }

/-- RUN taken on a link. -/
def execRun (l : Link) (s : State) : Host.Outcome State Fault Refusal :=
  .next (takeRequest s l (ofControl .run) fun r e =>
    e.checked l r .config readProgrammeControl .bare fun b => e.forProgramme l r b (e.serveRun l r b.programme))

/-- PAUSE of a programme (R150). -/
def Ev.servePause (e : Ev) (l : Link) (r : Request) (n : Nat) (p : Programme) : Ev :=
  match p.state with
  | .stopped => e.reply l r .stateConflict .bare
  | .running => e.controlled l r n { p with state := .paused }
  | .paused => e.controlled l r n p

/-- PAUSE taken on a link. -/
def execPause (l : Link) (s : State) : Host.Outcome State Fault Refusal :=
  .next (takeRequest s l (ofControl .pause) fun r e =>
    e.checked l r .config readProgrammeControl .bare fun b => e.forProgramme l r b (e.servePause l r b.programme))

/-- STOP of a programme (R144, R150). -/
def Ev.serveStop (e : Ev) (l : Link) (r : Request) (n : Nat) (p : Programme) : Ev :=
  match p.state with
  | .stopped => e.controlled l r n p
  | .running | .paused => (e.upd fun s => s.updUseCounts p.tracks (· - 1)).controlled l r n p.stopped

/-- STOP taken on a link. -/
def execStop (l : Link) (s : State) : Host.Outcome State Fault Refusal :=
  .next (takeRequest s l (ofControl .stop) fun r e =>
    e.checked l r .config readProgrammeControl .bare fun b => e.forProgramme l r b (e.serveStop l r b.programme))

end Sys2Proof.Machine
end

