-- ==== Sys2Proof/Machine/CallRequests.lean ====
section
/-!
DEFINITION. The call requests of chapter 2 (CALL_ENTER, CALL_WITHDRAW, CALL_RELEASE) and the offer replies of chapter 3
(OFFER_REPLY with ACCEPT and with DECLINE).
-/
namespace Sys2Proof.Machine

open Sys2Proof

/-! ## CALL_ENTER (R44 to R47) -/

/-- The call record that an accepted CALL_ENTER makes (R47 steps 1 and 2). -/
def newCall (l : Link) (b : CallEnterBody) (p : Placement) (config : QueueConfig) (now : Tick) : Call :=
  let band := min Config.topBand b.priority
  { state := .waiting, owner := l, ref := b.ref, key := if b.key = 0 then none else some b.key, queue := p.queue,
    basePriority := band, band := band, arrival := now, entry := now, promotion := config.firstPromotion band now,
    redirects := p.redirects, exitPending := none, offer := none, agent := none, connectTick := none, treatment := none }

/-- Steps 1 to 7 of an accepted CALL_ENTER, in a free slot (R47). -/
def Ev.enterCall (e : Ev) (l : Link) (r : Request) (b : CallEnterBody) (slot : Nat) (p : Placement) : Ev :=
  let c := newCall l b p (e.st.queue p.queue).config e.st.tick
  let e := (e.upd fun s => s.setCall slot c).joinOrder slot c
  let e := (e.count p.queue .offered).countPassed p.passed
  let position := e.st.position slot c
  let e := e.reply l r .done (.entered slot p.queue position ((e.st.queue p.queue).ewt position))
  let start := e.startTreatment slot c .none none
  ((start.1.treatmentEvent slot).affinityOffer slot p.queue).queueAttempts p.queue

/-- Checks 3 to 6 of CALL_ENTER (R44). -/
def Ev.serveCallEnter (e : Ev) (l : Link) (r : Request) (b : CallEnterBody) : Ev :=
  match e.st.freeSlot with
  | none => e.reply l r .tableFull .bare
  | some slot =>
      if Config.queueCount ≤ b.queue then e.reply l r .noSuch .bare
      else if (e.st.queue b.queue).config.enabled = false then e.reply l r .queueDisabled .bare
      else
        match e.st.arrivalChain (Config.maxRedirects + 2) b.queue 0 [] none with
        | .queueClosed => e.reply l r .queueClosed .bare
        | .redirectLimit => e.reply l r .redirectLimit .bare
        | .placed p => e.enterCall l r b slot p

/-- CALL_ENTER taken on a link: refused NOT_PERMITTED on Link S before its body is examined (R44 check 1). -/
def execCallEnter (l : Link) (s : State) : Host.Outcome State Fault Refusal :=
  .next (takeRequest s l (ofKind 0x01) fun r e =>
    if l = .s then e.reply l r .notPermitted .bare
    else e.checked l r .calls readCallEnter .bare (e.serveCallEnter l r))

/-! ## CALL_WITHDRAW and CALL_RELEASE (R49, R50) -/

/-- The slot and owner checks of the call requests, and then the request's own rule (R49, R50). -/
def Ev.forCall (e : Ev) (l : Link) (r : Request) (slot : Nat) (serve : Call → Ev) : Ev :=
  match if slot < Config.callSlots then e.st.call? slot else none with
  | none => e.reply l r .noSuch .bare
  | some c => if c.owner = l then serve c else e.reply l r .notOwner .bare

/-- The cause of an agent's change by a call request of a link (R171). -/
def State.callCause (s : State) (agentSlot : Nat) (l : Link) : Cause :=
  if (s.agent agentSlot).home = some l then .request else .otherLink

/-- CALL_WITHDRAW for a call of the link (R49, R77, R81). -/
def Ev.serveWithdraw (e : Ev) (l : Link) (r : Request) (slot : Nat) (c : Call) : Ev :=
  match c.state with
  | .connected => e.reply l r .stateConflict .bare
  | .waiting => (e.reply l r .done .bare).removeCall slot c .abandoned
  | .offering =>
      let e := e.reply l r .done .bare
      match c.offer with
      | none => e.removeCall slot c .abandoned
      | some o =>
          ((e.withdrawFromCall slot c o (e.st.callCause o.agent l)).removeCall slot c .abandoned).agentAttempt o.agent

/-- CALL_WITHDRAW taken on a link. -/
def execCallWithdraw (l : Link) (s : State) : Host.Outcome State Fault Refusal :=
  .next (takeRequest s l (ofKind 0x02) fun r e =>
    e.checked l r .calls readSlot .bare fun slot => e.forCall l r slot (e.serveWithdraw l r slot))

/-- CALL_RELEASE for a call of the link: the slot is freed, and wrap-up starts for a present agent (R50, R84). -/
def Ev.serveRelease (e : Ev) (l : Link) (r : Request) (slot : Nat) (c : Call) : Ev :=
  match c.state with
  | .waiting | .offering => e.reply l r .stateConflict .bare
  | .connected =>
      let e := (e.reply l r .done .bare).upd fun s => s.freeCall slot
      match c.agent, c.connectTick with
      | some x, some t => (e.startWrap x c.queue t (e.st.callCause x l)).agentAttempt x
      | _, _ => e

/-- CALL_RELEASE taken on a link. -/
def execCallRelease (l : Link) (s : State) : Host.Outcome State Fault Refusal :=
  .next (takeRequest s l (ofKind 0x03) fun r e =>
    e.checked l r .calls readSlot .bare fun slot => e.forCall l r slot (e.serveRelease l r slot))

/-! ## OFFER_REPLY (R70 to R74) -/

/-- The offer that a token names on an agent record, when it is current: the agent is RESERVED and its offer's token equals
the token given (R70). The call's side of the offer comes with it (R55). -/
def State.currentOffer (s : State) (a : Agent) (token : Token) : Option (Nat × Call × CallOffer) :=
  match a.state, a.offer with
  | .reserved, some o =>
      if o.token = token then
        match s.call? o.call with
        | some c => c.offer.map fun co => (o.call, c, co)
        | none => none
      else none
  | _, _ => none

/-- An OFFER_REPLY whose token is not current: TOO_LATE with the last outcome when the token is the agent's last token, and
STALE otherwise (R70, R71). -/
def Ev.replyNotCurrent (e : Ev) (l : Link) (r : Request) (b : OfferReplyBody) (a : Agent) : Ev :=
  match a.lastOutcome with
  | some o =>
      if a.lastToken ≠ 0 ∧ a.lastToken = b.token then
        e.reply l r .tooLate (.late b.slot b.token a.state a.pending o)
      else e.reply l r .stale (.offerReply b.slot b.token a.state a.pending)
  | none => e.reply l r .stale (.offerReply b.slot b.token a.state a.pending)

/-- Checks 3 to 5 of an OFFER_REPLY, and then the answer to a current offer (R70). -/
def Ev.forOffer (e : Ev) (l : Link) (r : Request) (b : OfferReplyBody)
    (serve : Agent → Nat → Call → CallOffer → Ev) : Ev :=
  if b.slot < Config.agentSlots then
    let a := e.st.agent b.slot
    if a.state ≠ .loggedOut ∧ a.home ≠ some l then
      e.reply l r .notOwner (.offerReply b.slot b.token a.state a.pending)
    else
      match e.st.currentOffer a b.token with
      | some (slot, c, o) => serve a slot c o
      | none => e.replyNotCurrent l r b a
  else e.reply l r .noSuch .bare

/-- A current ACCEPT: the call is connected to the agent, CONNECT takes its reservation, the home-link reservation is
released, the answer is counted, and the caller key is pushed (R65, R72, R73). Its monitoring notices are called for in this
order: QUEUE_STATE, AGENT_STATE, STATS_WRAP.
DESIGN CHOICE: log entry 21. -/
def Ev.connect (e : Ev) (slot : Nat) (c : Call) (agentSlot : Nat) (a : Agent) (token : Token) : Ev :=
  let now := e.st.tick
  let e := e.leaveOrder slot c
  let e := e.upd fun s => s.updCall slot fun c =>
    { c with state := .connected, offer := none, agent := some agentSlot, connectTick := some now }
  let e := e.putAgent agentSlot
    { a with state := .busy, call := some slot, offer := none, miss := 0, lastOutcome := some .accepted } .request
  let e := e.useReservation c.owner (.connect slot c.ref token agentSlot a.id a.home c.queue)
  let e := e.releaseHome agentSlot
  let e := e.count c.queue .answered
  let e := if Tick.elapsed now c.entry ≤ (e.st.queue c.queue).config.serviceThreshold then
    e.count c.queue .answeredInService else e
  match c.key with
  | none => e
  | some key =>
      if (e.st.queue c.queue).config.affinity then
        e.upd fun s => { s with recent := pushRecent key agentSlot s.recent }
      else e

/-- OFFER_REPLY with ACCEPT taken on a link. -/
def execAccept (l : Link) (s : State) : Host.Outcome State Fault Refusal :=
  .next (takeRequest s l (ofAnswer true) fun r e =>
    e.checked l r .agents readOfferReply .bare fun b =>
      e.forOffer l r b fun a slot c o =>
        (e.reply l r .done (.accepted b.slot b.token .busy a.pending slot c.owner)).connect slot c b.slot a o.token)

/-- The failure of an offer by its agent: the offer ends, the reservations are released or used, the call is charged a
redirect, RONA is counted, the agent is settled, and the work of R81 follows (R74 steps 1 to 7, R75). -/
def Ev.failOffer (e : Ev) (slot : Nat) (c : Call) (o : CallOffer) (outcome : OfferOutcome) (cause : Cause) : Ev :=
  let e := e.upd fun s => s.endOffer slot o.agent outcome
  let e := if outcome = .expired then e.cancelOffer o slot .ringExpired else e.releaseHome o.agent
  let e := e.releaseReservation c.owner
  let e := e.chargeRedirect slot
  let e := e.count c.queue .rona
  let e := e.settleFailed o.agent cause
  e.afterOffer slot c.queue o.agent

/-- OFFER_REPLY with DECLINE taken on a link: the reply carries the agent's state after inference (R71, R74). -/
def execDecline (l : Link) (s : State) : Host.Outcome State Fault Refusal :=
  .next (takeRequest s l (ofAnswer false) fun r e =>
    e.checked l r .agents readOfferReply .bare fun b =>
      e.forOffer l r b fun a slot c o =>
        let settled := a.failedOffer e.st.tick
        (e.reply l r .done (.offerReply b.slot b.token settled.state settled.pending)).failOffer slot c o .declined
          .inference)

end Sys2Proof.Machine
end

