-- ==== Sys2Proof/Machine/ConfigRequests.lean ====
section
/-!
DEFINITION. The configuration requests: QUEUE_SET (chapter 2), the four bank requests (chapter 6), VOCABULARY_SET
(chapter 5), TREATMENT_SET (chapter 7), and PORT_SET and ENGINE_RESET (chapter 9).
-/
namespace Sys2Proof.Machine

open Sys2Proof

/-! ## QUEUE_SET (R32 to R34, R43, R98, R103) -/

/-- The numbers a QUEUE_SET masks that must be in range (R32). -/
def QueueSetBody.inRange (b : QueueSetBody) : Bool :=
  decide (b.queue < Config.queueCount) && decide (b.pattern.getD 0 < Config.patternCount)
    && decide (((b.overflowTarget.getD none).getD 0) < Config.queueCount)

/-- A queue's upper threshold after a QUEUE_SET (R32). -/
def QueueSetBody.newUpper (b : QueueSetBody) (c : QueueConfig) : Nat := (b.upper.map (clamp 1 2048)).getD c.upper

/-- A queue's lower threshold after a QUEUE_SET: at most the upper threshold stored by the same request, which also lowers
a lower threshold that the request does not mask (R32). -/
def QueueSetBody.newLower (b : QueueSetBody) (c : QueueConfig) : Nat :=
  match b.lower with
  | some n => min (clamp 1 2048 n) (b.newUpper c)
  | none => if b.upper.isSome then min c.lower (b.newUpper c) else c.lower

/-- A queue's overflow target after a QUEUE_SET: a target equal to the queue itself is stored as absent (R32). -/
def QueueSetBody.newTarget (b : QueueSetBody) (c : QueueConfig) : Option Nat :=
  match b.overflowTarget with
  | none => c.overflowTarget
  | some none => none
  | some (some t) => if t = b.queue then none else some t

/-- A queue's configuration after a QUEUE_SET: each masked field clamped and stored (R32). -/
def QueueConfig.set (c : QueueConfig) (b : QueueSetBody) : QueueConfig :=
  { enabled := b.enabled.getD c.enabled
    minProficiency := (b.minProficiency.map (clamp 1 15)).getD c.minProficiency
    ringTime := (b.ringTime.map (clamp 10 600)).getD c.ringTime
    wrapLimit := b.wrapLimit.getD c.wrapLimit
    maxExtension := b.maxExtension.getD c.maxExtension
    serviceThreshold := b.serviceThreshold.getD c.serviceThreshold
    agingInterval := b.agingInterval.getD c.agingInterval
    upper := b.newUpper c
    lower := b.newLower c
    overflowTarget := b.newTarget c
    maxWait := (b.maxWait.map fun o => o.map (clamp 1 65534)).getD c.maxWait
    pattern := b.pattern.getD c.pattern
    affinity := b.affinity.getD c.affinity
    shift := (b.shift.map (clamp 1 8)).getD c.shift
    initialHandle := (b.initialHandle.map fun n => max 1 n).getD c.initialHandle }

/-- A waiting call's promotion deadline after a change of its queue's aging interval; a call at band 7 or with an exit
pending is left as it is (R34). -/
def Call.reaged (c : Call) (old new : Nat) (now : Tick) : Call :=
  if Config.topBand ≤ c.band ∨ c.exitPending.isSome = true then c
  else if new = 0 then { c with promotion := none }
  else if old = 0 then { c with promotion := some (Tick.plus now new) }
  else c

/-- The effects of a QUEUE_SET on its queue in progress: the configuration, the staffing weight, the promotion deadlines,
the closed flag and the reseed (R33, R34, R43, R98, R103). -/
def Ev.applyQueueSet (e : Ev) (b : QueueSetBody) (old new : QueueConfig) : Ev :=
  let q := b.queue
  let e := e.upd fun s => s.setQueue q { s.queue q with config := new }
  let e := if b.minProficiency.isSome then e.upd fun s => s.recountWeight q else e
  let e := if b.agingInterval.isSome then
    e.upd fun s => (s.queue q).order.foldl (fun s slot =>
      s.updCall slot fun c => c.reaged old.agingInterval new.agingInterval s.tick) s else e
  let e := if b.upper.isSome || b.lower.isSome then (e.evalClosing q).evalOpening q else e
  if b.reseed then e.upd fun s => s.setQueue q { s.queue q with aht := new.initialHandle * 16 } else e

/-- QUEUE_SET after its body is read: the reply with the configuration as stored, the effects, and the attempts for the queue
when its minimum proficiency was lowered (R32, R33). The thresholds' hysteresis comes before the attempts.
DESIGN CHOICE: log entry 20. -/
def Ev.serveQueueSet (e : Ev) (l : Link) (r : Request) (b : QueueSetBody) : Ev :=
  if b.inRange then
    let old := (e.st.queue b.queue).config
    let new := old.set b
    let e := (e.reply l r .done (.queueConfig new)).applyQueueSet b old new
    if new.minProficiency < old.minProficiency then e.queueAttempts b.queue else e
  else e.reply l r .noSuch .bare

/-- QUEUE_SET taken on a link. -/
def execQueueSet (l : Link) (s : State) : Host.Outcome State Fault Refusal :=
  .next (takeRequest s l (ofKind 0x0C) fun r e => e.checked l r .config readQueueSet .bare (e.serveQueueSet l r))

/-! ## Banks (R119 to R122) -/

/-- The bank status that every bank request's reply carries (R119). -/
def State.bankStatus (s : State) : BankStatus :=
  { active := s.activeBank, opened := s.openBank, count0 := s.refs0, count1 := s.refs1 }

/-- The reply to a bank request, with the bank status after the request (R119). -/
def Ev.bankReply (e : Ev) (l : Link) (r : Request) (status : Status) : Ev :=
  e.reply l r status (.bank e.st.bankStatus none)

/-- The checks of a bank request up to its bank number, and then its own rule (R119). -/
def Ev.forBank (e : Ev) (l : Link) (r : Request) (serve : Bank → Ev) : Ev :=
  e.checked l r .config readByte (.bank e.st.bankStatus none) fun n =>
    match bank? n with
    | some b => serve b
    | none => e.bankReply l r .noSuch

/-- BANK_OPEN of a bank (R119). -/
def Ev.serveBankOpen (e : Ev) (l : Link) (r : Request) (b : Bank) : Ev :=
  if e.st.openBank = some b then e.bankReply l r .done
  else if e.st.openBank.isSome then e.bankReply l r .stateConflict
  else if e.st.activeBank = b ∨ 0 < e.st.refs b then e.bankReply l r .bankInUse
  else (e.upd fun s => { s with openBank := some b }).bankReply l r .done

/-- BANK_OPEN taken on a link. -/
def execBankOpen (l : Link) (s : State) : Host.Outcome State Fault Refusal :=
  .next (takeRequest s l (ofKind 0x0E) fun r e => e.forBank l r (e.serveBankOpen l r))

/-- BANK_CLOSE of a bank (R120). -/
def Ev.serveBankClose (e : Ev) (l : Link) (r : Request) (b : Bank) : Ev :=
  if e.st.openBank = some b then (e.upd fun s => { s with openBank := none }).bankReply l r .done
  else e.bankReply l r .bankNotOpen

/-- BANK_CLOSE taken on a link. -/
def execBankClose (l : Link) (s : State) : Host.Outcome State Fault Refusal :=
  .next (takeRequest s l (ofKind 0x10) fun r e => e.forBank l r (e.serveBankClose l r))

/-- BANK_ACTIVATE of a bank (R121). -/
def Ev.serveBankActivate (e : Ev) (l : Link) (r : Request) (b : Bank) : Ev :=
  if e.st.openBank = some b then e.bankReply l r .stateConflict
  else (e.upd fun s => { s with activeBank := b }).bankReply l r .done

/-- BANK_ACTIVATE taken on a link. -/
def execBankActivate (l : Link) (s : State) : Host.Outcome State Fault Refusal :=
  .next (takeRequest s l (ofKind 0x11) fun r e => e.forBank l r (e.serveBankActivate l r))

/-- PATTERN_WRITE after its body is read (R122). -/
def Ev.servePatternWrite (e : Ev) (l : Link) (r : Request) (b : PatternWriteBody) : Ev :=
  match bank? b.bank with
  | none => e.bankReply l r .noSuch
  | some bank =>
      if Config.patternCount ≤ b.pattern then e.bankReply l r .noSuch
      else if e.st.openBank = some bank then
        let e := e.upd fun s => s.setPattern bank b.pattern b.steps
        e.reply l r .done (.bank e.st.bankStatus (some b.steps.length))
      else e.bankReply l r .bankNotOpen

/-- PATTERN_WRITE taken on a link. -/
def execPatternWrite (l : Link) (s : State) : Host.Outcome State Fault Refusal :=
  .next (takeRequest s l (ofKind 0x0F) fun r e =>
    e.checked l r .config readPatternWrite (.bank e.st.bankStatus none) (e.servePatternWrite l r))

/-! ## VOCABULARY_SET and TREATMENT_SET (R110, R146) -/

/-- Every segment a vocabulary marks present is in range, and so is its number base (R110). -/
def Vocabulary.inRange (v : Vocabulary) : Bool :=
  decide (v.base ≤ Config.maxNumberBase)
    && [v.posBefore, v.posAfter, v.waitBefore, v.waitAfter, v.waitUnknown].all fun o =>
      decide (o.getD 0 < Config.segmentCount)

/-- VOCABULARY_SET after its body is read: the whole record is replaced (R110). -/
def Ev.serveVocabulary (e : Ev) (l : Link) (r : Request) (v : Vocabulary) : Ev :=
  if v.inRange then (e.upd fun s => { s with vocabulary := v }).reply l r .done (.vocabulary v)
  else e.reply l r .noSuch .bare

/-- VOCABULARY_SET taken on a link. -/
def execVocabularySet (l : Link) (s : State) : Host.Outcome State Fault Refusal :=
  .next (takeRequest s l (ofKind 0x16) fun r e => e.checked l r .config readVocabulary .bare (e.serveVocabulary l r))

/-- TREATMENT_SET after its body is read: the silence byte and the defer limit are replaced (R146). -/
def Ev.serveTreatmentSet (e : Ev) (l : Link) (r : Request) (b : TreatmentSetBody) : Ev :=
  (e.upd fun s => { s with silence := b.silence, deferLimit := b.deferLimit }).reply l r .done
    (.treatment b.silence b.deferLimit)

/-- TREATMENT_SET taken on a link. -/
def execTreatmentSet (l : Link) (s : State) : Host.Outcome State Fault Refusal :=
  .next (takeRequest s l (ofKind 0x17) fun r e =>
    e.checked l r .config readTreatmentSet .bare (e.serveTreatmentSet l r))

/-! ## PORT_SET (R181) -/

/-- A link's permission set and notice enables replaced (R181). -/
def State.setPort (s : State) (b : PortSetBody) : State :=
  s.setLink b.link { s.link b.link with permissions := b.permissions, enables := b.enables }

/-- Some link holds CONFIG, DOWN links included (R181). -/
def State.someConfig (s : State) : Bool := allLinks.any fun l => (s.link l).permissions.config

/-- PORT_SET after its body is read: refused when no link would hold CONFIG after it (R181). -/
def Ev.servePortSet (e : Ev) (l : Link) (r : Request) (b : PortSetBody) : Ev :=
  if (e.st.setPort b).someConfig then
    (e.upd fun s => s.setPort b).reply l r .done (.port b.permissions b.enables)
  else e.reply l r .stateConflict .bare

/-- PORT_SET taken on a link. -/
def execPortSet (l : Link) (s : State) : Host.Outcome State Fault Refusal :=
  .next (takeRequest s l (ofKind 0x18) fun r e => e.checked l r .config readPortSet .bare (e.servePortSet l r))

/-! ## ENGINE_RESET (R187) -/

/-- A link record at an engine reset: its notices are discarded and its replies kept, and nothing is reserved or held
(R174, R187). A frame that its receiver has begun goes on.
DESIGN CHOICE: log entry 23. -/
def LinkRec.engineReset (r : LinkRec) : LinkRec :=
  { r with outbound := r.outbound.filter fun x => !x.isNotice, reserved := 0, exitOrder := [], listenOrder := [] }

/-- A highway at an engine reset: every channel FREE with no drain, and an empty deferral list (R162). -/
def HighwayRec.engineReset (r : HighwayRec) : HighwayRec := { r with channels := [], deferral := [] }

/-- The queue records at an engine reset: the configurations kept, the dynamic parts at their reset values (R35, R54). -/
def resetQueues (t : Table Queue) : Table Queue :=
  (t.map fun e => (e.1, e.2.config.emptyQueue)).filter fun e => decide (e.2 ≠ Queue.powerOn)

/-- The state after an engine reset, before its reply and notices (R187 steps 1 to 3). -/
def State.engineReset (s : State) : State :=
  { s with
    linkA := s.linkA.engineReset, linkB := s.linkB.engineReset, linkS := s.linkS.engineReset
    agents := [], available := [], calls := [], queues := resetQueues s.queues, recent := [], refs0 := 0, refs1 := 0
    useCounts := s.programmeUseCounts
    highwayA := s.highwayA.engineReset, highwayB := s.highwayB.engineReset }

/-- ENGINE_RESTARTED on a link that is UP, where the reset has just discarded every notice (R178, R187 step 4). -/
def Ev.announceRestart (e : Ev) (l : Link) : Ev :=
  e.queueNotice l (.engineRestarted e.st.tick)

/-- ENGINE_RESET after its checks (R187). -/
def Ev.serveEngineReset (e : Ev) (l : Link) (r : Request) : Ev :=
  let e := (e.upd fun s => s.engineReset).reply l r .done (.engineReset e.st.tick)
  allLinks.foldl Ev.announceRestart e

/-- ENGINE_RESET taken on a link. -/
def execEngineReset (l : Link) (s : State) : Host.Outcome State Fault Refusal :=
  .next (takeRequest s l (ofKind 0x19) fun r e => e.checked l r .config readEmpty .bare fun _ => e.serveEngineReset l r)

end Sys2Proof.Machine
end

