-- ==== Sys2Proof/Machine/LinkEvents.lean ====
section
/-!
DEFINITION. The events of the links (chapter 9): requests of an unknown kind, frames received, transmissions completed, the
loss and the regain of a link, power-on reset, and one unit at a time of the work that waits for notice space.
An event whose condition does not hold cannot arise and changes nothing (notes/assumptions/2.md).
-/
namespace Sys2Proof.Machine

open Sys2Proof

/-- A request of an unknown kind taken on a link: refused MALFORMED with reply kind FFh, and a fault (R175, R177, R188). -/
def execUnknownKindRequest (l : Link) (s : State) : Host.Outcome State Fault Refusal :=
  .next (takeRequest s l ofUnknownKind fun r e =>
    (e.replyWithKind l r 0xFF .malformed .bare).raiseFault l .malformed (some (r.tag, r.kind)))

/-- Bytes received on a link that is UP, after those its receiver holds (R175). -/
def execFrameReceived (l : Link) (bytes : List Byte) (s : State) : Host.Outcome State Fault Refusal :=
  .next (if (s.link l).up then
    let buffer := (s.link l).receiving ++ bytes
    (Ev.receive l buffer.length buffer s.event).finish
  else s)

/-- The transmission of a link's head outbound entry completes: the entry is removed, and a freed notice entry sets off the
work that waits for space (R178, R180). -/
def execTransmissionComplete (l : Link) (s : State) : Host.Outcome State Fault Refusal :=
  .next (match (s.link l).up, (s.link l).outbound with
    | true, x :: rest =>
        let e := s.event.updLink l fun r => { r with outbound := rest }
        (if x.isNotice then e.markFreed l else e).finish
    | _, _ => s)

/-- A link that is UP goes DOWN (R182). The loss of Link S empties its queues only. -/
def execLinkDown (l : Link) (s : State) : Host.Outcome State Fault Refusal :=
  .next (if (s.link l).up then
    let e := s.event.updLink l LinkRec.lost
    (match l.highway? with
      | some h => e.loseSwitchingLink l h
      | none => e).finish
  else s)

/-- A link record of a link that comes UP: empty queues and no reservations; the rest as it was (R183). -/
def LinkRec.regained (r : LinkRec) : LinkRec :=
  { r with up := true, receiving := [], inbound := [], outbound := [], reserved := 0, exitOrder := [], listenOrder := [] }

/-- A link that is DOWN comes UP, and a switching link's highway lends its channels anew (R161, R183). -/
def execLinkUp (l : Link) (s : State) : Host.Outcome State Fault Refusal :=
  .next (if (s.link l).up then s
  else
    let s := s.setLink l (s.link l).regained
    match l.highway? with
    | some h => s.freeHighway h
    | none => s)

/-- Power-on reset: every block in its power-on state (R186). The commands that wait outside the part are not the part's.
DESIGN CHOICE: log entry 17. -/
def execPowerOnReset (s : State) : Host.Outcome State Fault Refusal :=
  .next { State.reset with pending := s.pending }

/-! ## One unit of the work that waits for notice space (R180) -/

/-- The link's oldest pending exit completes, when a notice entry is free (R52, R180 stage 1).
DESIGN CHOICE: log entry 5. -/
def execPendingExitCompletion (l : Link) (s : State) : Host.Outcome State Fault Refusal :=
  .next (match (s.link l).exitOrder with
    | slot :: _ => if 0 < s.freeNotices l then (s.event.completeExit l slot).finish else s
    | [] => s)

/-- The call at the head of the link's held LISTENs with its record, when stage 2 of R180 has its turn: no exit is pending on
the link and a notice entry is free. -/
def State.nextHeld (s : State) (l : Link) : Option (Nat × HeldListen) :=
  match (s.link l).exitOrder, (s.link l).listenOrder with
  | [], slot :: _ =>
      if 0 < s.freeNotices l then
        match s.call? slot with
        | some c => (c.treatment.bind (s.heldListen slot c)).map fun k => (slot, k)
        | none => none
      else none
  | _, _ => none

/-- The link's oldest held LISTEN is queued, when it is a source change (R129, R180 stage 2).
DESIGN CHOICE: log entry 5. -/
def execHeldSourceQueued (l : Link) (s : State) : Host.Outcome State Fault Refusal :=
  .next (match s.nextHeld l with
    | some (slot, .sourceChange _) => (s.event.takeHeldListen l slot).finish
    | _ => s)

/-- The link's oldest held LISTEN is queued, when it is a return (R159, R180 stage 2).
DESIGN CHOICE: log entry 5. -/
def execHeldReturnQueued (l : Link) (s : State) : Host.Outcome State Fault Refusal :=
  .next (match s.nextHeld l with
    | some (slot, .phraseReturn _ _) => (s.event.takeHeldListen l slot).finish
    | _ => s)

/-- No work of stages 1 and 2 of R180 waits on the link. -/
def State.noEarlierWork (s : State) (l : Link) : Bool :=
  decide ((s.link l).exitOrder = []) && decide ((s.link l).listenOrder = [])

/-- The head of a highway's deferral list is granted a channel, when one is FREE and a notice entry is free
(R155, R180 stage 3).
DESIGN CHOICE: log entry 5. -/
def execDeferralGrant (h : Highway) (s : State) : Host.Outcome State Fault Refusal :=
  .next (if s.noEarlierWork h.link then
    match s.event.grantHead h with
    | some e => e.finish
    | none => s
  else s)

/-- The distribution attempts that free notice space on a switching link calls for (R60, R180 stage 4).
DESIGN CHOICE: log entry 5. -/
def execFreedSpaceAttempts (l : Link) (s : State) : Host.Outcome State Fault Refusal :=
  .next (match l.highway? with
    | some h => if s.noEarlierWork l ∧ (s.event.grantHead h).isNone = true then (s.event.attemptStage l).finish else s
    | none => s)

end Sys2Proof.Machine
end

