-- ==== Sys2Proof/Machine/ReadRequests.lean ====
section
/-!
DEFINITION. The read requests of chapter 8: STATS_READ, STATS_CLEAR, QUEUE_READ, CALL_READ, AGENT_READ and PORT_READ.
-/
namespace Sys2Proof.Machine

open Sys2Proof

/-! ## STATS_READ and STATS_CLEAR (R166, R167) -/

/-- The statistics of a queue as a reply carries them (R166). -/
def State.statsResult (s : State) (q : Nat) : Result := .stats q s.tick (s.queue q).stats

/-- STATS_READ after its body is read (R166). -/
def Ev.serveStatsRead (e : Ev) (l : Link) (r : Request) (q : Nat) : Ev :=
  if q < Config.queueCount then e.reply l r .done (e.st.statsResult q) else e.reply l r .noSuch .bare

/-- STATS_READ taken on a link. -/
def execStatsRead (l : Link) (s : State) : Host.Outcome State Fault Refusal :=
  .next (takeRequest s l (ofKind 0x1A) fun r e => e.checked l r .stats readByte .bare (e.serveStatsRead l r))

/-- A counter named in the mask of a STATS_CLEAR (R167 steps 2 and 3). -/
def Counter.cleared (c : Counter) (keepFlags : Bool) : Counter := { value := 0, wrapped := keepFlags && c.wrapped }

/-- Statistics after a STATS_CLEAR, for a queue with a waiting count (R167). -/
def Statistics.cleared (t : Statistics) (b : StatsClearBody) (waiting : Nat) : Statistics :=
  let one (bit : Nat) (c : Counter) : Counter := if b.mask.testBit bit then c.cleared b.keepFlags else c
  { offered := one 0 t.offered
    answered := one 1 t.answered
    answeredInService := one 2 t.answeredInService
    abandoned := one 3 t.abandoned
    overflowedOut := one 4 t.overflowedOut
    rona := one 5 t.rona
    exited := one 6 t.exited
    announceSkipped := one 7 t.announceSkipped
    peak := if b.mask.testBit 8 then waiting else t.peak }

/-- STATS_CLEAR after its body is read: the reply carries the values before the clear (R167), with the queue and the tick count,
as a STATS_READ carries them.
DESIGN CHOICE: log entry 25. -/
def Ev.serveStatsClear (e : Ev) (l : Link) (r : Request) (b : StatsClearBody) : Ev :=
  if b.queue < Config.queueCount then
    (e.reply l r .done (e.st.statsResult b.queue)).upd fun s =>
      let q := s.queue b.queue
      s.setQueue b.queue { q with stats := q.stats.cleared b q.order.length }
  else e.reply l r .noSuch .bare

/-- STATS_CLEAR taken on a link. -/
def execStatsClear (l : Link) (s : State) : Host.Outcome State Fault Refusal :=
  .next (takeRequest s l (ofKind 0x1B) fun r e => e.checked l r .stats readStatsClear .bare (e.serveStatsClear l r))

/-! ## QUEUE_READ and CALL_READ (R168) -/

/-- What QUEUE_READ reports of a queue (R105, R107, R168). -/
def Queue.readResult (r : Queue) : Result :=
  .queue r.config r.order.length r.closed r.aht r.weight r.nextEwt

/-- QUEUE_READ after its body is read (R168). -/
def Ev.serveQueueRead (e : Ev) (l : Link) (r : Request) (q : Nat) : Ev :=
  if q < Config.queueCount then e.reply l r .done (e.st.queue q).readResult else e.reply l r .noSuch .bare

/-- QUEUE_READ taken on a link. -/
def execQueueRead (l : Link) (s : State) : Host.Outcome State Fault Refusal :=
  .next (takeRequest s l (ofKind 0x1C) fun r e => e.checked l r .stats readByte .bare (e.serveQueueRead l r))

/-- What CALL_READ reports of a call: the record, its deferral deadline, and the channel it holds (R168). -/
def State.callResult (s : State) (slot : Nat) (c : Call) : Result :=
  match c.owner.highway? with
  | none => .call c none none
  | some h =>
      .call c (((s.highway h).deferral.find? fun d => d.call == slot).map (·.deadline))
        ((s.heldTimeslot h slot).map fun timeslot => (h, timeslot, (s.channel h timeslot).state))

/-- CALL_READ after its body is read (R168). -/
def Ev.serveCallRead (e : Ev) (l : Link) (r : Request) (slot : Nat) : Ev :=
  match if slot < Config.callSlots then e.st.call? slot else none with
  | some c => e.reply l r .done (e.st.callResult slot c)
  | none => e.reply l r .noSuch .bare

/-- CALL_READ taken on a link. -/
def execCallRead (l : Link) (s : State) : Host.Outcome State Fault Refusal :=
  .next (takeRequest s l (ofKind 0x1E) fun r e => e.checked l r .stats readSlot .bare (e.serveCallRead l r))

/-! ## AGENT_READ (R169) -/

/-- What AGENT_READ reports of an agent: the record, and its place in the available list while it is AVAILABLE (R169). -/
def State.agentResult (s : State) (slot : Nat) : Result :=
  let a := s.agent slot
  .agentRecord a (if a.state = .available then some (s.available.idxOf slot + 1) else none)

/-- AGENT_READ after its body is read: the clear option zeroes the accumulators after they are reported (R96, R169). -/
def Ev.serveAgentRead (e : Ev) (l : Link) (r : Request) (b : AgentReadBody) : Ev :=
  if b.slot < Config.agentSlots then
    let e := e.reply l r .done (e.st.agentResult b.slot)
    if b.clear then e.upd fun s => s.setAgent b.slot (s.agent b.slot).clearAccumulators else e
  else e.reply l r .noSuch .bare

/-- AGENT_READ taken on a link. -/
def execAgentRead (l : Link) (s : State) : Host.Outcome State Fault Refusal :=
  .next (takeRequest s l (ofKind 0x1D) fun r e => e.checked l r .stats readAgentRead .bare (e.serveAgentRead l r))

/-! ## PORT_READ (R169) -/

/-- The channel counts of a highway (R151, R169). -/
def State.channelCounts (s : State) (h : Highway) : ChannelCounts :=
  { free := s.channelsIn h .free, bound := s.channelsIn h .bound, playing := s.channelsIn h .playing,
    draining := s.channelsIn h .draining, deferred := (s.highway h).deferral.length }

/-- What PORT_READ reports of a link (R169). -/
def State.portResult (s : State) (l : Link) : Result :=
  let k := s.link l
  .portRecord k.up k.permissions k.enables k.faultCount k.dropped k.noticeCount k.reserved k.freeNotices
    (l.highway?.map s.channelCounts)

/-- PORT_READ after its body is read: the named link's notices-dropped flag is cleared after it is reported (R169). -/
def Ev.servePortRead (e : Ev) (l : Link) (r : Request) (named : Link) : Ev :=
  (e.reply l r .done (e.st.portResult named)).updLink named fun k => { k with dropped := false }

/-- PORT_READ taken on a link. -/
def execPortRead (l : Link) (s : State) : Host.Outcome State Fault Refusal :=
  .next (takeRequest s l (ofKind 0x1F) fun r e => e.checked l r .stats readPortRead .bare (e.servePortRead l r))

end Sys2Proof.Machine
end

