-- ==== Sys2Proof/Machine/TimedEvents.lean ====
section
/-!
DEFINITION. The events of the timebase: the six deadlines measured in ticks, and the tick, which takes those still due before it
raises the count (R184); and the events of the playout clock: the block boundary, the phrase end, and the frame, which takes those
still due before it places its bytes (R149, R157, R158, R185). A deadline that has not been reached, or that has gone with its
record, is not reached, and its event changes nothing (notes/assumptions/2.md).
-/
namespace Sys2Proof.Machine

open Sys2Proof

/-! ## Deadlines (R184) -/

/-- The ring deadline of a call's offer, when it is reached: the offer expires (R75). -/
def State.takeRingExpiry (s : State) (slot : Nat) : State :=
  match s.call? slot with
  | none => s
  | some c =>
      match c.offer with
      | none => s
      | some o => if Tick.reached s.tick o.deadline then (s.event.failOffer slot c o .expired .expiry).finish else s

/-- A call's promotion deadline, when it is reached (R41). -/
def State.takePromotionDeadline (s : State) (slot : Nat) : State :=
  match s.call? slot with
  | none => s
  | some c =>
      match c.promotion with
      | none => s
      | some deadline => if Tick.reached s.tick deadline then s.promote slot c deadline else s

/-- The deadline of a MUSIC or SILENCE step, when it is reached: the next step is run (R128). -/
def State.takeStepDeadline (s : State) (slot : Nat) : State :=
  match (s.call? slot).bind (·.treatment) with
  | none => s
  | some t =>
      match t.deadline with
      | none => s
      | some deadline =>
          if Tick.reached s.tick deadline then
            ((s.event.upd fun s => s.updTreatment slot fun t => { t with deadline := none }).completePhrase slot).finish
          else s

/-- A call's deferral deadline, when it is reached: it leaves the list, ANNOUNCE_SKIPPED is counted, and its step is skipped
(R156). -/
def State.takeDeferralExpiry (s : State) (slot : Nat) : State :=
  match s.call? slot with
  | none => s
  | some c =>
      match c.owner.highway? with
      | none => s
      | some h =>
          match (s.highway h).deferral.find? fun d => d.call == slot with
          | none => s
          | some d =>
              if Tick.reached s.tick d.deadline then
                (((s.event.upd fun s => s.leaveDeferral h slot).count c.queue .announceSkipped).completePhrase slot).finish
              else s

/-- The deadline of an agent's wrap record, when it is reached: the wrap-up ends with a sample (R91, R94). -/
def State.takeWrapDeadline (s : State) (slot : Nat) : State :=
  match (s.agent slot).wrap with
  | none => s
  | some w => if Tick.reached s.tick w.deadline then ((s.event.endWrap slot w .expiry).agentAttempt slot).finish else s

/-- An agent record after its penalty deadline is reached (R27). -/
def Agent.penaltyOver (a : Agent) (now : Tick) : Agent :=
  { a.madeAvailable now with miss := 0, penaltyDeadline := none }

/-- An agent's penalty deadline, when it is reached: the agent becomes AVAILABLE at the tail of the available list (R27). -/
def State.takePenaltyExpiry (s : State) (slot : Nat) : State :=
  match (s.agent slot).penaltyDeadline with
  | none => s
  | some deadline =>
      if Tick.reached s.tick deadline then
        ((s.event.putAgentAtTail slot ((s.agent slot).penaltyOver s.tick) .expiry).agentAttempt slot).finish
      else s

/-- The ring deadline of a call's offer is reached (R75). -/
def execRingExpiry (slot : Nat) (s : State) : Host.Outcome State Fault Refusal := .next (s.takeRingExpiry slot)

/-- A call's promotion deadline is reached (R41). -/
def execPromotionDeadline (slot : Nat) (s : State) : Host.Outcome State Fault Refusal := .next (s.takePromotionDeadline slot)

/-- The deadline of a MUSIC or SILENCE step is reached (R128). -/
def execStepDeadline (slot : Nat) (s : State) : Host.Outcome State Fault Refusal := .next (s.takeStepDeadline slot)

/-- A call's deferral deadline is reached (R156). -/
def execDeferralExpiry (slot : Nat) (s : State) : Host.Outcome State Fault Refusal := .next (s.takeDeferralExpiry slot)

/-- The deadline of an agent's wrap record is reached (R91). -/
def execWrapDeadline (slot : Nat) (s : State) : Host.Outcome State Fault Refusal := .next (s.takeWrapDeadline slot)

/-- An agent's penalty deadline is reached (R27). -/
def execPenaltyExpiry (slot : Nat) (s : State) : Host.Outcome State Fault Refusal := .next (s.takePenaltyExpiry slot)

/-! ## The tick (R184) -/

/-- Every deadline that is due and whose expiry has not been taken: each expiry is taken, one whole event after another, in the
tick at which its deadline is reached (R184). The order among them is that of R184's table, and of the slots.
DESIGN CHOICE: log entry 26. -/
def State.takeExpiries (s : State) : State :=
  let calls := s.calls.map (·.1)
  let agents := s.agents.map (·.1)
  let s := calls.foldl State.takeRingExpiry s
  let s := calls.foldl State.takePromotionDeadline s
  let s := calls.foldl State.takeStepDeadline s
  let s := calls.foldl State.takeDeferralExpiry s
  let s := agents.foldl State.takeWrapDeadline s
  agents.foldl State.takePenaltyExpiry s

/-- A tick of the reference clock: the tick that ends takes the expiries still due in it, and the count rises by 1 (R184).
DESIGN CHOICE: log entry 26. -/
def execTick (s : State) : Host.Outcome State Fault Refusal :=
  let s := s.takeExpiries
  .next { s with tick := s.tick + 1 }

/-! ## The playout clock (R149, R157, R158, R185) -/

/-- A block boundary that the playout clock has marked: channels first, and then the grants of Highway A and of Highway B
(R157, R185). -/
def State.takeBlockBoundary (s : State) : State :=
  if s.boundaryDue then
    let e := s.event.upd fun s => ({ s with boundaryDue := false }.boundaryChannels .a).boundaryChannels .b
    ((e.grants .a).grants .b).finish
  else s

/-- The phrase end of a PLAYING channel whose last byte has been placed (R158). -/
def State.takePhraseEnd (s : State) (h : Highway) (timeslot : Nat) : State :=
  let channel := s.channel h timeslot
  match channel.state, channel.holder with
  | .playing, some slot =>
      if channel.phraseDone then
        match s.call? slot with
        | none => s
        | some c =>
            match c.treatment with
            | none => s
            | some t => (s.event.endPhrase h timeslot slot c t).finish
      else s
  | _, _ => s

/-- A block boundary (R157). -/
def execBlockBoundary (s : State) : Host.Outcome State Fault Refusal := .next s.takeBlockBoundary

/-- The phrase-end event of a channel (R158). -/
def execPhraseEnd (h : Highway) (timeslot : Nat) (s : State) : Host.Outcome State Fault Refusal :=
  .next (s.takePhraseEnd h timeslot)

/-- The events of the last frame that have not been taken: each block boundary is an event, which comes after its 256th frame
(R185), and a phrase end comes when the last byte has been placed (R158). The boundary is taken first, and then the phrase ends of
Highway A and of Highway B.
DESIGN CHOICE: log entry 26. -/
def State.takePlayoutEvents (s : State) : State :=
  let timeslots (h : Highway) : List Nat := (s.highway h).channels.map (·.1)
  let u := s.takeBlockBoundary
  let u := (timeslots .a).foldl (fun u ts => u.takePhraseEnd .a ts) u
  (timeslots .b).foldl (fun u ts => u.takePhraseEnd .b ts) u

/-- One frame of the playout clock, after the events still due from the frame before it (R149, R158, R185).
DESIGN CHOICE: log entry 26. -/
def execPlayoutFrame (s : State) : Host.Outcome State Fault Refusal := .next s.takePlayoutEvents.frame

end Sys2Proof.Machine
end

