-- ==== Sys2Proof/Machine/Dispatch.lean ====
section
/-!
DEFINITION. The effect of each command on everything but the queue of waiting commands: one arm a command, each a direct
call of its meaning.
-/
namespace Sys2Proof.Machine

open Sys2Proof

/-- A command carried out. -/
def exec (i : Instr) (s : State) : Host.Outcome State Fault Refusal :=
  match i with
  | .callEnter l => Sys2Proof.Machine.execCallEnter l s
  | .callWithdraw l => Sys2Proof.Machine.execCallWithdraw l s
  | .callRelease l => Sys2Proof.Machine.execCallRelease l s
  | .agentLogin l => Sys2Proof.Machine.execAgentLogin l s
  | .agentReady l => Sys2Proof.Machine.execAgentReady l s
  | .agentNotReady l => Sys2Proof.Machine.execAgentNotReady l s
  | .agentLogout l => Sys2Proof.Machine.execAgentLogout l s
  | .agentUpdate l => Sys2Proof.Machine.execAgentUpdate l s
  | .forceLogout l => Sys2Proof.Machine.execForceLogout l s
  | .forceNotReady l => Sys2Proof.Machine.execForceNotReady l s
  | .forceLogoutNow l => Sys2Proof.Machine.execForceLogoutNow l s
  | .wrapEnd l => Sys2Proof.Machine.execWrapEnd l s
  | .wrapExtend l => Sys2Proof.Machine.execWrapExtend l s
  | .accept l => Sys2Proof.Machine.execAccept l s
  | .decline l => Sys2Proof.Machine.execDecline l s
  | .queueSet l => Sys2Proof.Machine.execQueueSet l s
  | .bankOpen l => Sys2Proof.Machine.execBankOpen l s
  | .bankClose l => Sys2Proof.Machine.execBankClose l s
  | .bankActivate l => Sys2Proof.Machine.execBankActivate l s
  | .patternWrite l => Sys2Proof.Machine.execPatternWrite l s
  | .segmentSet l => Sys2Proof.Machine.execSegmentSet l s
  | .sampleWrite l => Sys2Proof.Machine.execSampleWrite l s
  | .programmeSet l => Sys2Proof.Machine.execProgrammeSet l s
  | .run l => Sys2Proof.Machine.execRun l s
  | .pause l => Sys2Proof.Machine.execPause l s
  | .stop l => Sys2Proof.Machine.execStop l s
  | .vocabularySet l => Sys2Proof.Machine.execVocabularySet l s
  | .treatmentSet l => Sys2Proof.Machine.execTreatmentSet l s
  | .portSet l => Sys2Proof.Machine.execPortSet l s
  | .engineReset l => Sys2Proof.Machine.execEngineReset l s
  | .statsRead l => Sys2Proof.Machine.execStatsRead l s
  | .statsClear l => Sys2Proof.Machine.execStatsClear l s
  | .queueRead l => Sys2Proof.Machine.execQueueRead l s
  | .callRead l => Sys2Proof.Machine.execCallRead l s
  | .agentRead l => Sys2Proof.Machine.execAgentRead l s
  | .portRead l => Sys2Proof.Machine.execPortRead l s
  | .unknownKindRequest l => Sys2Proof.Machine.execUnknownKindRequest l s
  | .frameReceived l bytes => Sys2Proof.Machine.execFrameReceived l bytes s
  | .transmissionComplete l => Sys2Proof.Machine.execTransmissionComplete l s
  | .linkDown l => Sys2Proof.Machine.execLinkDown l s
  | .linkUp l => Sys2Proof.Machine.execLinkUp l s
  | .powerOnReset => Sys2Proof.Machine.execPowerOnReset s
  | .ringExpiry call => Sys2Proof.Machine.execRingExpiry call s
  | .promotionDeadline call => Sys2Proof.Machine.execPromotionDeadline call s
  | .stepDeadline call => Sys2Proof.Machine.execStepDeadline call s
  | .deferralExpiry call => Sys2Proof.Machine.execDeferralExpiry call s
  | .wrapDeadline agent => Sys2Proof.Machine.execWrapDeadline agent s
  | .penaltyExpiry agent => Sys2Proof.Machine.execPenaltyExpiry agent s
  | .blockBoundary => Sys2Proof.Machine.execBlockBoundary s
  | .phraseEnd h timeslot => Sys2Proof.Machine.execPhraseEnd h timeslot s
  | .pendingExitCompletion l => Sys2Proof.Machine.execPendingExitCompletion l s
  | .heldSourceQueued l => Sys2Proof.Machine.execHeldSourceQueued l s
  | .heldReturnQueued l => Sys2Proof.Machine.execHeldReturnQueued l s
  | .deferralGrant h => Sys2Proof.Machine.execDeferralGrant h s
  | .freedSpaceAttempts l => Sys2Proof.Machine.execFreedSpaceAttempts l s
  | .tick => Sys2Proof.Machine.execTick s
  | .playoutFrame => Sys2Proof.Machine.execPlayoutFrame s

end Sys2Proof.Machine
end

