-- ==== Sys2Proof/Machine/Step.lean ====
section
/-!
DEFINITION. A step of the part: the command at the front of the queue of waiting commands is carried out whole; with no
command waiting the part idles (notes/assumptions/1.md).
-/
namespace Sys2Proof.Machine

open Sys2Proof

/-- One step: the command at the front of the queue, on the state with the rest of the queue. -/
def step (s : State) : Host.Outcome State Fault Refusal :=
  match s.pending with
  | c :: rest => exec c { s with pending := rest }
  | [] => .next s

/-- The state with the command that a word spells put at the front of its queue; the state itself where the word spells
none, as no word of this part's table does. -/
def State.withFetchWord (s : State) (nbits w : Nat) : State :=
  match decodeTableWord nbits w with
  | some c => { s with pending := c :: s.pending }
  | none => s

end Sys2Proof.Machine
end

