-- ==== Sys2Proof/Safety.lean ====
section
/-!
DEFINITION. What the manual promises of every state the part passes through, in the terms the statements use, and the part
of the state that only its own requests, the clocks and power-on reset change.
-/
namespace Sys2Proof.Machine

open Sys2Proof

/-- What supervision configures and the clocks count: nothing that calls, agents, offers or treatments do changes it. -/
structure Settings where
  pending : List Instr
  tick : Tick
  frameCount : Nat
  boundaryDue : Bool
  vocabulary : Vocabulary
  patterns0 : Table (List PatternStep)
  patterns1 : Table (List PatternStep)
  activeBank : Bank
  openBank : Option Bank
  store : List Host.Cell
  segments : Table Segment
  programmes : Table Programme
  silence : Byte
  deferLimit : Nat
  deriving DecidableEq, Repr

/-- The settings of a state. -/
def State.settings (s : State) : Settings :=
  { pending := s.pending, tick := s.tick, frameCount := s.frameCount, boundaryDue := s.boundaryDue,
    vocabulary := s.vocabulary, patterns0 := s.patterns0, patterns1 := s.patterns1, activeBank := s.activeBank,
    openBank := s.openBank, store := s.store, segments := s.segments, programmes := s.programmes, silence := s.silence,
    deferLimit := s.deferLimit }

/-- The sample store is in canonical form (R141). -/
def State.StoreCanonical (s : State) : Prop := Memory.wf s.store = true

/-- An agent is in the available list exactly when it is AVAILABLE, and the list holds no agent twice (R6). -/
def State.AvailableExact (s : State) : Prop :=
  (∀ slot, slot ∈ s.available ↔ (s.agent slot).state = .available) ∧ s.available.Nodup

/-- An open bank is not active and has reference count 0 (R118). -/
def State.OpenBankIdle (s : State) : Prop :=
  ∀ b, s.openBank = some b → s.activeBank ≠ b ∧ s.refs b = 0

/-- The recent service list holds at most 256 entries, no caller key twice, and only agents that are not LOGGED_OUT
(R64). -/
def State.RecentSound (s : State) : Prop :=
  s.recent.length ≤ Config.recentEntries ∧ (s.recent.map (·.key)).Nodup
    ∧ ∀ r ∈ s.recent, (s.agent r.agent).state ≠ .loggedOut

/-- The notices queued on a link and its reserved entries never exceed 48, and a link that is DOWN has an empty outbound
queue and nothing reserved (R179, R182). -/
def LinkRec.SpaceKept (r : LinkRec) : Prop :=
  r.noticeCount + r.reserved ≤ Config.noticeEntries ∧ (r.up = false → r.outbound = [] ∧ r.reserved = 0)

/-- The inbound FIFO holds at most 16 requests, none while the link is DOWN, and the outbound queue at most 16 replies
(R174, R176 to R178, R182). -/
def LinkRec.RequestsKept (r : LinkRec) : Prop :=
  r.inbound.length ≤ Config.inboundEntries ∧ r.replyCount ≤ Config.replyEntries ∧ (r.up = false → r.inbound = [])

/-- Every link keeps its queues within their bounds. -/
def State.LinksBounded (s : State) : Prop := ∀ l, (s.link l).SpaceKept ∧ (s.link l).RequestsKept

/-- No call's redirect count exceeds 7 (R51). -/
def State.RedirectsBounded (s : State) : Prop :=
  ∀ slot c, s.call? slot = some c → c.redirects ≤ Config.maxRedirects

/-- Every queue's staffing weight is the sum of the shares of the working agents qualified for it; the agent table is in its
canonical form and no skill list names a queue twice (R10, R101). -/
def State.WeightsExact (s : State) : Prop :=
  Assoc.rising s.agents = true ∧ (∀ slot, ((s.agent slot).skills.map (·.queue)).Nodup)
    ∧ ∀ q, (s.queue q).weight = s.weightSum q

/-- Every table of the state lists its keys in rising order. -/
structure State.TablesRising (s : State) : Prop where
  agents : Assoc.rising s.agents = true
  calls : Assoc.rising s.calls = true
  queues : Assoc.rising s.queues = true
  segments : Assoc.rising s.segments = true
  useCounts : Assoc.rising s.useCounts = true
  programmes : Assoc.rising s.programmes = true
  patterns0 : Assoc.rising s.patterns0 = true
  patterns1 : Assoc.rising s.patterns1 = true
  channels : ∀ h, Assoc.rising (s.highway h).channels = true

/-- The values a queue's smoothing shift and initial handle estimate may take, and the range of its AHT (R32, R98). -/
def Queue.HandleInRange (r : Queue) : Prop :=
  1 ≤ r.config.shift ∧ r.config.shift ≤ 8 ∧ 1 ≤ r.config.initialHandle ∧ r.config.initialHandle ≤ Config.maxDuration
    ∧ 1 ≤ r.aht ∧ r.aht ≤ 1048560

/-- Every queue's handle-time numbers lie in their ranges. -/
def State.HandleInRange (s : State) : Prop := ∀ q, (s.queue q).HandleInRange

/-- A tick value at which one of the part's own records holds a deadline: the six deadlines of R184. -/
def State.IsDeadline (s : State) (d : Tick) : Prop :=
  (∃ y c o, s.call? y = some c ∧ c.offer = some o ∧ o.deadline = d)
    ∨ (∃ y c, s.call? y = some c ∧ c.promotion = some d)
    ∨ (∃ y c t, s.call? y = some c ∧ c.treatment = some t ∧ t.deadline = some d)
    ∨ (∃ y c h e, s.call? y = some c ∧ c.owner.highway? = some h
        ∧ (s.highway h).deferral.find? (fun e => e.call == y) = some e ∧ e.deadline = d)
    ∨ (∃ x w, (s.agent x).wrap = some w ∧ w.deadline = d)
    ∨ ∃ x, (s.agent x).penaltyDeadline = some d

/-- The durations that the part stores, in ticks, are at most 65535 (R184), and a queue's ring time lies in 10 to 600 (R32). -/
structure State.DurationsBounded (s : State) : Prop where
  queues : ∀ q, let c := (s.queue q).config
    10 ≤ c.ringTime ∧ c.ringTime ≤ 600 ∧ c.wrapLimit ≤ 65535 ∧ c.maxExtension ≤ 65535 ∧ c.serviceThreshold ≤ 65535 ∧ c.agingInterval ≤ 65535
      ∧ ∀ w, c.maxWait = some w → w ≤ 65535
  penalties : ∀ x, (s.agent x).penalty ≤ 65535
  deferLimit : s.deferLimit ≤ 65535
  music : ∀ b p n d, PatternStep.music n d ∈ s.pattern b p → d ≤ 65535
  silence : ∀ b p d, PatternStep.silence d ∈ s.pattern b p → d ≤ 65535

/-- No deadline lies behind the tick count, so that each is taken in the tick at which it is reached, nor further ahead than
131070 ticks (R184); a boundary that has been marked waits for its event in the frame after which it was marked (R185). What keeps
the deadlines so: the durations stored, the extensions granted (R88), a queue that ages the calls that have a promotion deadline
(R34, R40), a pending exit that leaves no deadline (R52), and a deferral list that holds only calls in treatment (R154, R160). -/
structure State.OnTime (s : State) : Prop where
  deadlines : ∀ d, s.IsDeadline d → (d - s.tick).toNat ≤ 131070
  durations : s.DurationsBounded
  extensions : ∀ x w, (s.agent x).wrap = some w → w.granted ≤ 65535 ∧ (w.deadline - s.tick).toNat ≤ 65535 + w.granted
  aging : ∀ y c, s.call? y = some c → c.promotion.isSome = true →
    (s.queue c.queue).config.agingInterval ≠ 0 ∧ c.band < 7
  exiting : ∀ y c, s.call? y = some c → c.exitPending.isSome = true → c.promotion = none ∧ c.treatment = none
  deferred : ∀ h, ∀ e ∈ (s.highway h).deferral, ∃ c, s.call? e.call = some c ∧ c.owner.highway? = some h
    ∧ c.treatment.isSome = true
  boundary : s.boundaryDue = true → s.frameCount = 0

/-- The agent and call records agree with each other and with the lists that name them: a call stands in the waiting order of its
own queue alone, once, exactly while it is WAITING or OFFERING (R36); an offer stands in a call and an agent record at once, and
makes them OFFERING and RESERVED (R55); a connected call and its agent name each other, unless the agent has been taken from
the call (R23, R30); and what each state brings with it (R2, R18, R26, R30, R39, R52, R83). -/
structure State.RecordsAgree (s : State) : Prop where
  available : s.AvailableExact
  ordered : ∀ q y, y ∈ (s.queue q).order ↔ ∃ c, s.call? y = some c ∧ c.queue = q ∧ c.state ≠ .connected
  once : ∀ q, (s.queue q).order.Nodup
  offering : ∀ y c, s.call? y = some c → (c.state = .offering ↔ c.offer.isSome = true)
  reserved : ∀ x, (s.agent x).state = .reserved ↔ (s.agent x).offer.isSome = true
  callOffers : ∀ y c o, s.call? y = some c → c.offer = some o → (s.agent o.agent).offer = some { token := o.token, call := y }
  agentOffers : ∀ x o, (s.agent x).offer = some o →
    ∃ c k, s.call? o.call = some c ∧ c.offer = some k ∧ k.agent = x ∧ k.token = o.token
  connected : ∀ y c, s.call? y = some c → (c.state = .connected ↔ c.connectTick.isSome = true)
  callAgents : ∀ y c x, s.call? y = some c → c.agent = some x → c.state = .connected ∧ (s.agent x).call = some y
  agentCalls : ∀ x y, (s.agent x).call = some y → ∃ c, s.call? y = some c ∧ c.agent = some x
  busy : ∀ x, (s.agent x).state = .busy ↔ (s.agent x).call.isSome = true
  answered : ∀ y c, s.call? y = some c → c.state = .connected → c.treatment = none ∧ c.promotion = none ∧ c.exitPending = none
  exiting : ∀ y c, s.call? y = some c → c.exitPending.isSome = true → c.state = .waiting
  wrapping : ∀ x, (s.agent x).state = .wrapUp ↔ (s.agent x).wrap.isSome = true
  penalized : ∀ x, (s.agent x).penaltyDeadline.isSome = true → (s.agent x).state = .inferredAbsent
  homed : ∀ x, (s.agent x).state = .loggedOut ↔ (s.agent x).home = none
  switching : (∀ x, (s.agent x).home ≠ some .s) ∧ ∀ y c, s.call? y = some c → c.owner ≠ .s

/-- The ticks that order agents and calls lie less than 2^31 ticks back, so that R184 compares them exactly. -/
def State.TicksRecent (s : State) : Prop :=
  (∀ x, (s.agent x).state = .available ∨ (s.agent x).state = .reserved → (s.tick - (s.agent x).availSince).toNat < 2 ^ 31)
    ∧ ∀ y c, s.call? y = some c → (s.tick - c.entry).toNat < 2 ^ 31

/-- The available list is ordered by available-since, oldest first, and every waiting order by band, highest first, and then by
queue entry tick, earliest first (R6, R36). -/
def State.OrdersSorted (s : State) : Prop :=
  s.available.Pairwise (fun a b => ¬ 0 < ((s.agent a).availSince - (s.agent b).availSince).toInt)
    ∧ ∀ q, (s.queue q).order.Pairwise fun a b => ∀ c d, s.call? a = some c → s.call? b = some d →
      d.band < c.band ∨ (d.band = c.band ∧ ¬ 0 < (c.entry - d.entry).toInt)

/-- Each bank's reference count is the number of WAITING or OFFERING calls whose treatment runs on it (R118). -/
def State.BankCountsExact (s : State) : Prop :=
  ∀ b, s.refs b =
    (s.calls.filter fun e => decide (e.2.state ≠ .connected) && e.2.treatment.any fun t => t.bank == b).length

/-- The entries reserved on each link: one for each offer of a call that the link owns, and one for each offer to an agent that
the link homes (R58, R179). -/
def State.ReservationsExact (s : State) : Prop :=
  ∀ l, (s.link l).reserved = (s.calls.filter fun e => e.2.offer.isSome && e.2.owner == l).length
    + (s.agents.filter fun e => e.2.offer.isSome && e.2.home == some l).length

/-- A segment's use count is the number of RUNNING or PAUSED programmes that list it and of personal channels whose phrase holds
it (R144); only a BOUND or PLAYING channel holds a phrase (R151). -/
def State.UseCountsExact (s : State) : Prop :=
  (∀ g, s.useCount g = (s.programmes.filter fun e => decide (e.2.state ≠ .stopped) && decide (g ∈ e.2.tracks)).length
      + (s.highwayA.channels.filter fun e => decide (g ∈ e.2.phrase.getD [])).length
      + (s.highwayB.channels.filter fun e => decide (g ∈ e.2.phrase.getD [])).length)
    ∧ ∀ h ts, (s.channel h ts).phrase.isSome = true → (s.channel h ts).state = .bound ∨ (s.channel h ts).state = .playing

/-! ## Requests: which command takes one, and what its answer does to the links -/

/-- `r` is the request that the part takes next from link `l`: the link is UP, fewer than 16 replies are queued on it, and
`r` stands at the head of its inbound FIFO (R177). -/
structure State.Taking (s : State) (l : Link) (r : Request) : Prop where
  up : (s.link l).up = true
  room : (s.link l).replyCount < 16
  head : (s.link l).inbound.head? = some r

/-- The request that the part takes next from link `l` is of a kind, and the link holds the class of that kind. -/
structure State.Served (s : State) (l : Link) (r : Request) (kind : Byte) (cls : RequestClass) : Prop
    extends State.Taking s l r where
  isKind : r.kind = kind
  permitted : (s.link l).permissions.holds cls = true

/-- The reply to a request: its tag, its kind plus 80h, a status and result fields (R177, R188). -/
def Request.answer (r : Request) (status : Status) (result : Result) : Reply :=
  { tag := r.tag, kind := r.kind + 0x80, status := status, result := result }

/-- The state after the head request of a link has been taken and a reply has joined the tail of its outbound queue. -/
def State.repliedWith (s : State) (l : Link) (reply : Reply) : State :=
  s.setLink l { s.link l with inbound := (s.link l).inbound.tail
                              outbound := (s.link l).outbound ++ [.reply reply] }

/-- The state after the head request of a link has been answered, and nothing else. -/
def State.answered (s : State) (l : Link) (r : Request) (status : Status) (result : Result) : State :=
  s.repliedWith l (r.answer status result)

/-- A request was taken from a link and got one reply, behind what the link's outbound queue held; notices alone follow it
there and join the tails of the other links (R177, R178; that no notice of the event comes before the reply is log entry 4). -/
structure State.Replied (s t : State) (l : Link) (reply : Reply) : Prop where
  taken : (t.link l).inbound = (s.link l).inbound.tail
  answered : ∃ ns : List Notice, (t.link l).outbound = (s.link l).outbound ++ .reply reply :: ns.map OutEntry.notice
  others : ∀ k, k ≠ l → (t.link k).inbound = (s.link k).inbound
    ∧ ∃ ns : List Notice, (t.link k).outbound = (s.link k).outbound ++ ns.map OutEntry.notice

end Sys2Proof.Machine

namespace Sys2Proof

open Sys2Proof.Machine

/-- The request command `c` takes the request `r` from link `l`: by the kind byte, and for AGENT_FORCE, OFFER_REPLY and
PROGRAMME_CONTROL by the action or answer byte, an invalid one going to the first of them (R177, R188, R189). -/
def Instr.takes (c : Instr) (l : Link) (r : Request) : Bool :=
  let kind := r.kind.toNat
  let byte (i : Nat) : Nat := (r.body.getD i 0).toNat
  match c with
  | .callEnter k => k == l && kind == 0x01
  | .callWithdraw k => k == l && kind == 0x02
  | .callRelease k => k == l && kind == 0x03
  | .agentLogin k => k == l && kind == 0x04
  | .agentLogout k => k == l && kind == 0x05
  | .agentReady k => k == l && kind == 0x06
  | .agentNotReady k => k == l && kind == 0x07
  | .agentUpdate k => k == l && kind == 0x08
  | .wrapEnd k => k == l && kind == 0x09
  | .wrapExtend k => k == l && kind == 0x0A
  | .accept k => k == l && kind == 0x0B && byte 4 != 2
  | .decline k => k == l && kind == 0x0B && byte 4 == 2
  | .queueSet k => k == l && kind == 0x0C
  | .forceLogout k => k == l && kind == 0x0D && byte 2 != 2 && byte 2 != 3
  | .forceNotReady k => k == l && kind == 0x0D && byte 2 == 2
  | .forceLogoutNow k => k == l && kind == 0x0D && byte 2 == 3
  | .bankOpen k => k == l && kind == 0x0E
  | .patternWrite k => k == l && kind == 0x0F
  | .bankClose k => k == l && kind == 0x10
  | .bankActivate k => k == l && kind == 0x11
  | .segmentSet k => k == l && kind == 0x12
  | .sampleWrite k => k == l && kind == 0x13
  | .programmeSet k => k == l && kind == 0x14
  | .run k => k == l && kind == 0x15 && byte 1 != 2 && byte 1 != 3
  | .pause k => k == l && kind == 0x15 && byte 1 == 2
  | .stop k => k == l && kind == 0x15 && byte 1 == 3
  | .vocabularySet k => k == l && kind == 0x16
  | .treatmentSet k => k == l && kind == 0x17
  | .portSet k => k == l && kind == 0x18
  | .engineReset k => k == l && kind == 0x19
  | .statsRead k => k == l && kind == 0x1A
  | .statsClear k => k == l && kind == 0x1B
  | .queueRead k => k == l && kind == 0x1C
  | .agentRead k => k == l && kind == 0x1D
  | .callRead k => k == l && kind == 0x1E
  | .portRead k => k == l && kind == 0x1F
  | .unknownKindRequest k => k == l && (kind == 0 || decide (0x1F < kind))
  | .frameReceived _ _ | .transmissionComplete _ | .linkDown _ | .linkUp _ | .powerOnReset | .ringExpiry _
  | .promotionDeadline _ | .stepDeadline _ | .deferralExpiry _ | .wrapDeadline _ | .penaltyExpiry _ | .blockBoundary
  | .phraseEnd _ _ | .pendingExitCompletion _ | .heldSourceQueued _ | .heldReturnQueued _ | .deferralGrant _
  | .freedSpaceAttempts _ | .tick | .playoutFrame => false

/-- The class that a request command belongs to (R4, R32, R44, R49, R50, R70, R88, R90, R110, R119, R142 to R150, R166 to
R169, R181, R187). -/
def Instr.requestClass : Instr → Option RequestClass
  | .callEnter _ | .callWithdraw _ | .callRelease _ => some .calls
  | .agentLogin _ | .agentReady _ | .agentNotReady _ | .agentLogout _ | .agentUpdate _ | .wrapEnd _ | .wrapExtend _
  | .accept _ | .decline _ => some .agents
  | .forceLogout _ | .forceNotReady _ | .forceLogoutNow _ | .queueSet _ | .bankOpen _ | .bankClose _ | .bankActivate _
  | .patternWrite _ | .segmentSet _ | .sampleWrite _ | .programmeSet _ | .run _ | .pause _ | .stop _ | .vocabularySet _
  | .treatmentSet _ | .portSet _ | .engineReset _ => some .config
  | .statsRead _ | .statsClear _ | .queueRead _ | .callRead _ | .agentRead _ | .portRead _ => some .stats
  | .unknownKindRequest _ | .frameReceived _ _ | .transmissionComplete _ | .linkDown _ | .linkUp _ | .powerOnReset
  | .ringExpiry _ | .promotionDeadline _ | .stepDeadline _ | .deferralExpiry _ | .wrapDeadline _ | .penaltyExpiry _
  | .blockBoundary | .phraseEnd _ _ | .pendingExitCompletion _ | .heldSourceQueued _ | .heldReturnQueued _
  | .deferralGrant _ | .freedSpaceAttempts _ | .tick | .playoutFrame => none

/-- The body of a request is well formed for the request command that takes it (R189, R190). -/
def Instr.readsBody (c : Instr) (b : List Byte) : Bool :=
  match c with
  | .callEnter _ => (readCallEnter b).isSome
  | .callWithdraw _ | .callRelease _ | .agentReady _ | .agentLogout _ | .wrapEnd _ | .callRead _ => (readSlot b).isSome
  | .agentLogin _ => (readLogin b).isSome
  | .agentNotReady _ => (readNotReady b).isSome
  | .agentUpdate _ => (readUpdate b).isSome
  | .forceLogout _ | .forceNotReady _ | .forceLogoutNow _ => (readForce b).isSome
  | .wrapExtend _ => (readExtend b).isSome
  | .accept _ | .decline _ => (readOfferReply b).isSome
  | .queueSet _ => (readQueueSet b).isSome
  | .bankOpen _ | .bankClose _ | .bankActivate _ | .statsRead _ | .queueRead _ => (readByte b).isSome
  | .patternWrite _ => (readPatternWrite b).isSome
  | .segmentSet _ => (readSegmentSet b).isSome
  | .sampleWrite _ => (readSampleWrite b).isSome
  | .programmeSet _ => (readProgrammeSet b).isSome
  | .run _ | .pause _ | .stop _ => (readProgrammeControl b).isSome
  | .vocabularySet _ => (readVocabulary b).isSome
  | .treatmentSet _ => (readTreatmentSet b).isSome
  | .portSet _ => (readPortSet b).isSome
  | .engineReset _ => (readEmpty b).isSome
  | .statsClear _ => (readStatsClear b).isSome
  | .agentRead _ => (readAgentRead b).isSome
  | .portRead _ => (readPortRead b).isSome
  | .unknownKindRequest _ | .frameReceived _ _ | .transmissionComplete _ | .linkDown _ | .linkUp _ | .powerOnReset
  | .ringExpiry _ | .promotionDeadline _ | .stepDeadline _ | .deferralExpiry _ | .wrapDeadline _ | .penaltyExpiry _
  | .blockBoundary | .phraseEnd _ _ | .pendingExitCompletion _ | .heldSourceQueued _ | .heldReturnQueued _
  | .deferralGrant _ | .freedSpaceAttempts _ | .tick | .playoutFrame => false

/-- What a refused reply carries beside its status: a bank request's reply carries the bank status whatever its status, and
the others nothing (R119, R177). -/
def Instr.refusal (c : Instr) (s : State) : Result :=
  match c with
  | .bankOpen _ | .bankClose _ | .bankActivate _ | .patternWrite _ => .bank s.bankStatus none
  | _ => .bare

end Sys2Proof

namespace Sys2Proof.Machine

open Sys2Proof

/-! ## Notices at the end of an event (R164, R170 to R172, R175) -/

/-- A monitoring notice or FAULT at one link: none while the link is DOWN, queued where a notice entry is free, and dropped
otherwise, which sets the notices-dropped flag (R170). -/
def LinkRec.told (r : LinkRec) (n : Notice) : LinkRec :=
  if r.up = false then r
  else if r.noticeCount + r.reserved < 48 then { r with outbound := r.outbound ++ [.notice n] }
  else { r with dropped := true }

/-- A monitoring notice or FAULT given to links. -/
def State.told (s : State) (links : List Link) (n : Notice) : State :=
  links.foldl (fun s l => s.setLink l ((s.link l).told n)) s

/-- A faulty frame or request of a link: its fault count rises by 1, at most to 65535, and a FAULT with the new count is given
to the links that are UP, hold CONFIG and have faults enabled (R175). -/
def State.faulted (s : State) (l : Link) (type : FaultType) (tagAndKind : Option (Byte × Byte)) : State :=
  let s := s.setLink l { s.link l with faultCount := min 65535 ((s.link l).faultCount + 1) }
  s.told ([Link.a, .b, .s].filter fun k => (s.link k).up && (s.link k).permissions.config && (s.link k).enables.faults)
    (.fault l type tagAndKind (s.link l).faultCount)

/-- The AGENT_STATE of a change, when the state changes or the reason of an agent that stays NOT_READY changes: to the links
with monitoring enabled, and unless the cause is the home link's own request to the home link held before it (R3, R171). -/
def State.agentReport (s : State) (slot : Nat) (old new : Agent) (cause : Cause) : State :=
  if old.state ≠ new.state ∨ (new.state = .notReady ∧ old.reason ≠ new.reason) then
    s.told ([Link.a, .b, .s].filter fun l => (s.link l).enables.monitoring || decide (cause ≠ .request ∧ old.home = some l))
      (.agentState slot new.id new.state old.state new.reason new.pending cause s.tick)
  else s

/-! ## Changes of agents -/

/-- An agent record set and the available list given, with the staffing weights that follow (R102). -/
def State.settled (s : State) (slot : Nat) (new : Agent) (available : List Nat) : State :=
  { (s.setAgent slot new).reweigh (s.agent slot) new with available := available }

/-- An agent record set to one that is not AVAILABLE, with its report (R3, R8). -/
def State.agentOut (s : State) (slot : Nat) (new : Agent) (cause : Cause) : State :=
  (s.settled slot new (s.available.filter (· != slot))).agentReport slot (s.agent slot) new cause

/-- An offer of the call in slot `y` to the agent in slot `x`: the six steps of R68, for an agent with a home link and links
with the entries that R57 asks for. -/
def State.offerMade (s : State) (y : Nat) (c : Call) (x : Nat) : State :=
  let token := if s.token = 0xFFFF then 1 else s.token + 1
  let a := s.agent x
  let s := { s with token := token }
  let s := s.settled x
    { a with state := .reserved, offer := some { token := token, call := y }, lastToken := token, lastOutcome := none }
    (s.available.filter (· != x))
  let s := s.setCall y
    { c with state := .offering
             offer := some { token := token, agent := x
                             deadline := s.tick + BitVec.ofNat 32 (s.queue c.queue).config.ringTime } }
  match a.home with
  | none => s
  | some h =>
      let s := s.setLink h
        { s.link h with
          outbound := (s.link h).outbound ++ [.notice (.offer token x a.id y c.queue (c.key.getD 0) c.owner c.ref)]
          reserved := (s.link h).reserved + 1 }
      s.setLink c.owner { s.link c.owner with reserved := (s.link c.owner).reserved + 1 }

/-- An agent joins the tail of the available list; a call that the agent attempt finds is offered to it in the same event;
the changes are reported (R7, R61, R62, R171). -/
def State.agentJoins (s : State) (x : Nat) (new : Agent) (cause : Cause) : State :=
  let m := s.settled x new (s.available.filter (· != x) ++ [x])
  match m.bestCall new with
  | none => m.agentReport x (s.agent x) new cause
  | some (y, c) =>
      let o := m.offerMade y c x
      (o.agentReport x (s.agent x) new cause).agentReport x new (o.agent x) .offer

/-- The record of an agent whose logout is completed (R18). -/
def Agent.out (a : Agent) : Agent :=
  { a with state := .loggedOut, home := none, pending := .none, miss := 0, offer := none, call := none, wrap := none
           penaltyDeadline := none }

/-- A logout completed: the record, the recent service list without the agent, and the report (R18, R66). -/
def State.agentLogsOut (s : State) (x : Nat) (cause : Cause) : State :=
  ({ s with recent := s.recent.filter fun r => r.agent != x }).agentOut x (s.agent x).out cause

/-- The leave rule for an agent whose record, out of its call and wrap-up, is `a` (R94). -/
def State.agentLeaves (s : State) (x : Nat) (a : Agent) (cause : Cause) : State :=
  match a.pending with
  | .logout => (s.setAgent x a).agentLogsOut x cause
  | .notReady reason => s.agentOut x { a with state := .notReady, reason := reason, pending := .none } cause
  | .none => s.agentJoins x { a with state := .available, pending := .none, availSince := s.tick } cause

/-! ## Parts of the state that an event leaves alone -/

/-- The agent records, the available list, the recent service list and the token counter are as they were. -/
structure State.SameAgents (s t : State) : Prop where
  agents : t.agents = s.agents
  available : t.available = s.available
  recent : t.recent = s.recent
  token : t.token = s.token

/-- The banks' reference counts, the segments' use counts and the two highways are as they were. -/
structure State.SamePlayout (s t : State) : Prop where
  refs : ∀ b, t.refs b = s.refs b
  useCounts : t.useCounts = s.useCounts
  highways : ∀ h, t.highway h = s.highway h

/-- Every call but one is as it was. -/
def State.SameCallsBut (s t : State) (slot : Nat) : Prop := ∀ y, y ≠ slot → t.call? y = s.call? y

/-- Every queue but one is as it was. -/
def State.SameQueuesBut (s t : State) (q : Nat) : Prop := ∀ p, p ≠ q → t.queue p = s.queue p

/-- No exit is pending and no LISTEN is held on a link, and no call waits in the deferral list of its highway. -/
structure State.NothingWaits (s : State) (l : Link) : Prop where
  exits : (s.link l).exitOrder = []
  listens : (s.link l).listenOrder = []
  deferral : ∀ h, l.highway? = some h → (s.highway h).deferral = []

/-- No call but the one in a slot stands in a waiting order. -/
def State.WaitsAlone (s : State) (slot : Nat) : Prop := ∀ q y, y ∈ (s.queue q).order → y = slot

/-- What a link holds beside its queues, its reservations, its waiting work and its notices-dropped flag is as it was. -/
structure State.SameLinks (s t : State) : Prop where
  up : ∀ k, (t.link k).up = (s.link k).up
  receiving : ∀ k, (t.link k).receiving = (s.link k).receiving
  permissions : ∀ k, (t.link k).permissions = (s.link k).permissions
  enables : ∀ k, (t.link k).enables = (s.link k).enables
  faultCount : ∀ k, (t.link k).faultCount = (s.link k).faultCount

/-- Notices alone joined the tails of the outbound queues, and the inbound FIFOs are as they were. -/
def State.OnlyTold (s t : State) : Prop :=
  ∀ k, (t.link k).inbound = (s.link k).inbound
    ∧ ∃ ns : List Notice, (t.link k).outbound = (s.link k).outbound ++ ns.map OutEntry.notice

/-- The segments of the phrase of the channel that a call holds. -/
def State.heldSegments (s : State) (slot : Nat) (c : Call) : List Nat :=
  match c.owner.highway? with
  | none => []
  | some h =>
      match s.heldTimeslot h slot with
      | none => []
      | some ts => ((s.channel h ts).phrase).getD []

/-- What a call's leaving of its treatment gives back: the count of its bank, its deferral entry, and the channel it holds,
which goes to DRAINING with its phrase released (R138, R160). -/
structure State.TreatmentStopped (s t : State) (slot : Nat) (c : Call) : Prop where
  refs : ∀ b, t.refs b = if c.treatment.map (·.bank) = some b then s.refs b - 1 else s.refs b
  deferral : ∀ h, (t.highway h).deferral =
    if c.treatment.isSome ∧ c.owner.highway? = some h then (s.highway h).deferral.filter (fun d => d.call != slot)
    else (s.highway h).deferral
  channel : ∀ h ts, t.channel h ts =
    if c.treatment.isSome ∧ c.owner.highway? = some h ∧ s.heldTimeslot h slot = some ts then Channel.draining
    else s.channel h ts
  useCount : ∀ g, t.useCount g =
    if c.treatment.isSome ∧ g ∈ s.heldSegments slot c then s.useCount g - 1 else s.useCount g
  listens : ∀ k, (t.link k).listenOrder =
    if c.treatment.isSome ∧ k = c.owner then (s.link k).listenOrder.filter (· != slot) else (s.link k).listenOrder
  output : ∀ h, (t.highway h).output = (s.highway h).output

/-- A queue's record without a call in its order, and opened if it was closed and its count is now below its lower threshold
(R39, R43). -/
def Queue.without (r : Queue) (slot : Nat) : Queue :=
  let order := r.order.filter (· != slot)
  { r with order := order, closed := r.closed && !decide (order.length < r.config.lower) }

/-- A queue's record with one more count on a counter (R164). -/
def Queue.counted (r : Queue) (n : CounterName) : Queue :=
  let c := r.stats.counter n
  { r with stats := r.stats.setCounter n { value := c.value + 1, wrapped := c.wrapped || decide (c.value = 0xFFFFFFFF) } }

/-! ## Events that a clock takes before it goes on (R184, R185) -/

/-- Commands carried out one after another. -/
inductive State.Runs : List Instr → State → State → Prop
  | done {s : State} : State.Runs [] s s
  | next {s u t : State} {c : Instr} {cs : List Instr} : exec c s = .next u → State.Runs cs u t → State.Runs (c :: cs) s t

/-- The expiry commands of every call and agent, in the order in which a tick takes those that are due (log entry 26). -/
def State.expiries (s : State) : List Instr :=
  let calls := s.calls.map (·.1)
  let agents := s.agents.map (·.1)
  calls.map .ringExpiry ++ calls.map .promotionDeadline ++ calls.map .stepDeadline ++ calls.map .deferralExpiry
    ++ agents.map .wrapDeadline ++ agents.map .penaltyExpiry

/-- The block boundary and the phrase ends of every channel, in the order in which a frame takes those that are due (log entry
26). -/
def State.playoutEvents (s : State) : List Instr :=
  .blockBoundary :: (s.highwayA.channels.map fun e => .phraseEnd .a e.1) ++ s.highwayB.channels.map fun e => .phraseEnd .b e.1

/-! ## Distribution attempts (R38, R57, R59, R60) and grants (R155), one after another -/

/-- An offer to make: a call's slot, its record, and an agent's slot. -/
structure Pairing where
  slot : Nat
  call : Call
  agent : Nat
  deriving DecidableEq, Repr

/-- A call that distribution may offer: it is WAITING without an exit pending, and a notice entry is free on its owner link
(R38). -/
def State.Candidate (s : State) (y : Nat) (c : Call) : Prop :=
  s.call? y = some c ∧ c.state = .waiting ∧ c.exitPending = none ∧ 0 < s.freeNotices c.owner

/-- A call of a queue may be offered to an agent: the agent is qualified for the queue, and the two are pairable (R5, R57). -/
def State.Fits (s : State) (q : Nat) (c : Call) (x : Nat) : Prop :=
  s.qualified (s.agent x) q = true ∧ s.pairable c (s.agent x) = true

/-- The distribution attempt for a queue makes this offer: the first candidate of the waiting order that fits an AVAILABLE agent,
and the first agent of the available list that it fits (R59). -/
def State.Attempt (s : State) (q : Nat) (o : Pairing) : Prop :=
  s.Candidate o.slot o.call ∧ s.Fits q o.call o.agent
    ∧ (∃ before after, (s.queue q).order = before ++ o.slot :: after
      ∧ ∀ z ∈ before, ∀ d, s.Candidate z d → ∀ x ∈ s.available, ¬s.Fits q d x)
    ∧ ∃ ahead behind, s.available = ahead ++ o.agent :: behind ∧ ∀ x ∈ ahead, ¬s.Fits q o.call x

/-- The distribution attempt for a queue makes no offer: no candidate fits an AVAILABLE agent (R59). -/
def State.NoAttempt (s : State) (q : Nat) : Prop :=
  ∀ z ∈ (s.queue q).order, ∀ d, s.Candidate z d → ∀ x ∈ s.available, ¬s.Fits q d x

/-- The distribution attempts for a queue, repeated until one makes no offer: the state they start in, the offers they make, and
the state they leave (R59). -/
inductive State.Attempts (q : Nat) : State → List Pairing → State → Prop
  | stop {s : State} : s.NoAttempt q → State.Attempts q s [] s
  | offer {s t : State} {o : Pairing} {later : List Pairing} : s.Attempt q o →
      State.Attempts q (s.offerMade o.slot o.call o.agent) later t → State.Attempts q s (o :: later) t

/-- No offer that could be made is left unmade: while an AVAILABLE agent qualified for a queue is in the available list, the queue
holds no WAITING call without a pending exit but those for which an offer's notice space is lacking (R63). -/
def State.NoPairLeft (s : State) : Prop := ∀ q, q < 64 → s.NoAttempt q

/-- A link that is DOWN homes no agent and owns no call (R28, R53, R182). -/
def State.DownLinksIdle (s : State) : Prop :=
  ∀ l, (s.link l).up = false → (∀ x, (s.agent x).home ≠ some l) ∧ ∀ y c, s.call? y = some c → c.owner ≠ l

/-- A waiting order holds a WAITING call without an exit pending (R60). -/
def State.HoldsWaiting (s : State) (q : Nat) : Prop :=
  ∃ y ∈ (s.queue q).order, ∃ c, s.call? y = some c ∧ c.state = .waiting ∧ c.exitPending = none

/-- The distribution attempts that freed notice space on a link calls for, queue by queue, while a notice entry stays free on the
link (R60, R180 stage 4). -/
inductive State.FreedAttempts (l : Link) : List Nat → State → List Pairing → State → Prop
  | done {s : State} : State.FreedAttempts l [] s [] s
  | passes {s t : State} {q : Nat} {qs : List Nat} {os : List Pairing} : ¬(0 < s.freeNotices l ∧ s.HoldsWaiting q) →
      State.FreedAttempts l qs s os t → State.FreedAttempts l (q :: qs) s os t
  | walks {s u t : State} {q : Nat} {qs : List Nat} {os ps : List Pairing} : 0 < s.freeNotices l → s.HoldsWaiting q →
      State.Attempts q s os u → State.FreedAttempts l qs u ps t → State.FreedAttempts l (q :: qs) s (os ++ ps) t

/-- The AGENT_STATE notices of offers made, in their order, at the end of an event that began in `s` (R68, R170, R171). -/
def State.offersReported (s t : State) (os : List Pairing) : State :=
  os.foldl (fun u o => u.agentReport o.agent (s.agent o.agent) (t.agent o.agent) .offer) t

/-- The grants from a highway's deferral list, one DEFERRAL_GRANT after another until none can be made (R155). -/
inductive State.Grants (h : Highway) : State → State → Prop
  | stop {s : State} : exec (.deferralGrant h) s = .next s → State.Grants h s s
  | grant {s u t : State} : exec (.deferralGrant h) s = .next u → u ≠ s → State.Grants h u t → State.Grants h s t

/-! ## Steps of a treatment (R128, R129) and exits (R51, R52) -/

/-- The step that plays a programme, or silence for none. -/
def soundStep (programme : Option Nat) (duration : Nat) : PatternStep :=
  match programme with
  | some p => .music p duration
  | none => .silence duration

/-- A MUSIC or SILENCE step at an index is run for a call: its source is there already, or its LISTEN is queued, and the step
begins; or, with no notice entry free on the owner link, the change of source is held (R128, R129). -/
def State.soundRun (s : State) (y : Nat) (c : Call) (t : Treatment) (index : Nat) (programme : Option Nat) (duration : Nat) :
    State :=
  let source : Source := match programme with | some p => .programme p | none => .none
  let t := { t with step := index, state := .running, lastProgramme := programme }
  let begun : Treatment := { t with deadline := if duration = 0 then none else some (s.tick + BitVec.ofNat 32 duration) }
  let u (t : Treatment) : State := s.setCall y { c with treatment := some t }
  let r := s.link c.owner
  if t.source = source then u begun
  else if 0 < s.freeNotices c.owner then
    let u := u { begun with source := source, heldSource := none }
    match c.owner.highway? with
    | some h => u.setLink c.owner { r with outbound := r.outbound ++ [.notice (.listen y c.ref h programme)] }
    | none => u
  else (u { t with heldSource := some source, deadline := none }).setLink c.owner { r with listenOrder := r.listenOrder ++ [y] }

/-- The exit of a call with a reason. With a notice entry free on the owner link, CALL_EXIT goes out, the call leaves its order
and its slot, and EXITED is counted. With none, the exit is pending: the call keeps its place without promotion deadline. Its
treatment stops in either case (R51, R52). -/
structure State.Exited (s t : State) (y : Nat) (c : Call) (reason : Nat) : Prop where
  others : s.SameCallsBut t y
  stopped : s.TreatmentStopped t y c
  queues : s.SameQueuesBut t c.queue
  reserved : ∀ k, (t.link k).reserved = (s.link k).reserved
  told : s.OnlyTold t
  gone : 0 < s.freeNotices c.owner → t.call? y = none ∧ t.queue c.queue = ((s.queue c.queue).without y).counted .exited
    ∧ (∃ ns : List Notice, (t.link c.owner).outbound
        = (s.link c.owner).outbound ++ .notice (.callExit y c.ref reason) :: ns.map OutEntry.notice)
    ∧ ∀ k, (t.link k).exitOrder = if k = c.owner then (s.link k).exitOrder.filter (· != y) else (s.link k).exitOrder
  pending : s.freeNotices c.owner = 0 →
    t.call? y = some { c with exitPending := some reason, promotion := none, treatment := none }
    ∧ t.queue c.queue = s.queue c.queue
    ∧ ∀ k, (t.link k).exitOrder = if k = c.owner then (s.link k).exitOrder ++ [y] else (s.link k).exitOrder

/-! ## Outbound entries (R188) -/

/-- The lists that a reply carries are no longer than their records allow: 8 skills, 8 tracks (R1, R147). -/
def OutEntry.ListsBounded : OutEntry → Prop
  | .reply r => match r.result with
    | .agentRecord a _ => a.skills.length ≤ 8
    | .programme p => p.tracks.length ≤ 8
    | _ => True
  | .notice _ => True

/-! ## Bytes that spell the bodies of requests (R189, R190) -/

/-- The 10 bytes of a pattern step (R190). -/
def PatternStep.bytes (step : PatternStep) : List Byte :=
  let used : List Byte :=
    match step with
    | .music p duration => [0x01, byte1 p] ++ bytes16 duration
    | .silence duration => [0x02] ++ bytes16 duration
    | .announce segments => [0x03, byte1 segments.length] ++ segments.flatMap bytes16
    | .position => [0x04]
    | .waitEstimate => [0x05]
    | .goto target count => [0x06, byte1 target, byte1 count]
    | .raise n => [0x07, byte1 n]
    | .overflow queue => [0x08, byte1 queue]
    | .exit reason => [0x09, byte1 reason]
  used ++ List.replicate (10 - used.length) 0

/-- The arguments of a pattern step are in the ranges its encoding admits (R123, R190). -/
def PatternStep.inRange (step : PatternStep) : Prop :=
  match step with
  | .music p duration => p ≤ 7 ∧ duration < 65536
  | .silence duration => duration < 65536
  | .announce segments => 1 ≤ segments.length ∧ segments.length ≤ 4 ∧ ∀ g ∈ segments, g < 512
  | .position | .waitEstimate => True
  | .goto target count => target ≤ 15 ∧ count < 256
  | .raise n => 1 ≤ n ∧ n ≤ 7
  | .overflow queue => queue < 64
  | .exit reason => reason ≤ 15

/-- A skill entry as two bytes (R189). -/
def Skill.bytes (k : Skill) : List Byte := [byte1 k.queue, byte1 k.proficiency]

/-- A two-valued code as a byte. -/
def boolByte (b : Bool) : Byte := if b then 0x01 else 0x00

/-- An optional number as a presence indication and its value field. -/
def optionBytes (width : Nat → List Byte) (o : Option Nat) : List Byte := boolByte o.isSome :: width (o.getD 0)

/-- The body of a QUEUE_SET with a field mask, which masks every field and reseeds where none is given (R189). -/
def QueueConfig.bytes (c : QueueConfig) (queue : Nat) (mask : Nat := 0xFFFF) : List Byte :=
  [byte1 queue] ++ bytes16 mask ++ [boolByte c.enabled, byte1 c.minProficiency] ++ bytes16 c.ringTime
    ++ bytes16 c.wrapLimit ++ bytes16 c.maxExtension ++ bytes16 c.serviceThreshold ++ bytes16 c.agingInterval
    ++ bytes16 c.upper ++ bytes16 c.lower ++ optionBytes (fun n => [byte1 n]) c.overflowTarget
    ++ optionBytes bytes16 c.maxWait ++ [byte1 c.pattern, boolByte c.affinity, byte1 c.shift] ++ bytes16 c.initialHandle

end Sys2Proof.Machine
end

