-- ==== Sys2Proof/Certificates/Slice0/Obligations.lean ====
section
/-!
DEFINITION. The statements for the provers. A statement about a request takes the request `r` that stands at the head of a
link's inbound FIFO (`State.Taking`) and the body that a reader of Sys2Proof/Machine/Operands.lean finds in its bytes. A
statement that names a next state outright says everything the command leaves unchanged; one that lists observations lists
one for every part of the state.
-/

open Sys2Proof Sys2Proof.Machine

/-! ## The block as a whole -/

/-- A step carries out the command at the front of the queue, on the state with the rest of the queue; with no command
waiting the part idles (the model's own queue; log entry 1). -/
def Obligations.StepRunsFrontCommand : Prop :=
  (∀ (c : Instr) (rest : List Instr) (s : State), step { s with pending := c :: rest } = exec c { s with pending := rest })
    ∧ ∀ s : State, s.pending = [] → step s = .next s

/-- Every command is carried out: none faults and none is refused, and none touches the queue of waiting commands. These are
the model's choices: the queue is log entry 1, the commands that cannot arise are log entry 2, and the queue that power-on reset
keeps is log entry 17. -/
def Obligations.EveryCommandAnswersNext : Prop :=
  ∀ (c : Instr) (s : State), ∃ t, exec c s = .next t ∧ t.pending = s.pending

/-- Power-on reset, from any state: what every block holds after it (R186). That the queue of waiting commands is kept is the
model's choice (log entry 17), and the count of frames and the boundary mark, with their values, are the model's reading (log
entry 3). -/
def Obligations.PowerOnResetLeavesResetState : Prop :=
  ∀ s : State, ∃ t, exec .powerOnReset s = .next t ∧ t.pending = s.pending
    ∧ t.tick = 0 ∧ t.frameCount = 0 ∧ t.boundaryDue = false ∧ t.token = 0
    ∧ (∀ l, (t.link l).up = false ∧ (t.link l).receiving = [] ∧ (t.link l).inbound = [] ∧ (t.link l).outbound = []
        ∧ (t.link l).reserved = 0 ∧ (t.link l).faultCount = 0 ∧ (t.link l).dropped = false
        ∧ (t.link l).exitOrder = [] ∧ (t.link l).listenOrder = []
        ∧ (t.link l).permissions = { calls := l != .s, agents := l != .s, config := l == .s, stats := l == .s }
        ∧ (t.link l).enables = { monitoring := l == .s, stats := l == .s, faults := l == .s })
    ∧ (∀ x, (t.agent x).state = .loggedOut ∧ t.agent x = Agent.reset) ∧ t.available = [] ∧ (∀ y, t.call? y = none)
    ∧ (∀ q, (t.queue q).config = { enabled := false, minProficiency := 1, ringTime := 150, wrapLimit := 0,
                                   maxExtension := 0, serviceThreshold := 200, agingInterval := 0, upper := 2048,
                                   lower := 2048, overflowTarget := none, maxWait := none, pattern := 0,
                                   affinity := false, shift := 4, initialHandle := 1800 }
        ∧ (t.queue q).order = [] ∧ (t.queue q).closed = false ∧ (t.queue q).aht = 28800 ∧ (t.queue q).weight = 0
        ∧ (t.queue q).stats = Statistics.zero)
    ∧ t.recent = []
    ∧ t.vocabulary = { base := 0, posBefore := none, posAfter := none, waitBefore := none, waitAfter := none,
                       waitUnknown := none }
    ∧ (∀ b p, t.pattern b p = []) ∧ t.activeBank = .bank0 ∧ t.openBank = none ∧ (∀ b, t.refs b = 0)
    ∧ (∀ a, Memory.read t.store a = 0) ∧ (∀ g, t.segment? g = none) ∧ (∀ g, t.useCount g = 0)
    ∧ (∀ p, t.programme p = { tracks := [], order := .linear, start := 0, state := .stopped, counter := 0, offset := 0 })
    ∧ (∀ h ts, t.channel h ts = Channel.free) ∧ (∀ h, (t.highway h).deferral = [])
    ∧ t.silence = 0xFF ∧ t.deferLimit = 50

/-- The state after power-on reset meets every promise that the steps keep. -/
def Obligations.ResetMeetsPromises : Prop :=
  State.reset.StoreCanonical ∧ State.reset.TablesRising ∧ State.reset.AvailableExact ∧ State.reset.OpenBankIdle
    ∧ State.reset.RecentSound ∧ State.reset.LinksBounded ∧ State.reset.RedirectsBounded ∧ State.reset.WeightsExact
    ∧ State.reset.HandleInRange ∧ State.reset.RecordsAgree ∧ State.reset.TicksRecent ∧ State.reset.OrdersSorted
    ∧ State.reset.BankCountsExact ∧ State.reset.ReservationsExact ∧ State.reset.UseCountsExact
    ∧ State.reset.DownLinksIdle ∧ State.reset.NoPairLeft ∧ State.reset.OnTime

/-! ## Promises that every step keeps -/

/-- The sample store keeps its canonical form, and every other table its rising form (R141, and the model's own tables). -/
def Obligations.TablesStayCanonical : Prop :=
  (∀ s t : State, s.StoreCanonical → step s = .next t → t.StoreCanonical)
    ∧ ∀ s t : State, s.TablesRising → step s = .next t → t.TablesRising

/-- An agent is in the available list exactly when its state is AVAILABLE, and the list holds no agent twice (R6). -/
def Obligations.AvailableListKept : Prop :=
  ∀ s t : State, s.AvailableExact → step s = .next t → t.AvailableExact

/-- Each bank's reference count stays the number of WAITING or OFFERING calls whose treatment runs on it, and an open bank stays
one that is not active and has reference count 0 (R118). -/
def Obligations.BankCountsKept : Prop :=
  (∀ s t : State, s.OpenBankIdle → step s = .next t → t.OpenBankIdle)
    ∧ ∀ s t : State, s.TablesRising → s.RecordsAgree → s.BankCountsExact → step s = .next t → t.BankCountsExact

/-- The agent and call records keep agreeing with each other, with the available list and with the waiting orders
(R2, R6, R23, R30, R36, R55). -/
def Obligations.RecordsAgreeKept : Prop :=
  ∀ s t : State, s.RecordsAgree → step s = .next t → t.RecordsAgree

/-- The available list stays ordered by available-since, and every waiting order by band and queue entry tick, while the ticks
compared lie less than 2^31 ticks back (R6, R36, R184). -/
def Obligations.OrdersStaySorted : Prop :=
  ∀ s t : State, s.RecordsAgree → s.TicksRecent → s.OrdersSorted → step s = .next t → t.OrdersSorted

/-- The entries reserved on the links stay those of the offers in flight (R58, R179), and after every event no offer that could be
made is left unmade: no queue holds a WAITING call without a pending exit that an AVAILABLE agent qualified for the queue could
be offered, but for lack of notice space on its owner link or the agent's home link (R63). The second holds of states whose DOWN
links home no agent and own no call (R28, R53, R182), which every step keeps too. -/
def Obligations.ReservationsMatchOffers : Prop :=
  ∀ s t : State, s.TablesRising → s.LinksBounded → s.RecordsAgree → s.ReservationsExact → step s = .next t →
    t.ReservationsExact ∧ (s.DownLinksIdle → t.DownLinksIdle ∧ (s.NoPairLeft → t.NoPairLeft))

/-- The use count of each segment stays the number of programmes and channels that hold it (R144). -/
def Obligations.UseCountsKept : Prop :=
  ∀ s t : State, s.TablesRising → s.UseCountsExact → step s = .next t → t.UseCountsExact

/-- The recent service list holds at most 256 entries, no caller key twice, and no agent that is LOGGED_OUT (R64 to R66). -/
def Obligations.RecentListKept : Prop :=
  ∀ s t : State, s.RecentSound → step s = .next t → t.RecentSound

/-- Queued notices plus reserved entries never exceed 48 on any link, no link holds more than 16 requests or 16 replies, and a
link that is DOWN holds nothing (R176 to R179, R182). -/
def Obligations.LinkBoundsKept : Prop :=
  ∀ s t : State, s.LinksBounded → step s = .next t → t.LinksBounded

/-- Every queue's staffing weight is the sum of floor(16 / skill-list length) over the working agents qualified for it
(R101 to R103). -/
def Obligations.StaffingWeightsKept : Prop :=
  ∀ s t : State, s.WeightsExact → step s = .next t → t.WeightsExact

/-- No call's redirect count exceeds 7 (R51), and every queue's AHT lies in 1 to 1,048,560 sixteenths of a tick (R98), with the
smoothing shift and the initial handle estimate in the ranges of R32. Every stored duration is at most 65535 ticks, a ring time in 10
to 600 (R32), and no deadline lies further ahead than 131070 ticks, nor behind the tick count: each is taken in the tick at which it
is reached (R184); and a marked block boundary is taken before the next frame (R185). What keeps these so is kept with them (R34,
R40, R52, R88, R154, R160). The last two are about states in which no table lists a key twice. -/
def Obligations.RedirectsAndHandleTimesInRange : Prop :=
  (∀ s t : State, s.RedirectsBounded → step s = .next t → t.RedirectsBounded)
    ∧ (∀ s t : State, s.TablesRising → s.HandleInRange → step s = .next t → t.HandleInRange)
    ∧ ∀ s t : State, s.TablesRising → s.RecordsAgree → s.OnTime → step s = .next t → t.OnTime

/-- What each request alone configures, and what the clocks alone count: a command that is not the one named leaves it as it
was. The clause on the queues is about states in which no table lists a key twice. -/
def Obligations.OnlyItsRequestsChangeConfiguration : Prop :=
  ∀ (c : Instr) (s t : State), exec c s = .next t → c ≠ .powerOnReset →
    ((∀ l, c ≠ .sampleWrite l) → t.store = s.store)
    ∧ ((∀ l, c ≠ .patternWrite l) → ∀ b p, t.pattern b p = s.pattern b p)
    ∧ ((∀ l, c ≠ .segmentSet l) → t.segments = s.segments)
    ∧ ((∀ l, c ≠ .vocabularySet l) → t.vocabulary = s.vocabulary)
    ∧ ((∀ l, c ≠ .treatmentSet l) → t.silence = s.silence ∧ t.deferLimit = s.deferLimit)
    ∧ (s.TablesRising → (∀ l, c ≠ .queueSet l) → ∀ q, (t.queue q).config = (s.queue q).config)
    ∧ ((∀ l, c ≠ .bankActivate l) → t.activeBank = s.activeBank)
    ∧ ((∀ l, c ≠ .bankOpen l ∧ c ≠ .bankClose l) → t.openBank = s.openBank)
    ∧ ((∀ l, c ≠ .portSet l) → ∀ k, (t.link k).permissions = (s.link k).permissions ∧ (t.link k).enables = (s.link k).enables)
    ∧ ((∀ l, c ≠ .programmeSet l ∧ c ≠ .run l ∧ c ≠ .pause l ∧ c ≠ .stop l) → c ≠ .playoutFrame →
        t.programmes = s.programmes)
    ∧ ((∀ l, c ≠ .linkUp l ∧ c ≠ .linkDown l) → ∀ k, (t.link k).up = (s.link k).up)
    ∧ (c ≠ .tick → t.tick = s.tick)
    ∧ (c ≠ .playoutFrame → t.frameCount = s.frameCount ∧ (c ≠ .blockBoundary → t.boundaryDue = s.boundaryDue))

/-- An event whose condition does not hold cannot arise, and its command changes nothing: a request command whose request is
not the one the part takes next from its link, a deadline that is absent or not reached (R27, R41, R75, R91, R128, R156), an
entry transmitted on a link that is DOWN or has none, bytes on a link that is DOWN, a loss of a link that is DOWN or a regain of
one that is UP (R182, R183), a block boundary that is not marked and a phrase end on a channel whose phrase is not being played or
not placed whole (R157, R158), and a unit of waiting work of a link without a free notice entry, or without such a unit, or behind
an earlier stage that has one (R180). All this is the model's reading of such commands (log entry 2). -/
def Obligations.EventsThatCannotAriseChangeNothing : Prop :=
  (∀ (c : Instr) (l : Link) (s : State), (∃ r, c.takes l r = true) → (∀ r, s.Taking l r → c.takes l r = false) →
      exec c s = .next s)
    ∧ (∀ (s : State) (y : Nat), (∀ c o, s.call? y = some c → c.offer = some o → (s.tick - o.deadline).toInt < 0) →
      exec (.ringExpiry y) s = .next s)
    ∧ (∀ (s : State) (y : Nat), (∀ c d, s.call? y = some c → c.promotion = some d → (s.tick - d).toInt < 0) →
      exec (.promotionDeadline y) s = .next s)
    ∧ (∀ (s : State) (y : Nat),
      (∀ c t d, s.call? y = some c → c.treatment = some t → t.deadline = some d → (s.tick - d).toInt < 0) →
      exec (.stepDeadline y) s = .next s)
    ∧ (∀ (s : State) (x : Nat), (∀ w, (s.agent x).wrap = some w → (s.tick - w.deadline).toInt < 0) →
      exec (.wrapDeadline x) s = .next s)
    ∧ (∀ (s : State) (x : Nat), (∀ d, (s.agent x).penaltyDeadline = some d → (s.tick - d).toInt < 0) →
      exec (.penaltyExpiry x) s = .next s)
    ∧ (∀ (s : State) (l : Link), ((s.link l).up = false ∨ (s.link l).outbound = []) →
      exec (.transmissionComplete l) s = .next s)
    ∧ (∀ (s : State) (l : Link) (bytes : List Byte), (s.link l).up = false →
      exec (.frameReceived l bytes) s = .next s ∧ exec (.linkDown l) s = .next s)
    ∧ (∀ (s : State) (l : Link), (s.link l).up = true → exec (.linkUp l) s = .next s)
    ∧ (∀ (s : State) (y : Nat), (∀ c h e, s.call? y = some c → c.owner.highway? = some h →
        (s.highway h).deferral.find? (fun e => e.call == y) = some e → (s.tick - e.deadline).toInt < 0) →
      exec (.deferralExpiry y) s = .next s)
    ∧ (∀ s : State, s.boundaryDue = false → exec .blockBoundary s = .next s)
    ∧ (∀ (s : State) (h : Highway) (ts : Nat), ((s.channel h ts).state ≠ .playing
        ∨ ∃ phrase, (s.channel h ts).phrase = some phrase ∧ (s.channel h ts).segIndex < phrase.length) →
      exec (.phraseEnd h ts) s = .next s)
    ∧ ∀ (s : State) (l : Link),
      let full : Prop := s.freeNotices l = 0
      let noExit : Prop := (s.link l).exitOrder = []
      let noListen : Prop := (s.link l).listenOrder = []
      (full ∨ noExit → exec (.pendingExitCompletion l) s = .next s)
      ∧ (full ∨ ¬noExit ∨ noListen → exec (.heldSourceQueued l) s = .next s ∧ exec (.heldReturnQueued l) s = .next s)
      ∧ (∀ y later c t, (s.link l).listenOrder = y :: later → s.call? y = some c → c.treatment = some t →
        (t.heldSource = none → exec (.heldSourceQueued l) s = .next s)
        ∧ (t.heldSource ≠ none → exec (.heldReturnQueued l) s = .next s))
      ∧ (∀ h, l.highway? = some h → (full ∨ ¬noExit ∨ ¬noListen ∨ (s.highway h).deferral = []
          ∨ ∀ ts, 8 ≤ ts → ts < 128 → (s.channel h ts).state ≠ .free) → exec (.deferralGrant h) s = .next s)
      ∧ (l = .s ∨ full ∨ ¬noExit ∨ ¬noListen ∨ (∃ h, l.highway? = some h ∧ exec (.deferralGrant h) s ≠ .next s) →
        exec (.freedSpaceAttempts l) s = .next s)

/-! ## Frames and requests -/

/-- A frame laid out as R188 says, behind bytes that hold no start delimiter, enters the inbound FIFO of a link that is UP and
has room, with the tag, kind and body it was made of; and so does one whose first bytes the receiver holds already. Nothing
else changes. Every frame the part sends is laid out the same way, with at most 272 bytes from its tag to its last body byte, so
that the same scan finds it whole: a reply has its request's tag and begins with its status code, a notice has tag 00h and a
notice kind, and the bodies that chapter 10.3 measures have their lengths (R175, R188, R189). The bodies that chapter 10 does not
lay out, which the bound also covers, are the model's choice (log entry 12). -/
def Obligations.FrameRoundTrip : Prop :=
  (∀ (l : Link) (s : State) (tag kind : Byte) (body : List Byte),
    (s.link l).up = true → (s.link l).inbound.length < 16 → body.length ≤ 270 →
    (∀ junk : List Byte, (s.link l).receiving = [] → (∀ b ∈ junk, b ≠ 0xA5) →
      exec (.frameReceived l (junk ++ frameOf tag kind body)) s
        = .next (s.setLink l { s.link l with inbound := (s.link l).inbound ++ [{ tag := tag, kind := kind, body := body }] }))
    ∧ ∀ k : Nat, (s.link l).receiving = (frameOf tag kind body).take k →
      exec (.frameReceived l ((frameOf tag kind body).drop k)) s
        = .next (s.setLink l { s.link l with receiving := []
                                             inbound := (s.link l).inbound ++ [{ tag := tag, kind := kind, body := body }] }))
  ∧ (∀ x : OutEntry, x.ListsBounded →
    x.content.body.length ≤ 270 ∧ x.frame.length = x.content.body.length + 7
    ∧ scanFrame x.frame = .frame x.content true []
    ∧ (∀ r, x = .reply r → x.content.tag = r.tag ∧ x.content.kind = r.kind ∧ x.content.body.head? = some r.status.code)
    ∧ ∀ n, x = .notice n → x.content.tag = 0x00 ∧ 0x40 ≤ x.content.kind.toNat ∧ x.content.kind.toNat ≤ 0x49)
  ∧ ∀ n : Notice, n.body.length = match n with
    | .offer .. => 20
    | .offerCancel .. => 7
    | .connect .. => 16
    | .listen .. => 8
    | .callExit .. => 7
    | _ => n.body.length

/-- A frame with an impossible length, one whose check does not agree, and one that meets a full FIFO: nothing enters the
FIFO, the fault count rises and the FAULT is given (R175, R176). That a BAD_LENGTH FAULT carries neither tag nor kind is the
model's choice (log entry 12). -/
def Obligations.FaultyFramesCounted : Prop :=
  ∀ (l : Link) (s : State), (s.link l).up = true → (s.link l).receiving = [] →
    (∀ n, (n < 2 ∨ 272 < n) → n < 65536 →
      exec (.frameReceived l (0xA5 :: bytes16 n)) s = .next (s.faulted l .badLength none))
    ∧ (∀ (tag kind : Byte) (body : List Byte) (check : Nat), body.length ≤ 270 → check < 65536 →
      check ≠ byteSum (bytes16 (body.length + 2) ++ tag :: kind :: body) →
      exec (.frameReceived l (0xA5 :: bytes16 (body.length + 2) ++ tag :: kind :: body ++ bytes16 check)) s
        = .next (s.faulted l .badCheck (some (tag, kind))))
    ∧ ∀ (tag kind : Byte) (body : List Byte), body.length ≤ 270 → 16 ≤ (s.link l).inbound.length →
      exec (.frameReceived l (frameOf tag kind body)) s = .next (s.faulted l .overrun (some (tag, kind)))

/-- The readers of the request bodies find the fields that the bytes of R189 and R190 spell, at every value the encodings
admit: every request kind, with every field mask of QUEUE_SET, AGENT_UPDATE, PORT_SET and STATS_CLEAR and every presence
indication. -/
def Obligations.RequestBodiesRoundTrip : Prop :=
  (∀ n, n < 65536 → readSlot (bytes16 n) = some n)
    ∧ (∀ n, n < 256 → readByte [byte1 n] = some n)
    ∧ readEmpty [] = some ()
    ∧ (∀ l : Link, readPortRead [match l with | .a => 0x00 | .b => 0x01 | .s => 0x02] = some l)
    ∧ (∀ (ref key : Word32) (q p : Nat), q < 256 → p < 256 →
      readCallEnter (bytes32 ref ++ [byte1 q, byte1 p] ++ bytes32 key)
        = some { ref := ref, queue := q, priority := p, key := key })
    ∧ (∀ (slot miss penalty : Nat) (id : Word32) (manual : Bool) (skills : List Skill), slot < 65536 → miss < 256 →
      penalty < 65536 → skills.length ≤ 8 → (∀ k ∈ skills, k.queue < 256 ∧ k.proficiency < 256) →
      readLogin (bytes16 slot ++ bytes32 id ++ [byte1 miss, boolByte manual] ++ bytes16 penalty ++ [byte1 skills.length]
          ++ skills.flatMap Skill.bytes)
        = some { slot := slot, id := id, missLimit := miss, exitType := if manual then .manual else .timed,
                 penalty := penalty, skills := skills })
    ∧ (∀ slot reason : Nat, slot < 65536 → reason < 256 →
      readNotReady (bytes16 slot ++ [byte1 reason]) = some { slot := slot, reason := reason })
    ∧ (∀ (slot mask miss penalty : Nat) (id : Word32) (manual : Bool) (skills : List Skill), slot < 65536 → mask < 32 →
      miss < 256 → penalty < 65536 → skills.length ≤ 8 → (∀ k ∈ skills, k.queue < 256 ∧ k.proficiency < 256) →
      readUpdate (bytes16 slot ++ bytes16 mask ++ bytes32 id ++ [byte1 miss, boolByte manual] ++ bytes16 penalty
          ++ [byte1 skills.length] ++ skills.flatMap Skill.bytes)
        = some { slot := slot
                 skills := if mask.testBit 0 then some skills else none
                 missLimit := if mask.testBit 1 then some miss else none
                 exitType := if mask.testBit 2 then some (if manual then .manual else .timed) else none
                 penalty := if mask.testBit 3 then some penalty else none
                 id := if mask.testBit 4 then some id else none })
    ∧ (∀ (slot reason : Nat) (action : ForceAction), slot < 65536 → reason < 256 →
      readForce (bytes16 slot ++ [match action with | .logout => 0x01 | .notReady => 0x02 | .logoutNow => 0x03, byte1 reason])
        = some { slot := slot, action := action, reason := reason })
    ∧ (∀ slot requested : Nat, slot < 65536 → requested < 65536 →
      readExtend (bytes16 slot ++ bytes16 requested) = some { slot := slot, requested := requested })
    ∧ (∀ (slot : Nat) (token : Token) (accepts : Bool), slot < 65536 →
      readOfferReply (bytes16 slot ++ bytes16 token.toNat ++ [if accepts then 0x01 else 0x02])
        = some { slot := slot, token := token, accepts := accepts })
    ∧ (∀ (c : QueueConfig) (q mask : Nat), q < 256 → mask < 65536 → c.minProficiency < 256 → c.ringTime < 65536 →
      c.wrapLimit < 65536 → c.maxExtension < 65536 → c.serviceThreshold < 65536 → c.agingInterval < 65536 →
      c.upper < 65536 → c.lower < 65536 → (∀ t, c.overflowTarget = some t → t < 256) →
      (∀ w, c.maxWait = some w → w < 65536) → c.pattern < 256 → c.shift < 256 → c.initialHandle < 65536 →
      readQueueSet (c.bytes q mask)
        = some { queue := q
                 enabled := if mask.testBit 0 then some c.enabled else none
                 minProficiency := if mask.testBit 1 then some c.minProficiency else none
                 ringTime := if mask.testBit 2 then some c.ringTime else none
                 wrapLimit := if mask.testBit 3 then some c.wrapLimit else none
                 maxExtension := if mask.testBit 4 then some c.maxExtension else none
                 serviceThreshold := if mask.testBit 5 then some c.serviceThreshold else none
                 agingInterval := if mask.testBit 6 then some c.agingInterval else none
                 upper := if mask.testBit 7 then some c.upper else none
                 lower := if mask.testBit 8 then some c.lower else none
                 overflowTarget := if mask.testBit 9 then some c.overflowTarget else none
                 maxWait := if mask.testBit 10 then some c.maxWait else none
                 pattern := if mask.testBit 11 then some c.pattern else none
                 affinity := if mask.testBit 12 then some c.affinity else none
                 shift := if mask.testBit 13 then some c.shift else none
                 initialHandle := if mask.testBit 14 then some c.initialHandle else none
                 reseed := mask.testBit 15 })
    ∧ (∀ (bank pattern : Nat) (steps : List PatternStep), bank < 256 → pattern < 256 → steps.length ≤ 16 →
      (∀ step ∈ steps, step.inRange) →
      readPatternWrite ([byte1 bank, byte1 pattern, byte1 steps.length] ++ steps.flatMap PatternStep.bytes)
        = some { bank := bank, pattern := pattern, steps := steps })
    ∧ (∀ (segment first blocks last : Nat) (defined : Bool), segment < 65536 → first < 65536 → blocks < 65536 →
      last < 65536 →
      readSegmentSet (bytes16 segment ++ [boolByte defined] ++ bytes16 first ++ bytes16 blocks ++ bytes16 last)
        = some { segment := segment, entry := if defined then some (first, blocks, last) else none })
    ∧ (∀ (block : Nat) (bytes : List Byte), block < 65536 → 1 ≤ bytes.length → bytes.length ≤ 256 →
      readSampleWrite (bytes16 block ++ bytes16 bytes.length ++ bytes) = some { block := block, bytes := bytes })
    ∧ (∀ (n start : Nat) (tracks : List Nat) (interleaved : Bool), n < 256 → start < 256 → tracks.length ≤ 8 →
      (∀ g ∈ tracks, g < 65536) →
      readProgrammeSet ([byte1 n, byte1 tracks.length] ++ tracks.flatMap bytes16 ++ [boolByte interleaved, byte1 start])
        = some { programme := n, tracks := tracks, order := if interleaved then .interleaved else .linear, start := start })
    ∧ (∀ (n : Nat) (action : ProgrammeAction), n < 256 →
      readProgrammeControl [byte1 n, match action with | .run => 0x01 | .pause => 0x02 | .stop => 0x03]
        = some { programme := n, action := action })
    ∧ (∀ v : Vocabulary, v.base < 65536 →
      (∀ o ∈ [v.posBefore, v.posAfter, v.waitBefore, v.waitAfter, v.waitUnknown], ∀ g, o = some g → g < 65536) →
      readVocabulary (bytes16 v.base ++ optionBytes bytes16 v.posBefore ++ optionBytes bytes16 v.posAfter
          ++ optionBytes bytes16 v.waitBefore ++ optionBytes bytes16 v.waitAfter ++ optionBytes bytes16 v.waitUnknown)
        = some v)
    ∧ (∀ (silence : Byte) (limit : Nat), limit < 65536 →
      readTreatmentSet (silence :: bytes16 limit) = some { silence := silence, deferLimit := limit })
    ∧ (∀ (l : Link) (p : Permissions) (n : Enables),
      let bit (b : Bool) (n : Nat) : Nat := if b then n else 0
      readPortSet [match l with | .a => 0x00 | .b => 0x01 | .s => 0x02,
          byte1 (bit p.calls 1 + bit p.agents 2 + bit p.config 4 + bit p.stats 8),
          byte1 (bit n.monitoring 1 + bit n.stats 2 + bit n.faults 4)]
        = some { link := l, permissions := p, enables := n })
    ∧ (∀ (q mask : Nat) (keep : Bool), q < 256 → mask < 512 →
      readStatsClear ([byte1 q] ++ bytes16 mask ++ [boolByte keep]) = some { queue := q, mask := mask, keepFlags := keep })
    ∧ ∀ (slot : Nat) (clear : Bool), slot < 65536 →
      readAgentRead (bytes16 slot ++ [boolByte clear]) = some { slot := slot, clear := clear }

/-- Every request, whatever its kind byte and body, is taken by exactly one command of its link; it is taken whole and answered
once: it leaves the FIFO, and one reply with its tag, and its kind plus 80h or FFh for an unknown kind, joins the tail of its
link's outbound queue; no other link gets a reply or loses a request (R177, R178, R188). ENGINE_RESET, which discards notices,
keeps every reply (R187). That the reply stands before any notice of the event is the model's reading (log entry 4), and that
exactly one command takes a request rests on how the model assigns the requests to the rows of the table (log entry 10). -/
def Obligations.TakenRequestGetsOneReply : Prop :=
  (∀ (l : Link) (r : Request), ∃ c : Instr, c.takes l r = true ∧ ∀ d : Instr, d.takes l r = true → d = c)
  ∧ ∀ (c : Instr) (l : Link) (r : Request) (s : State), c.takes l r = true → s.Taking l r →
    ∃ (t : State) (reply : Reply), exec c s = .next t ∧ reply.tag = r.tag
      ∧ reply.kind = (if c = .unknownKindRequest l then 0xFF else r.kind + 0x80)
      ∧ (c ≠ .engineReset l → s.Replied t l reply)
      ∧ (t.link l).inbound = (s.link l).inbound.tail
      ∧ (t.link l).outbound.filter (fun x => !x.isNotice)
          = (s.link l).outbound.filter (fun x => !x.isNotice) ++ [.reply reply]
      ∧ ∀ k, k ≠ l → (t.link k).inbound = (s.link k).inbound
        ∧ (t.link k).outbound.filter (fun x => !x.isNotice) = (s.link k).outbound.filter (fun x => !x.isNotice)

/-- Checks 1 to 3 of R177: an unknown kind is refused MALFORMED with kind FFh, a request whose class the link does not hold is
refused NOT_PERMITTED, as is a CALL_ENTER of Link S (R44), and one whose body is not well formed is refused MALFORMED. Nothing
else changes, but for the fault handling of R175 after MALFORMED. -/
def Obligations.RefusedRequestsChangeNothingElse : Prop :=
  ∀ (c : Instr) (l : Link) (r : Request) (s : State), c.takes l r = true → s.Taking l r →
    (c = .unknownKindRequest l →
      exec c s = .next ((s.repliedWith l { tag := r.tag, kind := 0xFF, status := .malformed, result := .bare }).faulted l
        .malformed (some (r.tag, r.kind))))
    ∧ (c = .callEnter .s → exec c s = .next (s.answered l r .notPermitted .bare))
    ∧ ∀ cls, c.requestClass = some cls →
      ((s.link l).permissions.holds cls = false → exec c s = .next (s.answered l r .notPermitted (c.refusal s)))
      ∧ ((s.link l).permissions.holds cls = true → c.readsBody r.body = false → c ≠ .callEnter .s →
        exec c s = .next ((s.answered l r .malformed (c.refusal s)).faulted l .malformed (some (r.tag, r.kind))))

/-! ## Configuration requests -/

/-- VOCABULARY_SET replaces the whole record when every number it marks present is in range, and is refused NO_SUCH otherwise
(R110); TREATMENT_SET replaces the silence byte and the defer limit (R146); PORT_SET replaces a link's permission set and
enables, unless no link would hold CONFIG after it (R181). -/
def Obligations.RecordReplacingRequests : Prop :=
  ∀ (l : Link) (r : Request) (s : State),
    (∀ v, s.Served l r 0x16 .config → readVocabulary r.body = some v →
      ((v.base ≤ 483 ∧ ∀ o ∈ [v.posBefore, v.posAfter, v.waitBefore, v.waitAfter, v.waitUnknown], ∀ g, o = some g → g < 512) →
        exec (.vocabularySet l) s = .next ({ s with vocabulary := v }.answered l r .done (.vocabulary v)))
      ∧ (¬(v.base ≤ 483
            ∧ ∀ o ∈ [v.posBefore, v.posAfter, v.waitBefore, v.waitAfter, v.waitUnknown], ∀ g, o = some g → g < 512) →
        exec (.vocabularySet l) s = .next (s.answered l r .noSuch .bare)))
    ∧ (∀ b, s.Served l r 0x17 .config → readTreatmentSet r.body = some b →
      exec (.treatmentSet l) s = .next ({ s with silence := b.silence, deferLimit := b.deferLimit }.answered l r .done
        (.treatment b.silence b.deferLimit)))
    ∧ ∀ b, s.Served l r 0x18 .config → readPortSet r.body = some b →
      let t := s.setLink b.link { s.link b.link with permissions := b.permissions, enables := b.enables }
      ((∃ k, (t.link k).permissions.config = true) →
        exec (.portSet l) s = .next (t.answered l r .done (.port b.permissions b.enables)))
      ∧ ((∀ k, (t.link k).permissions.config = false) →
        exec (.portSet l) s = .next (s.answered l r .stateConflict .bare))

/-- The four bank requests: BANK_OPEN, BANK_CLOSE and BANK_ACTIVATE with every outcome (R119 to R121), and PATTERN_WRITE, which
replaces one pattern of the open bank whole, and is refused for a bank or pattern number out of range and for a bank that is not
open (R122). Every reply carries the bank status after the request. -/
def Obligations.BankRequests : Prop :=
  (∀ (l : Link) (r : Request) (s : State) (n : Nat), readByte r.body = some n →
    (s.Served l r 0x0E .config ∨ s.Served l r 0x10 .config ∨ s.Served l r 0x11 .config → 2 ≤ n →
      ∀ c, c.takes l r = true → exec c s = .next (s.answered l r .noSuch (.bank s.bankStatus none)))
    ∧ ∀ b : Bank, n = (match b with | .bank0 => 0 | .bank1 => 1) →
      (s.Served l r 0x0E .config →
        (s.openBank = some b → exec (.bankOpen l) s = .next (s.answered l r .done (.bank s.bankStatus none)))
        ∧ (s.openBank ≠ some b → s.openBank ≠ none →
          exec (.bankOpen l) s = .next (s.answered l r .stateConflict (.bank s.bankStatus none)))
        ∧ (s.openBank = none → (s.activeBank = b ∨ 0 < s.refs b) →
          exec (.bankOpen l) s = .next (s.answered l r .bankInUse (.bank s.bankStatus none)))
        ∧ (s.openBank = none → s.activeBank ≠ b → s.refs b = 0 →
          exec (.bankOpen l) s = .next ({ s with openBank := some b }.answered l r .done
            (.bank { active := s.activeBank, opened := some b, count0 := s.refs0, count1 := s.refs1 } none))))
      ∧ (s.Served l r 0x10 .config →
        (s.openBank = some b →
          exec (.bankClose l) s = .next ({ s with openBank := none }.answered l r .done
            (.bank { active := s.activeBank, opened := none, count0 := s.refs0, count1 := s.refs1 } none)))
        ∧ (s.openBank ≠ some b →
          exec (.bankClose l) s = .next (s.answered l r .bankNotOpen (.bank s.bankStatus none))))
      ∧ (s.Served l r 0x11 .config →
        (s.openBank = some b → exec (.bankActivate l) s = .next (s.answered l r .stateConflict (.bank s.bankStatus none)))
        ∧ (s.openBank ≠ some b →
          exec (.bankActivate l) s = .next ({ s with activeBank := b }.answered l r .done
            (.bank { active := b, opened := s.openBank, count0 := s.refs0, count1 := s.refs1 } none)))))
  ∧ ∀ (l : Link) (r : Request) (s : State) (b : PatternWriteBody), s.Served l r 0x0F .config →
    readPatternWrite r.body = some b →
    ((2 ≤ b.bank ∨ 32 ≤ b.pattern) →
      exec (.patternWrite l) s = .next (s.answered l r .noSuch (.bank s.bankStatus none)))
    ∧ ∀ k : Bank, b.bank = (match k with | .bank0 => 0 | .bank1 => 1) → b.pattern < 32 →
      (s.openBank ≠ some k →
        exec (.patternWrite l) s = .next (s.answered l r .bankNotOpen (.bank s.bankStatus none)))
      ∧ (s.openBank = some k → ∃ t, exec (.patternWrite l) s = .next t
        ∧ t = { s with patterns0 := t.patterns0, patterns1 := t.patterns1 }.answered l r .done
            (.bank s.bankStatus (some b.steps.length))
        ∧ ∀ bank p, t.pattern bank p = if bank = k ∧ p = b.pattern then b.steps else s.pattern bank p)

/-- QUEUE_SET: a number out of range is refused; otherwise each masked field is clamped and stored and the others kept. What
else it does is listed: the recount, the promotion deadlines, the closed flag and the reseed. When it lowers the minimum
proficiency, the distribution attempts for the queue follow, repeated, from the state so made, and their offers are all that
comes of it but monitoring notices (R32 to R34, R43, R59, R60, R98, R103). That the reply stands before the OFFERs of those
attempts is the model's reading of "a reply is queued at once" (R47; log entry 4). -/
def Obligations.QueueSetStoresFields : Prop :=
  ∀ (l : Link) (r : Request) (s : State) (b : QueueSetBody), s.Served l r 0x0C .config →
    readQueueSet r.body = some b →
    ((64 ≤ b.queue ∨ (∃ p, b.pattern = some p ∧ 32 ≤ p) ∨ (∃ t, b.overflowTarget = some (some t) ∧ 64 ≤ t)) →
      exec (.queueSet l) s = .next (s.answered l r .noSuch .bare))
    ∧ (b.queue < 64 → (∀ p, b.pattern = some p → p < 32) → (∀ t, b.overflowTarget = some (some t) → t < 64) →
      let old := (s.queue b.queue).config
      let upper := match b.upper with | some n => max 1 (min 2048 n) | none => old.upper
      let new : QueueConfig :=
        { enabled := b.enabled.getD old.enabled
          minProficiency := match b.minProficiency with | some n => max 1 (min 15 n) | none => old.minProficiency
          ringTime := match b.ringTime with | some n => max 10 (min 600 n) | none => old.ringTime
          wrapLimit := b.wrapLimit.getD old.wrapLimit
          maxExtension := b.maxExtension.getD old.maxExtension
          serviceThreshold := b.serviceThreshold.getD old.serviceThreshold
          agingInterval := b.agingInterval.getD old.agingInterval
          upper := upper
          lower := match b.lower, b.upper with
            | some n, _ => min (max 1 (min 2048 n)) upper
            | none, some _ => min old.lower upper
            | none, none => old.lower
          overflowTarget := match b.overflowTarget with
            | none => old.overflowTarget
            | some none => none
            | some (some t) => if t = b.queue then none else some t
          maxWait := match b.maxWait with
            | none => old.maxWait
            | some none => none
            | some (some w) => some (max 1 (min 65534 w))
          pattern := b.pattern.getD old.pattern
          affinity := b.affinity.getD old.affinity
          shift := match b.shift with | some n => max 1 (min 8 n) | none => old.shift
          initialHandle := match b.initialHandle with | some n => max 1 n | none => old.initialHandle }
      let stored (t : State) : Prop :=
        s.SameAgents t ∧ s.SamePlayout t ∧ t.settings = s.settings ∧ s.SameLinks t ∧ s.SameQueuesBut t b.queue
        ∧ (∀ k, (t.link k).reserved = (s.link k).reserved ∧ (t.link k).exitOrder = (s.link k).exitOrder
          ∧ (t.link k).listenOrder = (s.link k).listenOrder)
        ∧ (t.queue b.queue).config = new
        ∧ (t.queue b.queue).order = (s.queue b.queue).order ∧ (t.queue b.queue).stats = (s.queue b.queue).stats
        ∧ (t.queue b.queue).weight = (if b.minProficiency.isSome then
            (s.setQueue b.queue { s.queue b.queue with config := new }).weightSum b.queue
          else (s.queue b.queue).weight)
        ∧ (t.queue b.queue).aht = (if b.reseed then new.initialHandle * 16 else (s.queue b.queue).aht)
        ∧ (t.queue b.queue).closed = (if b.upper.isSome || b.lower.isSome then
            if (s.queue b.queue).closed then !decide ((s.queue b.queue).order.length < new.lower)
            else decide (new.upper ≤ (s.queue b.queue).order.length)
          else (s.queue b.queue).closed)
        ∧ ∀ y, t.call? y = (s.call? y).map fun c =>
            if b.agingInterval.isSome ∧ y ∈ (s.queue b.queue).order ∧ c.band < 7 ∧ c.exitPending = none then
              if new.agingInterval = 0 then { c with promotion := none }
              else if old.agingInterval = 0 then
                { c with promotion := some (s.tick + BitVec.ofNat 32 new.agingInterval) }
              else c
            else c
      ∃ t, exec (.queueSet l) s = .next t ∧ s.Replied t l (r.answer .done (.queueConfig new))
        ∧ (∀ q, (t.queue q).config = if q = b.queue then new else (s.queue q).config)
        ∧ (old.minProficiency ≤ new.minProficiency → stored t)
        ∧ (new.minProficiency < old.minProficiency → ∃ (m u : State) (os : List Pairing),
          stored m
          ∧ (∀ k, (m.link k).outbound = (s.link k).outbound
            ++ (if k = l then [.reply (r.answer .done (.queueConfig new))] else []))
          ∧ State.Attempts b.queue m os u
          ∧ t = { u with linkA := t.linkA, linkB := t.linkB, linkS := t.linkS } ∧ u.SameLinks t
          ∧ ∀ k, (t.link k).reserved = (u.link k).reserved ∧ (t.link k).exitOrder = (u.link k).exitOrder
            ∧ (t.link k).listenOrder = (u.link k).listenOrder
            ∧ ∃ ns : List Notice, (t.link k).outbound = (u.link k).outbound ++ ns.map OutEntry.notice))

/-- ENGINE_RESET: what it clears and what it keeps (R187, with R29, R35, R54, R82, R162, R174). That it keeps the bytes that each
link's receiver holds of a frame not ended is the model's choice (log entry 23). -/
def Obligations.EngineResetClearsAndKeeps : Prop :=
  ∀ (l : Link) (r : Request) (s : State), s.Served l r 0x19 .config → r.body = [] → s.TablesRising →
    ∃ t, exec (.engineReset l) s = .next t
      ∧ (∀ k, (t.link k).outbound = (s.link k).outbound.filter (fun x => !x.isNotice)
          ++ (if k = l then [.reply (r.answer .done (.engineReset s.tick))] else [])
          ++ (if (s.link k).up then [.notice (.engineRestarted s.tick)] else []))
      ∧ (∀ k, (t.link k).inbound = (if k = l then (s.link k).inbound.tail else (s.link k).inbound)
        ∧ (t.link k).reserved = 0 ∧ (t.link k).exitOrder = [] ∧ (t.link k).listenOrder = []
        ∧ (t.link k).dropped = (s.link k).dropped)
      ∧ s.SameLinks t ∧ t.settings = s.settings ∧ t.token = s.token
      ∧ (∀ x, t.agent x = Agent.reset) ∧ t.available = [] ∧ (∀ y, t.call? y = none) ∧ t.recent = []
      ∧ (∀ q, t.queue q = { config := (s.queue q).config, order := [], closed := false,
                            aht := (s.queue q).config.initialHandle * 16, weight := 0, stats := Statistics.zero })
      ∧ (∀ b, t.refs b = 0) ∧ (∀ h ts, t.channel h ts = Channel.free)
      ∧ (∀ h, (t.highway h).deferral = [] ∧ (t.highway h).output = (s.highway h).output)
      ∧ ∀ g, t.useCount g =
          (s.programmes.filter fun e => decide (e.2.state ≠ .stopped) && decide (g ∈ e.2.tracks)).length

/-! ## Audio requests -/

/-- SAMPLE_WRITE is refused NOT_PERMITTED without CONFIG, MALFORMED where its body is not well formed, as with a byte count of 0 or
above 256, and NO_SUCH for a block above 16383, in that order. When taken, it writes its bytes into the block from byte 0 upward, and
no other byte of the store changes; the reply carries the block and the count. A segment's bytes are those of the store as it is
after the write, and so are the bytes that the next frame places (R142). -/
def Obligations.SampleWriteStoresBytes : Prop :=
  (∀ (l : Link) (r : Request) (s : State), s.Taking l r → r.kind = 0x13 →
    ((s.link l).permissions.config = false → exec (.sampleWrite l) s = .next (s.answered l r .notPermitted .bare))
    ∧ ((s.link l).permissions.config = true → readSampleWrite r.body = none →
      exec (.sampleWrite l) s = .next ((s.answered l r .malformed .bare).faulted l .malformed (some (r.tag, r.kind))))
    ∧ ∀ b, (s.link l).permissions.config = true → readSampleWrite r.body = some b →
      (16384 ≤ b.block → exec (.sampleWrite l) s = .next (s.answered l r .noSuch .bare))
      ∧ (b.block < 16384 → ∃ t, exec (.sampleWrite l) s = .next t
        ∧ t = { s with store := t.store }.answered l r .done (.sample b.block b.bytes.length)
        ∧ (∀ a, Memory.read t.store a =
            if b.block * 256 ≤ a ∧ a < b.block * 256 + b.bytes.length then b.bytes.getD (a - b.block * 256) 0
            else Memory.read s.store a)
        ∧ (∀ g e offset, s.segment? g = some e → t.segmentByte g offset = Memory.read t.store (e.first * 256 + offset))
        ∧ ∀ h, t.frameBytes h = { s with store := t.store }.frameBytes h))
  ∧ ∀ (block count : Nat) (bytes : List Byte), count < 65536 → count = 0 ∨ 256 < count →
    readSampleWrite (bytes16 block ++ bytes16 count ++ bytes) = none

/-- SEGMENT_SET defines a segment with its values brought into range, or makes it undefined, and is refused for a number out of
range and for a segment in use (R143); PROGRAMME_SET stores a STOPPED programme at its start, and is refused for a number out
of range and for a programme that is not STOPPED (R147). -/
def Obligations.SegmentAndProgrammeSetStoreEntries : Prop :=
  (∀ (l : Link) (r : Request) (s : State) (b : SegmentSetBody), s.Served l r 0x12 .config →
    readSegmentSet r.body = some b →
    ((512 ≤ b.segment ∨ ∃ v, b.entry = some v ∧ 16384 ≤ v.1) →
      exec (.segmentSet l) s = .next (s.answered l r .noSuch .bare))
    ∧ (b.segment < 512 → (∀ v, b.entry = some v → v.1 < 16384) →
      (0 < s.useCount b.segment → exec (.segmentSet l) s = .next (s.answered l r .inUse .bare))
      ∧ (s.useCount b.segment = 0 →
        let stored : Option Segment := b.entry.map fun v =>
          { first := v.1, blocks := min (max 1 (min 1024 v.2.1)) (16384 - v.1), lastBytes := max 1 (min 256 v.2.2) }
        ∃ t, exec (.segmentSet l) s = .next t
          ∧ t = { s with segments := t.segments }.answered l r .done (.segment stored 0)
          ∧ ∀ g, t.segment? g = if g = b.segment then stored else s.segment? g)))
  ∧ ∀ (l : Link) (r : Request) (s : State) (b : ProgrammeSetBody), s.Served l r 0x14 .config →
    readProgrammeSet r.body = some b →
    ((8 ≤ b.programme ∨ ∃ g ∈ b.tracks, 512 ≤ g) →
      exec (.programmeSet l) s = .next (s.answered l r .noSuch .bare))
    ∧ (b.programme < 8 → (∀ g ∈ b.tracks, g < 512) →
      ((s.programme b.programme).state ≠ .stopped →
        exec (.programmeSet l) s = .next (s.answered l r .inUse .bare))
      ∧ ((s.programme b.programme).state = .stopped →
        let stored : Programme :=
          { tracks := b.tracks, order := b.order, start := if b.tracks = [] then 0 else b.start % b.tracks.length,
            state := .stopped, counter := 0, offset := 0 }
        ∃ t, exec (.programmeSet l) s = .next t
          ∧ t = { s with programmes := t.programmes }.answered l r .done (.programme stored)
          ∧ ∀ n, t.programme n = if n = b.programme then stored else s.programme n))

/-- PROGRAMME_CONTROL with RUN, PAUSE and STOP, in each state of a programme, with the use counts of its tracks (R144,
R150). -/
def Obligations.ProgrammeControlActs : Prop :=
  ∀ (l : Link) (r : Request) (s : State) (b : ProgrammeControlBody), s.Served l r 0x15 .config →
    readProgrammeControl r.body = some b →
    let command : Instr := match b.action with | .run => .run l | .pause => .pause l | .stop => .stop l
    let p := s.programme b.programme
    (8 ≤ b.programme → exec command s = .next (s.answered l r .noSuch .bare))
    ∧ (b.programme < 8 → b.action = .pause → p.state = .stopped →
      exec command s = .next (s.answered l r .stateConflict .bare))
    ∧ (b.programme < 8 → ¬(b.action = .pause ∧ p.state = .stopped) →
      let p' : Programme := match b.action, p.state with
        | .run, .stopped => { p with state := .running, counter := 0, offset := 0 }
        | .run, .paused => { p with state := .running }
        | .pause, .running => { p with state := .paused }
        | .stop, .running => { p with state := .stopped, counter := 0, offset := 0 }
        | .stop, .paused => { p with state := .stopped, counter := 0, offset := 0 }
        | _, _ => p
      ∃ t, exec command s = .next t
        ∧ t = { s with useCounts := t.useCounts, programmes := t.programmes }.answered l r .done
            (.programmeState p'.state p'.counter p'.offset)
        ∧ (∀ n, t.programme n = if n = b.programme then p' else s.programme n)
        ∧ ∀ g, t.useCount g =
            if g ∈ p.tracks ∧ b.action = .run ∧ p.state = .stopped then s.useCount g + 1
            else if g ∈ p.tracks ∧ b.action = .stop ∧ p.state ≠ .stopped then s.useCount g - 1
            else s.useCount g)

/-! ## Read requests -/

/-- STATS_READ, QUEUE_READ, CALL_READ, AGENT_READ and PORT_READ report the records as they stand and change nothing but what
they clear (R96, R105, R166, R168, R169). -/
def Obligations.ReadsReportRecords : Prop :=
  ∀ (l : Link) (r : Request) (s : State),
    (∀ q, s.Served l r 0x1A .stats → readByte r.body = some q →
      exec (.statsRead l) s = .next (if q < 64 then s.answered l r .done (.stats q s.tick (s.queue q).stats)
        else s.answered l r .noSuch .bare))
    ∧ (∀ q, s.Served l r 0x1C .stats → readByte r.body = some q →
      exec (.queueRead l) s = .next (if q < 64 then
          let k := s.queue q
          let p := min 2048 (k.order.length + 1)
          s.answered l r .done (.queue k.config k.order.length k.closed k.aht k.weight
            (if k.weight = 0 then 65535 else min 65535 ((p * k.aht + k.weight - 1) / k.weight)))
        else s.answered l r .noSuch .bare))
    ∧ (∀ y, s.Served l r 0x1E .stats → readSlot r.body = some y →
      exec (.callRead l) s = .next (match s.call? y with
        | some c =>
            if y < 2048 then
              s.answered l r .done (.call c
                (c.owner.highway?.bind fun h => ((s.highway h).deferral.find? fun d => d.call == y).map (·.deadline))
                (c.owner.highway?.bind fun h => (s.heldTimeslot h y).map fun ts => (h, ts, (s.channel h ts).state)))
            else s.answered l r .noSuch .bare
        | none => s.answered l r .noSuch .bare))
    ∧ (∀ b, s.Served l r 0x1D .stats → readAgentRead r.body = some b →
      exec (.agentRead l) s = .next (if b.slot < 1024 then
          let a := s.agent b.slot
          let t := s.answered l r .done
            (.agentRecord a (if a.state = .available then some (s.available.idxOf b.slot + 1) else none))
          if b.clear then t.setAgent b.slot { a with handled := 0, talkTotal := 0, wrapTotal := 0, saturated := false } else t
        else s.answered l r .noSuch .bare))
    ∧ ∀ k, s.Served l r 0x1F .stats → readPortRead r.body = some k →
      let p := s.link k
      let notices := (p.outbound.filter OutEntry.isNotice).length
      let t := s.answered l r .done (.portRecord p.up p.permissions p.enables p.faultCount p.dropped notices p.reserved
        (if p.up then 48 - notices - p.reserved else 0)
        (k.highway?.map fun h =>
          { free := s.channelsIn h .free, bound := s.channelsIn h .bound, playing := s.channelsIn h .playing,
            draining := s.channelsIn h .draining, deferred := (s.highway h).deferral.length }))
      exec (.portRead l) s = .next (t.setLink k { t.link k with dropped := false })

/-- STATS_CLEAR: the reply carries the values before the clear; each counter named goes to 0 and loses its wrap flag unless the
flags are kept, and the peak named becomes the waiting count (R167). That the reply carries the queue and the tick count too is the
model's choice (log entry 25). -/
def Obligations.StatsClearZeroesNamedCounters : Prop :=
  ∀ (l : Link) (r : Request) (s : State) (b : StatsClearBody), s.Served l r 0x1B .stats →
    readStatsClear r.body = some b →
    (64 ≤ b.queue → exec (.statsClear l) s = .next (s.answered l r .noSuch .bare))
    ∧ (b.queue < 64 → ∃ stats : Statistics,
      exec (.statsClear l) s =
        .next ((s.answered l r .done (.stats b.queue s.tick (s.queue b.queue).stats)).setQueue b.queue
          { s.queue b.queue with stats := stats })
      ∧ (∀ i n, CounterName.all[i]? = some n → stats.counter n =
          if b.mask.testBit i then
            { value := 0, wrapped := b.keepFlags && ((s.queue b.queue).stats.counter n).wrapped }
          else (s.queue b.queue).stats.counter n)
      ∧ stats.peak = if b.mask.testBit 8 then (s.queue b.queue).order.length else (s.queue b.queue).stats.peak)

/-! ## Agents -/

/-- AGENT_LOGIN: its checks, the record it makes, and the skill list it keeps: each queue given once, in the order in which the
queues first stand in the list given, with the clamped proficiency given there first (R4, R10, R11). That the login's own link is
told of it where its monitoring enable is set is the model's choice (log entry 22). -/
def Obligations.AgentLoginMakesRecord : Prop :=
  (∀ (l : Link) (r : Request) (s : State) (b : LoginBody), s.Served l r 0x04 .agents → readLogin r.body = some b →
    let a := s.agent b.slot
    ((1024 ≤ b.slot ∨ ∃ k ∈ b.skills, 64 ≤ k.queue) → exec (.agentLogin l) s = .next (s.answered l r .noSuch .bare))
    ∧ (b.slot < 1024 → (∀ k ∈ b.skills, k.queue < 64) →
      (l = .s → exec (.agentLogin l) s = .next (s.answered l r .notPermitted (.agent b.slot a.state a.pending)))
      ∧ (l ≠ .s → a.state ≠ .loggedOut →
        exec (.agentLogin l) s = .next (s.answered l r .stateConflict (.agent b.slot a.state a.pending)))
      ∧ (l ≠ .s → a.state = .loggedOut →
        exec (.agentLogin l) s =
          .next ((s.answered l r .done (.login b.slot .notReady .none (normalizeSkills b.skills).length)).agentOut b.slot
            { a with state := .notReady, home := some l, id := b.id, skills := normalizeSkills b.skills, reason := 0,
                     pending := .none, miss := 0, missLimit := min 7 b.missLimit, exitType := b.exitType,
                     penalty := max 1 b.penalty, penaltyDeadline := none, handled := 0, talkTotal := 0, wrapTotal := 0,
                     saturated := false } .request))))
    ∧ ∀ given : List Skill,
      ((normalizeSkills given).map (·.queue)).Nodup
      ∧ (∀ q, q ∈ (normalizeSkills given).map (·.queue) ↔ q ∈ given.map (·.queue))
      ∧ (∀ k ∈ normalizeSkills given, ∃ g, given.find? (fun x => x.queue == k.queue) = some g
        ∧ k.proficiency = max 1 (min 15 g.proficiency))
      ∧ (normalizeSkills given).Pairwise fun k m => given.findIdx (fun x => x.queue == k.queue)
        < given.findIdx (fun x => x.queue == m.queue)

/-- The checks of the agent requests of a home link: a slot out of range, an agent logged in by another link, and an agent that
is LOGGED_OUT (R4, R12, R13, R15, R19, R88, R90); and of AGENT_FORCE, which any link that holds CONFIG may send: a slot out of
range, and an agent that is LOGGED_OUT, for each of its three actions (R4, R22). That a WRAP_END or WRAP_EXTEND refused NOT_OWNER or STATE_CONFLICT replies with
the slot, the state and the pending value is the model's reading (log entry 11). -/
def Obligations.AgentRequestChecks : Prop :=
  (∀ (l : Link) (r : Request) (s : State) (c : Instr) (x : Nat),
    (c = .agentReady l ∧ s.Served l r 0x06 .agents ∧ readSlot r.body = some x)
      ∨ (c = .agentNotReady l ∧ s.Served l r 0x07 .agents ∧ ∃ n, readNotReady r.body = some { slot := x, reason := n })
      ∨ (c = .agentLogout l ∧ s.Served l r 0x05 .agents ∧ readSlot r.body = some x)
      ∨ (c = .agentUpdate l ∧ s.Served l r 0x08 .agents ∧ ∃ b, readUpdate r.body = some b ∧ b.slot = x
          ∧ ∀ ks k, b.skills = some ks → k ∈ ks → k.queue < 64)
      ∨ (c = .wrapEnd l ∧ s.Served l r 0x09 .agents ∧ readSlot r.body = some x)
      ∨ (c = .wrapExtend l ∧ s.Served l r 0x0A .agents ∧ ∃ n, readExtend r.body = some { slot := x, requested := n }) →
    let a := s.agent x
    (1024 ≤ x → exec c s = .next (s.answered l r .noSuch .bare))
    ∧ (x < 1024 → a.state ≠ .loggedOut → a.home ≠ some l →
      exec c s = .next (s.answered l r .notOwner (.agent x a.state a.pending)))
    ∧ (x < 1024 → a.state = .loggedOut →
      exec c s = .next (s.answered l r .stateConflict (.agent x a.state a.pending)))
    ∧ (x < 1024 → a.home = some l → a.state ≠ .wrapUp → (c = .wrapEnd l ∨ c = .wrapExtend l) →
      exec c s = .next (s.answered l r .stateConflict (.agent x a.state a.pending))))
  ∧ ∀ (l : Link) (r : Request) (s : State) (b : ForceBody), s.Served l r 0x0D .config → readForce r.body = some b →
    let c : Instr := match b.action with
      | .logout => .forceLogout l
      | .notReady => .forceNotReady l
      | .logoutNow => .forceLogoutNow l
    (1024 ≤ b.slot → exec c s = .next (s.answered l r .noSuch .bare))
    ∧ (b.slot < 1024 → (s.agent b.slot).state = .loggedOut →
      exec c s = .next (s.answered l r .stateConflict (.agent b.slot .loggedOut (s.agent b.slot).pending)))

/-- AGENT_READY in each state of a logged-in agent of the link, and the end of a penalty: the agent joins the tail of the
available list, and a waiting call that its attempt finds is offered to it at once (R7, R12, R27, R62). That the reply gives the
state AVAILABLE, before the attempt, and stands before its OFFER is the model's reading (R47's "a reply is queued at once"; log entry
4). -/
def Obligations.AgentBecomesAvailable : Prop :=
  (∀ (l : Link) (r : Request) (s : State) (x : Nat), s.Served l r 0x06 .agents → readSlot r.body = some x → x < 1024 →
    let a := s.agent x
    a.home = some l →
    (a.state = .available → exec (.agentReady l) s = .next (s.answered l r .done (.agent x .available a.pending)))
    ∧ (a.state = .notReady ∨ a.state = .inferredAbsent →
      exec (.agentReady l) s = .next ((s.answered l r .done (.agent x .available .none)).agentJoins x
        { a with state := .available, pending := .none, availSince := s.tick, miss := 0, penaltyDeadline := none } .request))
    ∧ (a.state = .reserved ∨ a.state = .busy ∨ a.state = .wrapUp →
      let pending : PendingChange := match a.pending with | .notReady _ => .none | p => p
      exec (.agentReady l) s =
        .next ((s.answered l r .done (.agent x a.state pending)).setAgent x { a with pending := pending })))
    ∧ ∀ (s : State) (x : Nat) (deadline : Tick), (s.agent x).penaltyDeadline = some deadline →
      0 ≤ (s.tick - deadline).toInt →
      exec (.penaltyExpiry x) s = .next (s.agentJoins x
        { s.agent x with state := .available, pending := .none, availSince := s.tick, miss := 0, penaltyDeadline := none }
        .expiry)

/-- AGENT_NOT_READY from the home link, and FORCE_NOT_READY from any link that holds CONFIG, in each state but LOGGED_OUT
(R8, R13, R14, R22). -/
def Obligations.AgentBecomesNotReady : Prop :=
  ∀ (l : Link) (r : Request) (s : State) (c : Instr) (x n : Nat) (cause : Cause),
    (c = .agentNotReady l ∧ s.Served l r 0x07 .agents ∧ readNotReady r.body = some { slot := x, reason := n }
        ∧ (s.agent x).home = some l ∧ cause = .request)
      ∨ (c = .forceNotReady l ∧ s.Served l r 0x0D .config ∧ readForce r.body = some { slot := x, action := .notReady, reason := n }
        ∧ cause = .force) →
    x < 1024 → (s.agent x).state ≠ .loggedOut →
    let a := s.agent x
    let reason := min 15 n
    let new : Agent :=
      match a.state with
      | .notReady => { a with reason := reason }
      | .inferredAbsent =>
          { a with state := .notReady, reason := reason, pending := .none, miss := 0, penaltyDeadline := none }
      | .reserved | .busy | .wrapUp => if a.pending = .logout then a else { a with pending := .notReady reason }
      | .available | .loggedOut => { a with state := .notReady, reason := reason, pending := .none }
    exec c s = .next ((s.answered l r .done (.agent x new.state new.pending)).agentOut x new cause)

/-- AGENT_LOGOUT and FORCE_LOGOUT of an agent that is BUSY or in WRAP_UP pend the logout; of an agent that is NOT_READY,
AVAILABLE or INFERRED_ABSENT, and FORCE_LOGOUT_NOW of one in BUSY or WRAP_UP too, they complete it at once (R15, R17, R18, R22,
R23, R66). -/
def Obligations.LogoutWithoutOffer : Prop :=
  ∀ (l : Link) (r : Request) (s : State) (c : Instr) (x : Nat) (cause : Cause),
    (c = .agentLogout l ∧ s.Served l r 0x05 .agents ∧ readSlot r.body = some x ∧ (s.agent x).home = some l
        ∧ cause = .request)
      ∨ (c = .forceLogout l ∧ s.Served l r 0x0D .config ∧ cause = .force
        ∧ ∃ n, readForce r.body = some { slot := x, action := .logout, reason := n })
      ∨ (c = .forceLogoutNow l ∧ s.Served l r 0x0D .config ∧ cause = .force
        ∧ ∃ n, readForce r.body = some { slot := x, action := .logoutNow, reason := n }) →
    x < 1024 →
    let a := s.agent x
    (c ≠ .forceLogoutNow l → (a.state = .busy ∨ a.state = .wrapUp) →
      exec c s = .next ((s.answered l r .done (.agent x a.state .logout)).setAgent x { a with pending := .logout }))
    ∧ ((a.state = .notReady ∨ a.state = .available ∨ a.state = .inferredAbsent
          ∨ (c = .forceLogoutNow l ∧ (a.state = .busy ∨ a.state = .wrapUp))) → a.offer = none →
      let t := s.answered l r .done (.agent x .loggedOut .none)
      let t := match a.call with
        | some y => t.updCall y fun k => { k with agent := none }
        | none => t
      exec c s = .next (t.agentLogsOut x cause))
    ∧ ((c = .forceLogout l ∨ c = .forceLogoutNow l) → a.state = .loggedOut →
      exec c s = .next (s.answered l r .stateConflict (.agent x .loggedOut a.pending)))

/-- A logout of a RESERVED agent takes its offer back from the agent's side: the call is WAITING again in its place, OFFER_CANCEL
goes out on the entry reserved for it, the owner link's reservation is released, and the logout is completed (R16, R78). That the
reply stands before the OFFER_CANCEL where the home link sent the request is the model's reading of "a reply is queued at once"
(R47; log entry 4). This covers the states in which no agent is AVAILABLE, the call's step is not held and nothing waits on the
owner link, so that no other work follows. -/
def Obligations.LogoutOfReservedAgent : Prop :=
  ∀ (l : Link) (r : Request) (s : State) (c : Instr) (x y : Nat) (cause : Cause) (k : Call) (o : CallOffer) (h : Link),
    (c = .agentLogout l ∧ s.Served l r 0x05 .agents ∧ readSlot r.body = some x ∧ (s.agent x).home = some l
        ∧ cause = .request)
      ∨ (c = .forceLogout l ∧ s.Served l r 0x0D .config ∧ cause = .force
        ∧ ∃ n, readForce r.body = some { slot := x, action := .logout, reason := n })
      ∨ (c = .forceLogoutNow l ∧ s.Served l r 0x0D .config ∧ cause = .force
        ∧ ∃ n, readForce r.body = some { slot := x, action := .logoutNow, reason := n }) →
    x < 1024 →
    let a := s.agent x
    a.state = .reserved → a.home = some h → a.call = none → a.offer = some { token := o.token, call := y } →
    s.call? y = some k → k.state = .offering → k.offer = some o → o.agent = x → (∀ t, k.treatment = some t → t.state ≠ .held) →
    0 < (s.link h).reserved → 0 < (s.link k.owner).reserved → (h = k.owner → 2 ≤ (s.link h).reserved) →
    s.available = [] → s.NothingWaits k.owner →
    let t := (s.answered l r .done (.agent x .loggedOut .none)).setCall y { k with state := .waiting, offer := none }
    let t := t.setAgent x { a with offer := none, lastOutcome := some .withdrawn }
    let t := t.setLink h { t.link h with
      outbound := (t.link h).outbound ++ [.notice (.offerCancel o.token x y .agentLoggedOut)]
      reserved := (t.link h).reserved - 1 }
    let t := t.setLink k.owner { t.link k.owner with reserved := (t.link k.owner).reserved - 1 }
    exec c s = .next (t.agentLogsOut x cause)

/-- AGENT_UPDATE applies each masked field, but not the skill list of a RESERVED agent, and an AVAILABLE agent whose skill list
was replaced gets its attempt (R19 to R21, R62). That the reply gives the state before the attempt and stands before its OFFER is
the model's reading (R47's "a reply is queued at once"; log entry 4). -/
def Obligations.AgentUpdateAppliesFields : Prop :=
  ∀ (l : Link) (r : Request) (s : State) (b : UpdateBody), s.Served l r 0x08 .agents → readUpdate r.body = some b →
    ((1024 ≤ b.slot ∨ ∃ ks, b.skills = some ks ∧ ∃ k ∈ ks, 64 ≤ k.queue) →
      exec (.agentUpdate l) s = .next (s.answered l r .noSuch .bare))
    ∧ (b.slot < 1024 → (∀ ks k, b.skills = some ks → k ∈ ks → k.queue < 64) → (s.agent b.slot).home = some l →
      (s.agent b.slot).state ≠ .loggedOut →
      let a := s.agent b.slot
      let skills := if a.state = .reserved then none else b.skills.map normalizeSkills
      let new : Agent :=
        { a with skills := skills.getD a.skills
                 missLimit := match b.missLimit with | some n => min 7 n | none => a.missLimit
                 exitType := b.exitType.getD a.exitType
                 penalty := match b.penalty with | some n => max 1 n | none => a.penalty
                 id := b.id.getD a.id }
      let bit (present : Bool) (n : Nat) : Nat := if present then n else 0
      let applied := bit skills.isSome 1 + bit b.missLimit.isSome 2 + bit b.exitType.isSome 4 + bit b.penalty.isSome 8
        + bit b.id.isSome 16
      let m := (s.answered l r .done (.update b.slot a.state a.pending applied)).settled b.slot new
        (if a.state = .available then s.available else s.available.filter (· != b.slot))
      exec (.agentUpdate l) s = .next (
        if a.state = .available ∧ skills.isSome then
          match m.bestCall new with
          | none => m
          | some (y, c) => (m.offerMade y c b.slot).agentReport b.slot new ((m.offerMade y c b.slot).agent b.slot) .offer
        else m))

/-- The attempt for an agent offers it the best call there is: among the first pairable candidates of the queues the agent is
qualified for, none has a higher band, nor an equal band and an earlier queue entry tick, and none of equal band and tick stands
in a lower queue; and it finds none only when there is none (R61). Ticks are compared as R184 compares them, for calls that
entered their queues less than 2^31 ticks ago. -/
def Obligations.AgentAttemptChoosesBestCall : Prop :=
  ∀ (s : State) (a : Agent), (∀ y c, s.call? y = some c → (s.tick - c.entry).toNat < 2 ^ 31) →
    let fits (y : Nat) : Prop := ∃ c, s.call? y = some c ∧ c.state = .waiting ∧ c.exitPending = none
      ∧ 0 < s.freeNotices c.owner ∧ s.pairable c a = true
    let first (q y : Nat) : Prop := q < 64 ∧ s.qualified a q = true
      ∧ ∃ before after, (s.queue q).order = before ++ y :: after ∧ fits y ∧ ∀ z ∈ before, ¬fits z
    (∀ y c, s.bestCall a = some (y, c) → s.call? y = some c
      ∧ ∃ p, first p y ∧ ∀ q z d, first q z → s.call? z = some d →
        d.band ≤ c.band ∧ (d.band = c.band → ¬ 0 < (c.entry - d.entry).toInt)
        ∧ (d.band = c.band → d.entry = c.entry → p ≤ q))
    ∧ (s.bestCall a = none ↔ ∀ q y, ¬first q y)

/-! ## Wrap-up -/

/-- WRAP_END and the wrap deadline end a wrap-up: the wrap total, the sample folded into the queue's AHT, and the leave rule
(R90, R91, R94, R95, R97). WRAP_EXTEND grants at most what the queue's maximum extension leaves, and moves the deadline by the
grant (R88). That a WRAP_END's reply stands before the OFFER of the leave rule's attempt is the model's reading of "a reply is queued
at once" (R47; log entry 4), and that the home link is told of its own WRAP_END where its monitoring enable is set is the model's
choice (log entry 22). -/
def Obligations.WrapUpEndsAndExtends : Prop :=
  (∀ (s : State) (x : Nat) (w : WrapRecord), (s.agent x).wrap = some w →
    let a := s.agent x
    let ticks := (s.tick - w.start).toNat
    let sample := min 65535 (w.talk + ticks)
    let left : Agent :=
      { a with wrapTotal := min 4294967295 (a.wrapTotal + ticks)
               saturated := a.saturated || decide (4294967295 < a.wrapTotal + ticks), wrap := none, call := none }
    let after : AgentState := match a.pending with | .logout => .loggedOut | .notReady _ => .notReady | .none => .available
    (∀ (l : Link) (r : Request), s.Served l r 0x09 .agents → readSlot r.body = some x → x < 1024 → a.home = some l →
      a.state = .wrapUp →
      exec (.wrapEnd l) s = .next (((s.answered l r .done (.wrapEnded x sample after .none)).updateAht w.queue sample).agentLeaves
        x left .request))
    ∧ (0 ≤ (s.tick - w.deadline).toInt →
      exec (.wrapDeadline x) s = .next ((s.updateAht w.queue sample).agentLeaves x left .expiry)))
  ∧ ∀ (l : Link) (r : Request) (s : State) (b : ExtendBody) (w : WrapRecord), s.Served l r 0x0A .agents →
    readExtend r.body = some b → b.slot < 1024 → (s.agent b.slot).home = some l → (s.agent b.slot).state = .wrapUp →
    (s.agent b.slot).wrap = some w →
    let grant := min b.requested ((s.queue w.queue).config.maxExtension - w.granted)
    let deadline := w.deadline + BitVec.ofNat 32 grant
    exec (.wrapExtend l) s =
      .next ((s.answered l r .done (.extended b.slot grant (w.granted + grant) deadline)).setAgent b.slot
        { s.agent b.slot with wrap := some { w with deadline := deadline, granted := w.granted + grant } })

/-- An update of a queue's AHT with a sample moves it by the difference over 2 to the power of the smoothing shift, rounded toward
zero: it stays in range and between the old AHT and the sample, a difference too small moves nothing, and equal samples repeated
bring it to rest within 2^k − 1 sixteenths of the sample. Nothing else changes, and a QUEUE_SET that does not reseed leaves every
AHT as it is (R99). -/
def Obligations.AhtMovesTowardSample : Prop :=
  (∀ (s : State) (q sample : Nat), (s.queue q).HandleInRange → sample ≤ 65535 →
    let r := s.queue q
    let k := r.config.shift
    let d : Int := 16 * (sample : Int) - r.aht
    let move : Int := d.tdiv (2 ^ k)
    let t := s.updateAht q sample
    let again (m : Nat) : Nat := ((Nat.repeat (fun u : State => u.updateAht q sample) m s).queue q).aht
    t = s.setQueue q { r with aht := (r.aht + move).toNat } ∧ ((t.queue q).aht : Int) = r.aht + move
    ∧ -1048560 ≤ d ∧ d ≤ 1048560 ∧ 2 * move.natAbs ≤ d.natAbs ∧ (0 < move → 0 < d) ∧ (move < 0 → d < 0)
    ∧ 1 ≤ (t.queue q).aht ∧ (t.queue q).aht ≤ 1048560
    ∧ min r.aht (16 * sample) ≤ (t.queue q).aht ∧ (t.queue q).aht ≤ max r.aht (16 * sample)
    ∧ (d.natAbs < 2 ^ k → (t.queue q).aht = r.aht)
    ∧ ∃ n, ∀ m, n ≤ m → again m = again n ∧ (16 * (sample : Int) - again n).natAbs ≤ 2 ^ k - 1)
  ∧ ∀ (l : Link) (r : Request) (s t : State) (b : QueueSetBody), s.Served l r 0x0C .config → readQueueSet r.body = some b →
    b.reseed = false → exec (.queueSet l) s = .next t → ∀ q, (t.queue q).aht = (s.queue q).aht

/-! ## Calls and offers -/

/-- CALL_ENTER: each of its checks, and the reply of an accepted call with its slot, the queue its chain placed it in, its
position there and the expected wait for it (R44 to R47, R107). -/
def Obligations.CallEnterAnswers : Prop :=
  ∀ (l : Link) (r : Request) (s : State) (b : CallEnterBody), l ≠ .s → s.Served l r 0x01 .calls →
    readCallEnter r.body = some b →
    ((∀ y, y < 2048 → (s.call? y).isSome = true) → exec (.callEnter l) s = .next (s.answered l r .tableFull .bare))
    ∧ ∀ y, y < 2048 → s.call? y = none → (∀ z, z < y → (s.call? z).isSome = true) →
      (64 ≤ b.queue → exec (.callEnter l) s = .next (s.answered l r .noSuch .bare))
      ∧ (b.queue < 64 → (s.queue b.queue).config.enabled = false →
        exec (.callEnter l) s = .next (s.answered l r .queueDisabled .bare))
      ∧ (b.queue < 64 → (s.queue b.queue).config.enabled = true →
        (s.arrivalChain 9 b.queue 0 [] none = .queueClosed →
          exec (.callEnter l) s = .next (s.answered l r .queueClosed .bare))
        ∧ (s.arrivalChain 9 b.queue 0 [] none = .redirectLimit →
          exec (.callEnter l) s = .next (s.answered l r .redirectLimit .bare))
        ∧ ∀ p, s.arrivalChain 9 b.queue 0 [] none = .placed p → y ∉ (s.queue p.queue).order →
          let ahead := (s.queue p.queue).order.takeWhile fun z => match s.call? z with
            | some d => decide (min 7 b.priority < d.band)
                || (decide (d.band = min 7 b.priority) && !decide (0 < (d.entry - s.tick).toInt))
            | none => false
          ∃ t, exec (.callEnter l) s = .next t
            ∧ s.Replied t l (r.answer .done (.entered y p.queue (ahead.length + 1)
              ((s.queue p.queue).ewt (ahead.length + 1)))))

/-- Divert chains, of an arrival and of an OVERFLOW step. An arrival: the first queue that passes the entry check takes the call;
each closed or over-wait queue before it diverts to its enabled overflow target, which counts, at most seven times; a chain that
ends places the call in the last over-wait queue it reached, and is QUEUE_CLOSED where every queue was closed (R45, R46). An
OVERFLOW step: the move counts 1 and each divert 1 more; the call moves to the first queue that passes, stays where it is at a
chain that ends or comes back to its own queue, and exits where a count would pass 7; a step naming the call's own queue or a
DISABLED one is skipped (R48). Run at a step deadline for a WAITING call: where it stays, the next step runs; where it exits, its
reason is 16; and where it moves, it leaves its queue, joins the new one by band and tick, is counted, and starts the new queue's
pattern, here with a MUSIC step and no agent to take it (R36, R40, R43, R48, R126, R133). That a chain reaching its own queue is
counted before it ends is the model's reading (log entry 9). -/
def Obligations.ArrivalChainFollowsDiverts : Prop :=
  ∀ s : State,
    let overWait (q : Nat) : Prop := ∃ w, (s.queue q).config.maxWait = some w
      ∧ w < (s.queue q).ewt ((s.queue q).order.length + 1)
    let target (q : Nat) : Option Nat := (s.queue q).config.overflowTarget.filter fun t => (s.queue t).config.enabled
    let fails (q : Nat) : Prop := (s.queue q).closed = true ∨ overWait q
    -- a path of `n` diverts, each queue before the last failing its check
    let diverts (path : Nat → Nat) (n : Nat) : Prop := ∀ i, i < n → fails (path i) ∧ target (path i) = some (path (i + 1))
    let passed (path : Nat → Nat) (n : Nat) : List Nat := (List.range n).map path
    (∀ (path : Nat → Nat) (n : Nat), n ≤ 7 → diverts path n →
      let chain := s.arrivalChain 9 (path 0) 0 [] none
      let placed (m : Nat) : ArrivalChain := .placed { queue := path m, redirects := m, passed := passed path m }
      (¬fails (path n) → chain = placed n)
      ∧ (fails (path n) → target (path n) = none →
        (∀ m, m ≤ n → (s.queue (path m)).closed = false → (∀ i, m < i → i ≤ n → (s.queue (path i)).closed = true) →
          chain = placed m)
        ∧ ((∀ i, i ≤ n → (s.queue (path i)).closed = true) → chain = .queueClosed)))
    ∧ (∀ path : Nat → Nat, diverts path 8 → s.arrivalChain 9 (path 0) 0 [] none = .redirectLimit)
    ∧ (∀ (q : Nat) (p : Placement), s.arrivalChain 9 q 0 [] none = .placed p →
      p.redirects ≤ 7 ∧ p.passed.length = p.redirects ∧ (s.queue p.queue).closed = false
      ∧ (p.passed ++ [p.queue])[0]? = some q
      ∧ ∀ i u v, (p.passed ++ [p.queue])[i]? = some u → (p.passed ++ [p.queue])[i + 1]? = some v →
        target u = some v ∧ fails u)
    ∧ (∀ (c : Call) (q : Nat), (q = c.queue ∨ (s.queue q).config.enabled = false → s.moveChain c q = .stays)
      ∧ (q ≠ c.queue → (s.queue q).config.enabled = true → 7 ≤ c.redirects → s.moveChain c q = .exits))
    ∧ (∀ (c : Call) (path : Nat → Nat) (n : Nat), (s.queue (path 0)).config.enabled = true →
      (∀ i, i ≤ n → path i ≠ c.queue) → diverts path n → c.redirects + 1 + n ≤ 7 →
      (¬fails (path n) →
        s.moveChain c (path 0) = .moves { queue := path n, redirects := c.redirects + 1 + n, passed := passed path n })
      ∧ (fails (path n) → target (path n) = none → s.moveChain c (path 0) = .stays)
      ∧ (fails (path n) → (∃ t, target (path n) = some t) → c.redirects + 1 + n = 7 → s.moveChain c (path 0) = .exits)
      ∧ (fails (path n) → target (path n) = some c.queue → c.redirects + 1 + n < 7 → s.moveChain c (path 0) = .stays))
    ∧ ∀ (y q : Nat) (c : Call) (t : Treatment) (h : Highway) (deadline : Tick), s.call? y = some c → c.treatment = some t →
      c.owner.highway? = some h → c.state = .waiting → t.deadline = some deadline → 0 ≤ (s.tick - deadline).toInt →
      (s.pattern t.bank t.pattern)[t.step + 1]? = some (.overflow q) →
      (s.moveChain c q = .stays → ∀ programme duration,
        (s.pattern t.bank t.pattern)[t.step + 2]? = some (soundStep programme duration) →
        exec (.stepDeadline y) s = .next (s.soundRun y c t (t.step + 2) programme duration))
      ∧ (s.moveChain c q = .exits →
        ∃ u, exec (.stepDeadline y) s = .next u ∧ s.Exited u y c 16 ∧ s.SameAgents u ∧ u.settings = s.settings ∧ s.SameLinks u)
      ∧ ∀ (p : Placement) (m d : Nat) (rest : List PatternStep), s.moveChain c q = .moves p →
        s.pattern s.activeBank (s.queue p.queue).config.pattern = .music m d :: rest →
        (∀ ts, t.source ≠ .personal ts) → (t.source = .programme m ∨ 0 < s.freeNotices c.owner) →
        (∀ i, i ≠ c.queue → y ∉ (s.queue i).order) → s.heldTimeslot h y = none →
        (∀ e ∈ (s.highway h).deferral, e.call ≠ y) → y ∉ (s.link c.owner).listenOrder →
        (∀ x, x ∈ s.available ∨ (s.agent x).state = .available → s.qualified (s.agent x) p.queue = false) →
        let k := s.queue p.queue
        let ahead (z : Nat) : Bool := match s.call? z with
          | some e => decide (c.band < e.band) || (decide (e.band = c.band) && !decide (0 < (e.entry - s.tick).toInt))
          | none => false
        let left := (s.queue c.queue).without y
        ∃ u, exec (.stepDeadline y) s = .next u
          ∧ u.call? y = some
              { c with
                queue := p.queue, entry := s.tick, redirects := p.redirects
                promotion := if k.config.agingInterval ≠ 0 ∧ c.band < 7 then
                  some (s.tick + BitVec.ofNat 32 k.config.agingInterval) else none
                treatment := some
                  { bank := s.activeBank, pattern := k.config.pattern, step := 0, state := .running
                    deadline := if d = 0 then none else some (s.tick + BitVec.ofNat 32 d), loop := 0
                    source := .programme m, lastProgramme := some m, heldSource := none } }
          ∧ s.SameCallsBut u y ∧ s.SameAgents u ∧ u.settings = s.settings ∧ s.SameLinks u ∧ s.OnlyTold u
          ∧ (t.source ≠ .programme m → ∃ ns : List Notice, (u.link c.owner).outbound
            = (s.link c.owner).outbound ++ .notice (.listen y c.ref h (some m)) :: ns.map OutEntry.notice)
          ∧ (∀ i, (u.link i).reserved = (s.link i).reserved ∧ (u.link i).exitOrder = (s.link i).exitOrder
            ∧ (u.link i).listenOrder = (s.link i).listenOrder)
          ∧ (∀ i, u.refs i = s.refs i - (if i = t.bank then 1 else 0) + (if i = s.activeBank then 1 else 0))
          ∧ u.useCounts = s.useCounts ∧ (∀ i, u.highway i = s.highway i)
          ∧ ∀ i, (u.queue i).config = (s.queue i).config ∧ (u.queue i).aht = (s.queue i).aht
            ∧ (u.queue i).weight = (s.queue i).weight
            ∧ (u.queue i).order = (if i = p.queue then k.order.takeWhile ahead ++ y :: k.order.dropWhile ahead
                else if i = c.queue then left.order else (s.queue i).order)
            ∧ (u.queue i).closed = (if i = p.queue then k.closed || decide (k.config.upper ≤ k.order.length + 1)
                else if i = c.queue then left.closed else (s.queue i).closed)
            ∧ (u.queue i).stats.peak = (if i = p.queue then max k.stats.peak (k.order.length + 1)
                else (s.queue i).stats.peak)
            ∧ ∀ n, ((u.queue i).stats.counter n).value = ((s.queue i).stats.counter n).value
                + (if n = .offered ∧ i = p.queue then 1 else 0)
                + (if n = .overflowedOut then BitVec.ofNat 32 (p.passed.count i + if i = c.queue then 1 else 0) else 0)

/-- An accepted CALL_ENTER whose owner link has a free notice entry and whose pattern begins with a MUSIC step. Where its queue
finds no AVAILABLE agent qualified for it: the call stands in its queue by band and tick, its treatment has begun and the LISTEN
is out (R36, R40, R43, R47, R126, R128, R163, R165). Where its queue has affinity, its caller key is in the recent service list,
and the agent listed is AVAILABLE, qualified and pairable: the call is offered to that agent, wherever it stands in the available
list; this covers a queue in which no other call waits, so that no other offer follows (R56, R57, R67, R68). -/
def Obligations.CallEnterPlacesCall : Prop :=
  ∀ (l : Link) (r : Request) (s : State) (b : CallEnterBody) (y p d : Nat) (place : Placement) (rest : List PatternStep)
      (h : Highway),
    l.highway? = some h → s.Served l r 0x01 .calls → readCallEnter r.body = some b →
    y < 2048 → s.call? y = none → (∀ z, z < y → (s.call? z).isSome = true) → b.queue < 64 →
    (s.queue b.queue).config.enabled = true → s.arrivalChain 9 b.queue 0 [] none = .placed place →
    (∀ q, y ∉ (s.queue q).order) →
    s.pattern s.activeBank (s.queue place.queue).config.pattern = .music p d :: rest → 0 < s.freeNotices l →
    let k := s.queue place.queue
    let band := min 7 b.priority
    let ahead (z : Nat) : Bool := match s.call? z with
      | some e => decide (band < e.band) || (decide (e.band = band) && !decide (0 < (e.entry - s.tick).toInt))
      | none => false
    let position := (k.order.takeWhile ahead).length + 1
    let key := if b.key = 0 then none else some b.key
    let entered : Call :=
      { state := .waiting, owner := l, ref := b.ref, key := key, queue := place.queue
        basePriority := band, band := band, arrival := s.tick, entry := s.tick
        promotion := if k.config.agingInterval ≠ 0 ∧ band < 7 then
          some (s.tick + BitVec.ofNat 32 k.config.agingInterval) else none
        redirects := place.redirects, exitPending := none, offer := none, agent := none, connectTick := none
        treatment := some
          { bank := s.activeBank, pattern := k.config.pattern, step := 0, state := .running
            deadline := if d = 0 then none else some (s.tick + BitVec.ofNat 32 d), loop := 0, source := .programme p
            lastProgramme := some p, heldSource := none } }
    let replied : Reply := r.answer .done (.entered y place.queue position (k.ewt position))
    ((∀ x, x ∈ s.available ∨ (s.agent x).state = .available → s.qualified (s.agent x) place.queue = false) →
      ∃ t, exec (.callEnter l) s = .next t
      ∧ s.Replied t l replied
      ∧ t.call? y = some entered
      ∧ s.SameCallsBut t y ∧ s.SameAgents t ∧ t.settings = s.settings ∧ s.SameLinks t
      ∧ (∃ ns : List Notice, (t.link l).outbound = (s.link l).outbound
          ++ .reply replied :: .notice (.listen y b.ref h (some p)) :: ns.map OutEntry.notice)
      ∧ (∀ i, (t.link i).reserved = (s.link i).reserved ∧ (t.link i).exitOrder = (s.link i).exitOrder
        ∧ (t.link i).listenOrder = (s.link i).listenOrder)
      ∧ (∀ i, t.refs i = if i = s.activeBank then s.refs i + 1 else s.refs i)
      ∧ t.useCounts = s.useCounts ∧ (∀ i, t.highway i = s.highway i)
      ∧ (∀ q, (t.queue q).config = (s.queue q).config ∧ (t.queue q).aht = (s.queue q).aht
        ∧ (t.queue q).weight = (s.queue q).weight
        ∧ (t.queue q).order = (if q = place.queue then k.order.takeWhile ahead ++ y :: k.order.dropWhile ahead
            else (s.queue q).order)
        ∧ (t.queue q).closed = (if q = place.queue then k.closed || decide (k.config.upper ≤ k.order.length + 1)
            else (s.queue q).closed)
        ∧ (t.queue q).stats.peak = (if q = place.queue then max k.stats.peak (k.order.length + 1)
            else (s.queue q).stats.peak)
        ∧ ∀ n, ((t.queue q).stats.counter n).value = ((s.queue q).stats.counter n).value
            + (if n = .offered ∧ q = place.queue then 1 else 0)
            + (if n = .overflowedOut then BitVec.ofNat 32 (place.passed.count q) else 0)))
    ∧ ∀ (e : RecentEntry) (home : Link), k.config.affinity = true → s.recent.find? (fun e => key == some e.key) = some e →
      (s.agent e.agent).state = .available → (s.agent e.agent).home = some home →
      s.qualified (s.agent e.agent) place.queue = true →
      (home = l → 4 ≤ s.freeNotices l) → (home ≠ l → 2 ≤ s.freeNotices home ∧ 2 ≤ s.freeNotices l) → k.order = [] →
      let token := if s.token = 0xFFFF then 1 else s.token + 1
      let a := s.agent e.agent
      ∃ t, exec (.callEnter l) s = .next t
        ∧ s.Replied t l replied
        ∧ t.call? y = some { entered with
            state := .offering
            offer := some { token := token, agent := e.agent, deadline := s.tick + BitVec.ofNat 32 k.config.ringTime } }
        ∧ s.SameCallsBut t y ∧ t.recent = s.recent ∧ t.token = token ∧ t.settings = s.settings ∧ s.SameLinks t
        ∧ (∀ x, t.agent x = if x = e.agent then
            { a with state := .reserved, offer := some { token := token, call := y }, lastToken := token, lastOutcome := none }
          else s.agent x)
        ∧ t.available = s.available.filter (· != e.agent)
        ∧ (∃ ns : List Notice, (t.link home).outbound = (s.link home).outbound
          ++ (if home = l then [.reply replied, .notice (.listen y b.ref h (some p))] else [])
          ++ .notice (.offer token e.agent a.id y place.queue (key.getD 0) l b.ref) :: ns.map OutEntry.notice)
        ∧ ∀ i, (t.link i).reserved = (s.link i).reserved + (if i = home then 1 else 0) + (if i = l then 1 else 0)

/-- CALL_WITHDRAW: its checks, and the removal of a WAITING call, in every state; and the withdrawal of an OFFERING call from
its agent, for a call that waits alone on a link on which nothing else waits (R9, R24, R49, R77, R138, R160). That the reply stands
before the OFFER_CANCEL where the two are on one link is the model's reading of "a reply is queued at once" (R47; log entry 4). -/
def Obligations.CallWithdrawRemovesCall : Prop :=
  ∀ (l : Link) (r : Request) (s : State) (y : Nat), s.Served l r 0x02 .calls → readSlot r.body = some y →
    ((2048 ≤ y ∨ s.call? y = none) → exec (.callWithdraw l) s = .next (s.answered l r .noSuch .bare))
    ∧ ∀ c, s.call? y = some c → y < 2048 →
      (c.owner ≠ l → exec (.callWithdraw l) s = .next (s.answered l r .notOwner .bare))
      ∧ (c.owner = l → c.state = .connected →
        exec (.callWithdraw l) s = .next (s.answered l r .stateConflict .bare))
      ∧ (c.owner = l → c.state = .waiting →
        ∃ t, exec (.callWithdraw l) s = .next t ∧ s.Replied t l (r.answer .done .bare)
          ∧ t.call? y = none ∧ s.SameCallsBut t y ∧ s.SameAgents t ∧ t.settings = s.settings ∧ s.SameLinks t
          ∧ s.TreatmentStopped t y c ∧ s.SameQueuesBut t c.queue
          ∧ t.queue c.queue = ((s.queue c.queue).without y).counted .abandoned
          ∧ ∀ k, (t.link k).reserved = (s.link k).reserved
            ∧ (t.link k).exitOrder = if k = l then (s.link k).exitOrder.filter (· != y) else (s.link k).exitOrder)
      ∧ ∀ (o : CallOffer) (h : Link) (new : Agent), c.owner = l → c.state = .offering → c.offer = some o →
        (s.agent o.agent).state = .reserved → (s.agent o.agent).home = some h → s.WaitsAlone y → s.NothingWaits l →
        0 < (s.link h).reserved → 0 < (s.link l).reserved → (h = l → 2 ≤ (s.link h).reserved) →
        (match (s.agent o.agent).pending with
          | .notReady reason =>
              new = { s.agent o.agent with state := .notReady, reason := reason, pending := .none, offer := none
                                           lastOutcome := some .withdrawn }
          | _ => new = { s.agent o.agent with state := .available, pending := .none, offer := none
                                              lastOutcome := some .withdrawn }) →
        ∃ t, exec (.callWithdraw l) s = .next t ∧ s.Replied t l (r.answer .done .bare)
          ∧ t.call? y = none ∧ s.SameCallsBut t y ∧ t.settings = s.settings ∧ s.SameLinks t
          ∧ s.TreatmentStopped t y c ∧ t.recent = s.recent ∧ t.token = s.token
          ∧ (∀ x, t.agent x = if x = o.agent then new else s.agent x)
          ∧ t.available = (let rest := s.available.filter (· != o.agent)
              if new.state = .available then
                let stays (x : Nat) : Bool := !decide (0 < ((s.agent x).availSince - new.availSince).toInt)
                rest.takeWhile stays ++ o.agent :: rest.dropWhile stays
              else rest)
          ∧ (∀ q, t.queue q = let k := (s.reweigh (s.agent o.agent) new).queue q
              if q = c.queue then (k.without y).counted .abandoned else k)
          ∧ (∃ ns : List Notice, (t.link h).outbound = (s.link h).outbound
              ++ (if h = l then [.reply (r.answer .done .bare)] else [])
              ++ .notice (.offerCancel o.token o.agent y .callWithdrawn) :: ns.map OutEntry.notice)
          ∧ ∀ k, (t.link k).reserved =
              (s.link k).reserved - (if k = h then 1 else 0) - (if k = l then 1 else 0)

/-- CALL_RELEASE: its checks, and the end of a CONNECTED call: the slot is freed, the agent's accumulators take the talk time,
and the agent enters WRAP_UP with a wrap record, or leaves at once where the queue's wrap limit is 0 (R50, R84 to R86, R94,
R95, R97). That the reply stands before the OFFER of the leave rule's attempt is the model's reading of "a reply is queued at once"
(R47; log entry 4). -/
def Obligations.CallReleaseStartsWrapUp : Prop :=
  ∀ (l : Link) (r : Request) (s : State) (y : Nat), s.Served l r 0x03 .calls → readSlot r.body = some y →
    ((2048 ≤ y ∨ s.call? y = none) → exec (.callRelease l) s = .next (s.answered l r .noSuch .bare))
    ∧ ∀ c, s.call? y = some c → y < 2048 →
      (c.owner ≠ l → exec (.callRelease l) s = .next (s.answered l r .notOwner .bare))
      ∧ (c.owner = l → c.state ≠ .connected →
        exec (.callRelease l) s = .next (s.answered l r .stateConflict .bare))
      ∧ (c.owner = l → c.state = .connected → c.agent = none →
        exec (.callRelease l) s = .next ((s.answered l r .done .bare).freeCall y))
      ∧ ∀ (x : Nat) (since : Tick), c.owner = l → c.state = .connected → c.agent = some x → c.connectTick = some since →
        let a := s.agent x
        let talk := min 65535 (s.tick - since).toNat
        let cause : Cause := if a.home = some l then .request else .otherLink
        let b : Agent :=
          { a with call := none, handled := min 65535 (a.handled + 1), talkTotal := min 4294967295 (a.talkTotal + talk)
                   saturated := a.saturated || decide (65535 < a.handled + 1) || decide (4294967295 < a.talkTotal + talk) }
        let t := (s.answered l r .done .bare).freeCall y
        exec (.callRelease l) s = .next (
          if (s.queue c.queue).config.wrapLimit = 0 then
            (t.updateAht c.queue talk).agentLeaves x { b with wrap := none } cause
          else
            t.agentOut x
              { b with state := .wrapUp
                       wrap := some { queue := c.queue, talk := talk, start := s.tick
                                      deadline := s.tick + BitVec.ofNat 32 (s.queue c.queue).config.wrapLimit
                                      granted := 0 } } cause)

/-- A current ACCEPT connects the call, for a call that waits alone and a home link on which nothing waits: the reply, the call
and agent records, CONNECT on its reservation, the counts, the treatment's end and the recent service list (R65, R71 to R73,
R138). That the reply stands before the CONNECT where the owner link is the home link is the model's reading of "a reply is queued at
once" (R47; log entry 4). -/
def Obligations.AcceptConnectsCall : Prop :=
  ∀ (l : Link) (r : Request) (s : State) (b : OfferReplyBody) (y : Nat) (c : Call) (o : CallOffer),
    s.Served l r 0x0B .agents → readOfferReply r.body = some b → b.accepts = true → b.slot < 1024 →
    let a := s.agent b.slot
    a.home = some l → a.state = .reserved → a.offer = some { token := b.token, call := y } → s.call? y = some c →
    c.offer = some o → o.token = b.token → s.WaitsAlone y → s.NothingWaits l →
    0 < (s.link c.owner).reserved → 0 < (s.link l).reserved → (c.owner = l → 2 ≤ (s.link l).reserved) →
    ∃ t, exec (.accept l) s = .next t
      ∧ s.Replied t l (r.answer .done (.accepted b.slot b.token .busy a.pending y c.owner))
      ∧ t.call? y = some { c with state := .connected, offer := none, agent := some b.slot, connectTick := some s.tick
                                  promotion := none, treatment := none }
      ∧ s.SameCallsBut t y
      ∧ (∀ x, t.agent x = if x = b.slot then
            { a with state := .busy, call := some y, offer := none, miss := 0, lastOutcome := some .accepted }
          else s.agent x)
      ∧ t.available = s.available.filter (· != b.slot) ∧ t.token = s.token ∧ t.settings = s.settings ∧ s.SameLinks t
      ∧ t.recent = (match c.key with
        | some key => if (s.queue c.queue).config.affinity then
              ({ key := key, agent := b.slot } :: s.recent.filter fun e => e.key != key).take 256
            else s.recent
        | none => s.recent)
      ∧ s.TreatmentStopped t y c ∧ s.SameQueuesBut t c.queue
      ∧ t.queue c.queue =
          (if (s.tick - c.entry).toNat ≤ (s.queue c.queue).config.serviceThreshold then
            (((s.queue c.queue).without y).counted .answered).counted .answeredInService
          else ((s.queue c.queue).without y).counted .answered)
      ∧ (∃ ns : List Notice, (t.link c.owner).outbound = (s.link c.owner).outbound
          ++ (if c.owner = l then [.reply (r.answer .done (.accepted b.slot b.token .busy a.pending y c.owner))] else [])
          ++ .notice (.connect y c.ref b.token b.slot a.id (some l) c.queue) :: ns.map OutEntry.notice)
      ∧ ∀ k, (t.link k).reserved =
          (s.link k).reserved - (if k = c.owner then 1 else 0) - (if k = l then 1 else 0)

/-- A current DECLINE and a ring deadline fail an offer: the call is charged a redirect and is WAITING again in its place, RONA is
counted, the reservations go, an expiry sends OFFER_CANCEL, and the agent is settled by its miss limit, its pending value or the
available list (R25, R26, R51, R55, R71, R74, R75). A call that has 7 redirects exits with reason 16 instead, and one without a
pending exit whose treatment is held at an EXIT step exits with that step's reason after its redirect (R51, R81, R135). That a
DECLINE's reply stands before the CALL_EXIT where the two are on one link is the model's reading of "a reply is queued at once"
(R47; log entry 4). This covers states in which no other agent is AVAILABLE and nothing waits on the two links, with an agent that
does not come back AVAILABLE or is qualified for no queue, so that no other offer follows. -/
def Obligations.FailedOfferSettlesCallAndAgent : Prop :=
  ∀ (s : State) (x y : Nat) (c : Call) (o : CallOffer) (h : Link),
    let a := s.agent x
    a.home = some h → a.state = .reserved → a.offer = some { token := o.token, call := y } → s.call? y = some c →
    c.state = .offering → c.offer = some o → o.agent = x →
    s.available = [] → s.NothingWaits h → s.NothingWaits c.owner →
    0 < (s.link c.owner).reserved → 0 < (s.link h).reserved → (c.owner = h → 2 ≤ (s.link h).reserved) →
    let miss := min 7 (a.miss + 1)
    let settled (outcome : OfferOutcome) : Agent :=
      let b := { a with offer := none, lastOutcome := some outcome, miss := miss }
      if a.missLimit ≠ 0 ∧ a.missLimit ≤ miss then
        { b with state := .inferredAbsent, pending := .none
                 penaltyDeadline := match a.exitType with
                   | .timed => some (s.tick + BitVec.ofNat 32 a.penalty)
                   | .manual => none }
      else match a.pending with
        | .notReady reason => { b with state := .notReady, reason := reason, pending := .none }
        | _ => { b with state := .available, pending := .none, availSince := s.tick }
    let agents (t : State) (outcome : OfferOutcome) : Prop :=
      (∀ z, t.agent z = if z = x then settled outcome else s.agent z)
      ∧ t.available = (if (settled outcome).state = .available then [x] else [])
      ∧ t.recent = s.recent ∧ t.token = s.token ∧ t.settings = s.settings ∧ s.SameLinks t
      ∧ ∀ k, (t.link k).reserved =
          (s.link k).reserved - (if k = c.owner then 1 else 0) - (if k = h then 1 else 0)
        ∧ (t.link k).exitOrder = (s.link k).exitOrder ∧ (t.link k).listenOrder = (s.link k).listenOrder
    let failed (t : State) (outcome : OfferOutcome) : Prop :=
      t.call? y = some { c with state := .waiting, offer := none, redirects := c.redirects + 1 } ∧ s.SameCallsBut t y
      ∧ agents t outcome ∧ s.SamePlayout t
      ∧ ∀ q, t.queue q = let k := (s.reweigh a (settled outcome)).queue q
          if q = c.queue then k.counted .rona else k
    -- the entry before it on the owner link is the event's reply or OFFER_CANCEL, where the two links are one
    let exits (t : State) (outcome : OfferOutcome) (reason : Nat) (before : OutEntry) : Prop :=
      t.call? y = none ∧ s.SameCallsBut t y ∧ agents t outcome ∧ s.TreatmentStopped t y c
      ∧ (∀ q, t.queue q = let k := (s.reweigh a (settled outcome)).queue q
          if q = c.queue then ((k.without y).counted .rona).counted .exited else k)
      ∧ ∃ ns : List Notice, (t.link c.owner).outbound = (s.link c.owner).outbound ++ (if c.owner = h then [before] else [])
          ++ .notice (.callExit y c.ref reason) :: ns.map OutEntry.notice
    let declined : Reply := { tag := 0, kind := 0x8B, status := .done
                              result := .offerReply x o.token (settled .declined).state (settled .declined).pending }
    let cancel : Notice := .offerCancel o.token x y .ringExpired
    (∀ outcome, (settled outcome).state = .available → ∀ q, s.qualified a q = false) →
    (c.redirects < 7 → (∀ t, c.treatment = some t → t.state ≠ .held) →
      (∀ (r : Request), s.Served h r 0x0B .agents →
        readOfferReply r.body = some { slot := x, token := o.token, accepts := false } → x < 1024 →
        ∃ t, exec (.decline h) s = .next t ∧ s.Replied t h { declined with tag := r.tag } ∧ failed t .declined)
      ∧ (0 ≤ (s.tick - o.deadline).toInt →
        ∃ t, exec (.ringExpiry y) s = .next t ∧ s.OnlyTold t ∧ failed t .expired
          ∧ ∃ ns : List Notice, (t.link h).outbound = (s.link h).outbound ++ .notice cancel :: ns.map OutEntry.notice))
    ∧ ∀ reason, (s.link c.owner).up = true → (s.link c.owner).SpaceKept →
      ((c.redirects = 7 ∧ reason = 16)
        ∨ (c.redirects < 7 ∧ c.exitPending = none ∧ ∃ t, c.treatment = some t ∧ t.state = .held
          ∧ (s.pattern t.bank t.pattern)[t.step]? = some (.exit reason))) →
      (∀ (r : Request), s.Served h r 0x0B .agents →
        readOfferReply r.body = some { slot := x, token := o.token, accepts := false } → x < 1024 →
        ∃ t, exec (.decline h) s = .next t ∧ s.Replied t h { declined with tag := r.tag }
          ∧ exits t .declined reason (.reply { declined with tag := r.tag }))
      ∧ (0 ≤ (s.tick - o.deadline).toInt →
        ∃ t, exec (.ringExpiry y) s = .next t ∧ s.OnlyTold t ∧ exits t .expired reason (.notice cancel))

/-- An OFFER_REPLY that meets no current offer changes nothing: NO_SUCH, NOT_OWNER, TOO_LATE with the last outcome for the
agent's last token, and STALE for any other (R70, R71, R76, R80). -/
def Obligations.LateOfferReplyChangesNothing : Prop :=
  ∀ (l : Link) (r : Request) (s : State) (b : OfferReplyBody), s.Served l r 0x0B .agents →
    readOfferReply r.body = some b →
    let command : Instr := if b.accepts then .accept l else .decline l
    let a := s.agent b.slot
    (1024 ≤ b.slot → exec command s = .next (s.answered l r .noSuch .bare))
    ∧ (b.slot < 1024 → a.state ≠ .loggedOut → a.home ≠ some l →
      exec command s = .next (s.answered l r .notOwner (.offerReply b.slot b.token a.state a.pending)))
    ∧ (b.slot < 1024 → (a.state = .loggedOut ∨ a.home = some l) →
      (a.state ≠ .reserved ∨ ∀ f, a.offer = some f → f.token ≠ b.token) →
      (∀ outcome, a.lastOutcome = some outcome → a.lastToken ≠ 0 → a.lastToken = b.token →
        exec command s = .next (s.answered l r .tooLate (.late b.slot b.token a.state a.pending outcome)))
      ∧ ((a.lastOutcome = none ∨ a.lastToken = 0 ∨ a.lastToken ≠ b.token) →
        exec command s = .next (s.answered l r .stale (.offerReply b.slot b.token a.state a.pending))))

/-- A promotion deadline that is reached lifts the call one band and re-inserts it behind the calls of that band that entered no
later; the next deadline runs from the one reached, and nothing else changes. The end of an offer makes the call WAITING and moves
it in no waiting order, so that it keeps the place aging has given it (R36, R41). -/
def Obligations.PromotionLiftsCall : Prop :=
  (∀ (s : State) (x y : Nat) (c : Call) (outcome : OfferOutcome), s.call? y = some c →
    (s.endOffer y x outcome).call? y = some { c with state := .waiting, offer := none }
    ∧ ∀ q, ((s.endOffer y x outcome).queue q).order = (s.queue q).order)
  ∧ ∀ (s : State) (y : Nat) (c : Call) (deadline : Tick), s.call? y = some c → c.promotion = some deadline →
    0 ≤ (s.tick - deadline).toInt →
    let k := s.queue c.queue
    let band := c.band + 1
    let c' : Call :=
      { c with band := band
               promotion := if band < 7 then some (deadline + BitVec.ofNat 32 k.config.agingInterval) else none }
    let ahead (z : Nat) : Bool := match s.call? z with
      | some e => decide (band < e.band) || (decide (e.band = band) && !decide (0 < (e.entry - c.entry).toInt))
      | none => false
    let others := k.order.filter (· != y)
    exec (.promotionDeadline y) s = .next ((s.setCall y c').setQueue c.queue
      { k with order := others.takeWhile ahead ++ y :: others.dropWhile ahead })

/-! ## Treatment -/

/-- The step deadline of a MUSIC or SILENCE step, and the expiry of a deferral, run the next step. A MUSIC or SILENCE step begins
where its source is there already or its LISTEN can be queued, and is held otherwise (R128, R129). GOTO counts its loop and goes
to its target (R131), RAISE lifts the call and re-inserts it (R42, R132), and the step they lead to is run in the same event. At
most 16 such steps are run in one event: what follows the sixteenth is run if it takes time, and ends the treatment otherwise
(R136); a run off the end ends it too, with the step index at the pattern's length (R124, R137), also after a GOTO to a step past
the end (the model's reading of R124; log entry 8). An EXIT or OVERFLOW step is held while the call is OFFERING (R135), and an EXIT step
of a WAITING call makes it exit, or makes its exit pending where no notice entry is free (R51, R52, R134). A deferral's expiry
counts ANNOUNCE_SKIPPED (R156, R163). -/
def Obligations.NextStepRuns : Prop :=
  ∀ (s : State) (y : Nat) (c : Call) (t : Treatment) (h : Highway), s.call? y = some c → c.treatment = some t →
    c.owner.highway? = some h →
    let steps := s.pattern t.bank t.pattern
    let next := t.step + 1
    let finished (u : State) (t : Treatment) : State :=
      u.setCall y { c with treatment := some { t with step := steps.length, state := .finished, deadline := none } }
    let skipped (u : State) : State :=
      (u.setHighway h { u.highway h with deferral := (u.highway h).deferral.filter fun e => e.call != y }).setQueue c.queue
        ((u.queue c.queue).counted .announceSkipped)
    let wraps : Bool := decide (((s.queue c.queue).stats.announceSkipped).value = 0xFFFFFFFF)
      && !((s.queue c.queue).stats.announceSkipped).wrapped
    let told (u : State) : State := if wraps then
      u.told ([Link.a, .b, .s].filter fun k => (u.link k).up && (u.link k).permissions.stats && (u.link k).enables.stats)
        (.statsWrap c.queue .announceSkipped) else u
    (∀ deadline, t.deadline = some deadline → 0 ≤ (s.tick - deadline).toInt →
      (∀ programme d, steps[next]? = some (soundStep programme d) →
        exec (.stepDeadline y) s = .next (s.soundRun y c t next programme d))
      ∧ (steps.length = next → exec (.stepDeadline y) s = .next (finished s t))
      ∧ (∀ target count, steps[next]? = some (.goto target count) →
        let t' : Treatment := if count = 0 ∨ t.loop < count then { t with loop := min 255 (t.loop + 1), step := target }
          else { t with loop := 0, step := next + 1 }
        (∀ programme d, steps[t'.step]? = some (soundStep programme d) →
          exec (.stepDeadline y) s = .next (s.soundRun y c t' t'.step programme d))
        ∧ (steps.length ≤ t'.step → exec (.stepDeadline y) s = .next (finished s t')))
      ∧ (∀ n programme d, steps[next]? = some (.raise n) → steps[next + 1]? = some (soundStep programme d) →
        let k := s.queue c.queue
        let band := min 7 (c.band + n)
        let ahead (z : Nat) : Bool := match s.call? z with
          | some e => decide (band < e.band) || (decide (e.band = band) && !decide (0 < (e.entry - c.entry).toInt))
          | none => false
        let others := k.order.filter (· != y)
        exec (.stepDeadline y) s = .next (
          if c.band = 7 then s.soundRun y c t (next + 1) programme d
          else (s.setQueue c.queue { k with order := others.takeWhile ahead ++ y :: others.dropWhile ahead }).soundRun y
            { c with band := band, promotion := if band = 7 then none else c.promotion } t (next + 1) programme d))
      ∧ (∀ path : Nat → Nat, path 0 = next →
        (∀ (n : Nat) programme d, 1 ≤ n → n ≤ 16 → (∀ k, k < n → steps[path k]? = some (.goto (path (k + 1)) 0)) →
          steps[path n]? = some (soundStep programme d) →
          exec (.stepDeadline y) s = .next (s.soundRun y c { t with loop := min 255 (t.loop + n) } (path n) programme d))
        ∧ ((∀ k, k ≤ 16 → steps[path k]? = some (.goto (path (k + 1)) 0)) →
          exec (.stepDeadline y) s = .next (s.setCall y { c with
            treatment := some { t with step := path 16, loop := min 255 (t.loop + 16), state := .finished
                                       deadline := none } })))
      ∧ (c.state = .offering → (∃ reason, steps[next]? = some (.exit reason)) ∨ (∃ q, steps[next]? = some (.overflow q)) →
        exec (.stepDeadline y) s = .next (s.setCall y
          { c with treatment := some { t with step := next, state := .held, deadline := none } }))
      ∧ (∀ reason, c.state = .waiting → steps[next]? = some (.exit reason) →
        ∃ u, exec (.stepDeadline y) s = .next u ∧ s.Exited u y c reason ∧ s.SameAgents u ∧ u.settings = s.settings
          ∧ s.SameLinks u))
    ∧ ∀ e, (s.highway h).deferral.find? (fun e => e.call == y) = some e → 0 ≤ (s.tick - e.deadline).toInt →
      (∀ programme d, steps[next]? = some (soundStep programme d) → t.deadline = none →
        exec (.deferralExpiry y) s = .next (told ((skipped s).soundRun y c t next programme d)))
      ∧ (steps.length = next → exec (.deferralExpiry y) s = .next (told (finished (skipped s) t)))

/-- The phrases. A number n is spoken by the number segments of the vocabulary's number base (R111). A POSITION phrase is the
position prefix, the call's position and the position suffix; a WAIT_ESTIMATE phrase is the wait prefix, the minutes of the
expected wait at that position, rounded up, or the wait-unknown segment where the EWT is 65535, and the wait suffix; an ANNOUNCE
phrase is the step's segments. Absent and undefined segments are left out, the others keep their order, and there are at most
four. Each assembly uses the position, AHT, weight, vocabulary and segments of its moment (R37, R104, R108, R112 to R115). -/
def Obligations.NumberSpokenBySegments : Prop :=
  (∀ (v : Vocabulary) (n : Nat),
    (n ≤ 19 → v.number n = [v.base + n])
    ∧ (∀ k, 2 ≤ k → k ≤ 9 → n = 10 * k → v.number n = [v.base + 18 + k])
    ∧ (20 ≤ n → n ≤ 99 → n % 10 ≠ 0 → v.number n = v.number (n - n % 10) ++ v.number (n % 10))
    ∧ (100 ≤ n → v.number n = [v.base + 28]))
  ∧ ∀ (s : State) (y : Nat) (c : Call) (before after : List Nat), (s.queue c.queue).order = before ++ y :: after → y ∉ before →
    let defined (words : List Nat) : List Nat := words.filter fun g => (s.segment? g).isSome
    let v := s.vocabulary
    let position := before.length + 1
    let k := s.queue c.queue
    s.assemble y c .position = defined (v.posBefore.toList ++ v.number position ++ v.posAfter.toList)
    ∧ ((k.weight = 0 ∨ 65534 * k.weight < position * k.aht) →
      s.assemble y c .waitEstimate = defined (v.waitBefore.toList ++ v.waitUnknown.toList ++ v.waitAfter.toList))
    ∧ (∀ ewt minutes, 0 < k.weight → ewt ≤ 65534 → (ewt - 1) * k.weight < position * k.aht →
      position * k.aht ≤ ewt * k.weight → (minutes - 1) * 600 < ewt → ewt ≤ minutes * 600 →
      s.assemble y c .waitEstimate = defined (v.waitBefore.toList ++ v.number minutes ++ v.waitAfter.toList))
    ∧ (∀ segments, s.assemble y c (.announce segments) = defined segments)
    ∧ (s.assemble y c .position).length ≤ 4 ∧ (s.assemble y c .waitEstimate).length ≤ 4

/-! ## Playout -/

/-- With n tracks, the track played for a track counter, that each track is played once as the counter runs from 0 to n − 1, and
that the counter moves on by 1, and from n − 1 to 0, when the last byte of a track is placed (R148); that it does so in that
frame where the next track is undefined too is the model's choice (log entry 24). -/
def Obligations.TrackOrderVisitsEachTrack : Prop :=
  ∀ (p : Programme), p.start < p.tracks.length →
    let n := p.tracks.length
    (p.order = .linear → ∀ k, k < n → p.track k = (p.start + k) % n)
    ∧ (p.order = .interleaved → (n = 1 ∨ n = 2 ∨ n = 4 ∨ n = 8) → ∀ k, k < n → p.track k = p.start ^^^ k)
    ∧ (p.order = .interleaved → ¬(n = 1 ∨ n = 2 ∨ n = 4 ∨ n = 8) → ∀ k, k < n → p.track k = (p.start + k) % n)
    ∧ (n ≤ 8 → ∀ i, i < n → ∃ k, k < n ∧ p.track k = i ∧ ∀ j, j < n → p.track j = i → j = k)
    ∧ ∀ (s : State) (i g : Nat) (e : Segment), i < 8 → s.TablesRising → s.programme i = p → p.state = .running →
      p.tracks[p.track p.counter]? = some g → s.segment? g = some e → p.offset + 1 = (e.blocks - 1) * 256 + e.lastBytes →
      ∃ t, exec .playoutFrame s = .next t ∧ t.programme i = { p with counter := (p.counter + 1) % n, offset := 0 }

/-- The two clocks. A tick first takes the expiries still due in the tick that ends, each as its own command takes it, and then
raises the tick count by 1; with none due it does nothing else (R184; the order among them is the model's choice, log entry 26,
and so is that a sender may give an expiry's own command before, log entry 3). A frame of the playout clock likewise first takes
the block boundary marked by the frame before it and the phrase ends still due; it then places one byte in each timeslot of both
highways, moves the cursors past the bytes placed and counts the frame; a block boundary is marked after every 256th and none is
lost, and nothing else changes (R145, R146, R149, R157, R158, R185; the order is log entry 26, and that the mark and the count of
frames are held as state is log entry 3). A RUNNING programme passes over its undefined tracks in the frame that reaches them
(R149); that its counter stands on an undefined track until then is the model's choice (log entry 24). -/
def Obligations.ClocksCountAndPlay : Prop :=
  ∀ s : State,
    (∃ u, State.Runs s.expiries s u ∧ u.settings = s.settings ∧ exec .tick s = .next { u with tick := s.tick + 1 })
    ∧ ((∀ d, s.IsDeadline d → (s.tick - d).toInt < 0) → exec .tick s = .next { s with tick := s.tick + 1 })
    ∧ (∃ u, State.Runs s.playoutEvents s u ∧ u.settings = { s.settings with boundaryDue := false }
      ∧ exec .playoutFrame s = .next u.frame)
    ∧ (s.boundaryDue = false →
      (∀ h ts, (s.channel h ts).state = .playing →
        ∃ phrase, (s.channel h ts).phrase = some phrase ∧ (s.channel h ts).segIndex < phrase.length) →
      exec .playoutFrame s = .next s.frame)
    ∧ (s.TablesRising → let t := s.frame
      t = { s with highwayA := t.highwayA, highwayB := t.highwayB, programmes := t.programmes
                   frameCount := (s.frameCount + 1) % 256, boundaryDue := decide ((s.frameCount + 1) % 256 = 0) }
      ∧ (∀ h, (t.highway h).deferral = (s.highway h).deferral ∧ (t.highway h).output.length = 128)
      ∧ (∀ n, n < 8 → let p := s.programme n
        (p.state ≠ .running → t.programme n = p ∧ ∀ h, (t.highway h).output[n]? = some s.silence)
        ∧ (p.state = .running → (∀ g ∈ p.tracks, s.segment? g = none) →
          t.programme n = p ∧ ∀ h, (t.highway h).output[n]? = some s.silence)
        ∧ (∀ (g : Nat) (e : Segment), p.state = .running → p.tracks[p.track p.counter]? = some g → s.segment? g = some e →
          p.offset < (e.blocks - 1) * 256 + e.lastBytes →
          (∀ h, (t.highway h).output[n]? = some (Memory.read s.store (e.first * 256 + p.offset)))
          ∧ t.programme n = (if p.offset + 1 < (e.blocks - 1) * 256 + e.lastBytes then { p with offset := p.offset + 1 }
            else { p with counter := (p.counter + 1) % p.tracks.length, offset := 0 }))
        ∧ ∀ (m g : Nat) (e : Segment), p.state = .running → p.counter < p.tracks.length → 1 ≤ m → m < p.tracks.length →
          (∀ i, i < m → ∃ f, p.tracks[p.track ((p.counter + i) % p.tracks.length)]? = some f ∧ s.segment? f = none) →
          p.tracks[p.track ((p.counter + m) % p.tracks.length)]? = some g → s.segment? g = some e →
          0 < (e.blocks - 1) * 256 + e.lastBytes →
          (∀ h, (t.highway h).output[n]? = some (Memory.read s.store (e.first * 256)))
          ∧ t.programme n = (if 1 < (e.blocks - 1) * 256 + e.lastBytes then
              { p with counter := (p.counter + m) % p.tracks.length, offset := 1 }
            else { p with counter := (p.counter + m + 1) % p.tracks.length, offset := 0 }))
      ∧ ∀ h ts, 8 ≤ ts → ts < 128 → let k := s.channel h ts
        (k.state ≠ .playing → t.channel h ts = k ∧ (t.highway h).output[ts]? = some s.silence)
        ∧ ∀ (phrase : List Nat) (g : Nat) (e : Segment), k.state = .playing → k.phrase = some phrase →
          phrase[k.segIndex]? = some g → s.segment? g = some e → k.offset < (e.blocks - 1) * 256 + e.lastBytes →
          (∀ f ∈ phrase, ∃ d, s.segment? f = some d ∧ 0 < (d.blocks - 1) * 256 + d.lastBytes) →
          (t.highway h).output[ts]? = some (Memory.read s.store (e.first * 256 + k.offset))
          ∧ t.channel h ts = (if k.offset + 1 < (e.blocks - 1) * 256 + e.lastBytes then { k with offset := k.offset + 1 }
            else { k with segIndex := k.segIndex + 1, offset := 0 }))

/-- A block boundary that has been marked: DRAINING channels become FREE, BOUND channels with a phrase start playing from its
first byte, and the others stay as they are; then the grants are made, from Highway A's deferral list and then from Highway B's,
while one can be made, and nothing else changes (R155, R157). The grants are covered where no exit is pending and no LISTEN is held
on the two links and every call in the two lists has a phrase that is not empty. A boundary that has not been marked changes
nothing (the model's reading, log entry 2), and the mark is used up by its event (log entry 3). -/
def Obligations.BlockBoundaryMovesChannels : Prop :=
  ∀ s : State, (s.boundaryDue = false → exec .blockBoundary s = .next s)
    ∧ (s.boundaryDue = true → s.TablesRising →
      ∃ m, m = { s with boundaryDue := false, highwayA := m.highwayA, highwayB := m.highwayB }
        ∧ (∀ h, (m.highway h).deferral = (s.highway h).deferral ∧ (m.highway h).output = (s.highway h).output
          ∧ ∀ ts, let k := s.channel h ts
            (k.state = .draining → m.channel h ts = Channel.free)
            ∧ (k.state = .bound → k.phrase ≠ none →
              m.channel h ts = { k with state := .playing, segIndex := 0, offset := 0 })
            ∧ (k.state = .bound → k.phrase = none → m.channel h ts = k)
            ∧ (k.state = .playing ∨ k.state = .free → m.channel h ts = k))
        ∧ ((∀ h, (s.highway h).deferral = []) → exec .blockBoundary s = .next m)
        ∧ ((∀ l, l ≠ .s → (s.link l).exitOrder = [] ∧ (s.link l).listenOrder = []) →
          (∀ h, ∀ e ∈ (s.highway h).deferral, ∃ c t step, s.call? e.call = some c ∧ c.owner.highway? = some h
            ∧ c.treatment = some t ∧ (s.pattern t.bank t.pattern)[t.step]? = some step ∧ s.assemble e.call c step ≠ []) →
          ∃ u t, State.Grants .a m u ∧ State.Grants .b u t ∧ exec .blockBoundary s = .next t))

/-- The phrase-end event: with a free notice entry the LISTEN of the return goes out, the channel drains and the phrase step is
complete, here at the last step of the pattern; with none the channel stays BOUND with no phrase and the return is held
(R126, R130, R137, R144, R158, R159). -/
def Obligations.PhraseEndReturnsCaller : Prop :=
  ∀ (s : State) (h : Highway) (ts y : Nat) (c : Call) (t : Treatment) (phrase : List Nat),
    let k := s.channel h ts
    k.state = .playing → k.holder = some y → k.phrase = some phrase → phrase.length ≤ k.segIndex → s.call? y = some c →
    c.treatment = some t → c.owner.highway? = some h →
    let back : Source := match t.lastProgramme with | some p => .programme p | none => .none
    (0 < s.freeNotices c.owner → (s.pattern t.bank t.pattern).length = t.step + 1 →
      exec (.phraseEnd h ts) s = .next (
        let u := (s.updUseCounts phrase (· - 1)).setChannel h ts Channel.draining
        let t' := { t with step := t.step + 1, state := .finished, deadline := none, source := back }
        let u := u.setCall y { c with treatment := some t' }
        u.setLink c.owner
          { u.link c.owner with
            outbound := (u.link c.owner).outbound ++ [.notice (.listen y c.ref h t.lastProgramme)] }))
    ∧ (s.freeNotices c.owner = 0 →
      exec (.phraseEnd h ts) s = .next (
        let u := (s.updUseCounts phrase (· - 1)).setChannel h ts
          { state := .bound, holder := some y, phrase := none, segIndex := 0, offset := 0 }
        let u := u.setCall y { c with treatment := some { t with state := .returning } }
        u.setLink c.owner { u.link c.owner with listenOrder := (u.link c.owner).listenOrder ++ [y] }))

/-! ## Links -/

/-- The transmission of a link's head entry completes: the entry leaves, and the rest keep their order. A reply sets off
nothing, nor does an entry of Link S. A freed notice entry of a switching link sets off the work that waits for it, in the same
event and before its monitoring notices: the four stages of `Ev.resumeWork`, with Link A's before Link B's where one event frees
both (R178, R180). With exactly one entry free after the removal, that work is one unit: the oldest pending exit; where there is
none, the oldest held LISTEN; where there is none, the grant to the head of the deferral list; and where none can be made, at
whatever number of free entries, the distribution attempts, each as the command that names it does it (log entry 5). Nothing else
changes where nothing waits and no agent is AVAILABLE. -/
def Obligations.TransmissionRemovesHead : Prop :=
  (∀ (s : State) (l : Link) (x : OutEntry) (rest : List OutEntry), (s.link l).up = true → (s.link l).outbound = x :: rest →
    let freed := s.setLink l { s.link l with outbound := rest }
    (x.isNotice = false ∨ l = .s ∨ (s.NothingWaits l ∧ s.available = []) → exec (.transmissionComplete l) s = .next freed)
    ∧ (∀ h, x.isNotice = true → l.highway? = some h →
      exec (.transmissionComplete l) s = .next (({ st := freed } : Ev).resumeWork l).deliverOffered
      ∧ (∀ y c reason later, freed.freeNotices l = 1 → (s.link l).exitOrder = y :: later → s.call? y = some c →
        c.exitPending = some reason → exec (.transmissionComplete l) s = exec (.pendingExitCompletion l) freed)
      ∧ ((s.link l).exitOrder = [] →
        (∀ y c t later, freed.freeNotices l = 1 → (s.link l).listenOrder = y :: later → s.call? y = some c → c.owner = l →
          c.treatment = some t →
          (t.heldSource ≠ none → exec (.transmissionComplete l) s = exec (.heldSourceQueued l) freed)
          ∧ (t.heldSource = none → t.state = .returning → s.heldTimeslot h y ≠ none →
            exec (.transmissionComplete l) s = exec (.heldReturnQueued l) freed))
        ∧ ((s.link l).listenOrder = [] →
          (∀ y d later c t step ts, freed.freeNotices l = 1 → (s.highway h).deferral = { call := y, deadline := d } :: later →
            8 ≤ ts → ts < 128 → (s.channel h ts).state = .free → s.call? y = some c → c.owner = l → c.treatment = some t →
            (s.pattern t.bank t.pattern)[t.step]? = some step → s.assemble y c step ≠ [] →
            exec (.transmissionComplete l) s = exec (.deferralGrant h) freed)
          ∧ ((s.highway h).deferral = [] ∨ (∀ ts, 8 ≤ ts → ts < 128 → (s.channel h ts).state ≠ .free) →
            exec (.transmissionComplete l) s = exec (.freedSpaceAttempts l) freed))))
    ∧ ∃ t, exec (.transmissionComplete l) s = .next t ∧ t.settings = s.settings ∧ s.SameLinks t
      ∧ (∀ k, (t.link k).inbound = (s.link k).inbound)
      ∧ (∃ ns : List Notice, (t.link l).outbound = rest ++ ns.map OutEntry.notice)
      ∧ ∀ k, k ≠ l → ∃ ns : List Notice, (t.link k).outbound = (s.link k).outbound ++ ns.map OutEntry.notice)
  ∧ ∀ e : Ev, (e.freedA = true → e.freedB = true → e.finish = ((e.resumeWork .a).resumeWork .b).deliverOffered)
    ∧ (e.freedA = false → e.freedB = false → e.finish = e.deliverOffered)

/-- A link that is UP goes DOWN: its queues are emptied and nothing is reserved on it. The loss of Link S does nothing else. The
loss of a switching link removes the calls it owns, counting ABANDONED for each that waited, and logs out the agents it homes:
written out for the states in which the calls it owns are WAITING and none of its agents holds an offer or a call, and, call by
call and agent by agent, for every state whose records agree in which no offer follows, because no agent of the other link is
qualified for a queue, no step is held and nothing waits on the other link: an offer of a call to an agent of the other link is
withdrawn with OFFER_CANCEL, a call of the other link returns to WAITING or loses its agent, and an agent of the other link is
settled or starts wrap-up (R9, R18, R24, R28, R53, R79, R84 to R86, R94, R140, R161, R173, R182). A link that comes UP again has
empty queues and no reservations; its permission set, enables, fault count and notices-dropped flag are as they were; every
channel of its highway is FREE and the deferral list is empty; and nothing else changes (R161, R183). -/
def Obligations.LinkLossAndRegain : Prop :=
  (∀ (s : State) (l : Link), (s.link l).up = true →
    let lost : LinkRec :=
      { s.link l with up := false, receiving := [], inbound := [], outbound := [], reserved := 0, exitOrder := [],
                      listenOrder := [] }
    (l = .s → exec (.linkDown l) s = .next (s.setLink l lost))
    ∧ (∃ t, exec (.linkDown l) s = .next t ∧ t.settings = s.settings ∧ (t.link l).up = false ∧ (t.link l).receiving = []
      ∧ (t.link l).inbound = [] ∧ (t.link l).outbound = [] ∧ (t.link l).reserved = 0
      ∧ (t.link l).permissions = (s.link l).permissions ∧ (t.link l).enables = (s.link l).enables
      ∧ (t.link l).faultCount = (s.link l).faultCount
      ∧ ∀ k, k ≠ l → (t.link k).inbound = (s.link k).inbound
        ∧ ∃ ns : List Notice, (t.link k).outbound = (s.link k).outbound ++ ns.map OutEntry.notice)
    ∧ (l ≠ .s → s.TablesRising →
      (∀ y c, s.call? y = some c → c.owner = l → c.state = .waiting) →
      (∀ x, (s.agent x).home = some l → (s.agent x).offer = none ∧ (s.agent x).call = none) →
      (∀ q, (s.queue q).order.Nodup) → (∀ y c, s.call? y = some c → c.owner = l → y ∈ (s.queue c.queue).order) →
      ∃ t, exec (.linkDown l) s = .next t ∧ t.link l = { lost with dropped := (t.link l).dropped }
        ∧ (∀ y, t.call? y = match s.call? y with
          | some c => if c.owner = l then none else some c
          | none => none)
        ∧ (∀ x, t.agent x = if (s.agent x).home = some l ∧ (s.agent x).state ≠ .loggedOut then (s.agent x).out else s.agent x)
        ∧ t.available = s.available.filter (fun x => !decide ((s.agent x).home = some l ∧ (s.agent x).state ≠ .loggedOut))
        ∧ t.recent = s.recent.filter (fun e => !decide ((s.agent e.agent).home = some l ∧ (s.agent e.agent).state ≠ .loggedOut))
        ∧ (∀ q, (t.queue q).order = (s.queue q).order.filter (fun y => !((s.call? y).any fun c => c.owner == l && c.queue == q))
          ∧ ((t.queue q).stats.abandoned).value = ((s.queue q).stats.abandoned).value
            + BitVec.ofNat 32 (s.calls.filter fun e => e.2.owner == l && e.2.queue == q).length)
        ∧ t.token = s.token
        ∧ ∀ h, l.highway? = some h → (t.highway h).deferral = []
          ∧ ∀ ts, ((s.channel h ts).state = .bound ∨ (s.channel h ts).state = .playing) → t.channel h ts = Channel.draining)
    ∧ (l ≠ .s → s.TablesRising → s.RecordsAgree → s.LinksBounded → s.ReservationsExact →
      (∀ k, k ≠ l → s.NothingWaits k) → (∀ y c t, s.call? y = some c → c.treatment = some t → t.state ≠ .held) →
      (∀ x q, (s.agent x).home ≠ some l → s.qualified (s.agent x) q = false) →
      let lostCall (y : Nat) : Bool := (s.call? y).any fun c => c.owner == l
      let lostAgent (x : Nat) : Bool := (s.agent x).home == some l
      -- an agent of the other link whose call the lost link owns
      let released (a : Agent) (c : Call) (since : Tick) : Agent :=
        let talk := min 65535 (s.tick - since).toNat
        let b : Agent :=
          { a with call := none, wrap := none, handled := min 65535 (a.handled + 1), talkTotal := min 4294967295 (a.talkTotal + talk)
                   saturated := a.saturated || decide (65535 < a.handled + 1) || decide (4294967295 < a.talkTotal + talk) }
        let limit := (s.queue c.queue).config.wrapLimit
        if limit ≠ 0 then
          { b with state := .wrapUp
                   wrap := some { queue := c.queue, talk := talk, start := s.tick
                                  deadline := s.tick + BitVec.ofNat 32 limit, granted := 0 } }
        else match a.pending with
          | .logout => b.out
          | .notReady reason => { b with state := .notReady, reason := reason, pending := .none }
          | .none => { b with state := .available, availSince := s.tick }
      ∃ t, exec (.linkDown l) s = .next t ∧ t.token = s.token
        ∧ (∀ y, t.call? y = match s.call? y with
          | none => none
          | some c =>
              if c.owner = l then none
              else if c.offer.any fun o => lostAgent o.agent then some { c with state := .waiting, offer := none }
              else if c.agent.any lostAgent then some { c with agent := none }
              else some c)
        ∧ (∀ x, let a := s.agent x
          (lostAgent x = true → t.agent x =
            { a.out with lastOutcome := if a.offer.isSome then some .withdrawn else a.lastOutcome })
          ∧ (lostAgent x = false → (∀ o, a.offer = some o → lostCall o.call = true →
              t.agent x = match a.pending with
                | .notReady reason => { a with state := .notReady, reason := reason, pending := .none, offer := none
                                               lastOutcome := some .withdrawn }
                | _ => { a with state := .available, pending := .none, offer := none, lastOutcome := some .withdrawn })
            ∧ (∀ y c since, a.call = some y → s.call? y = some c → c.owner = l → c.connectTick = some since →
              t.agent x = released a c since)
            ∧ ((∀ o, a.offer = some o → lostCall o.call = false) → (∀ y, a.call = some y → lostCall y = false) →
              t.agent x = a)))
        ∧ (∀ x, x ∈ t.available ↔ (t.agent x).state = .available)
        ∧ (∀ q, (t.queue q).order = (s.queue q).order.filter (fun y => !lostCall y)
          ∧ ((t.queue q).stats.abandoned).value = ((s.queue q).stats.abandoned).value
            + BitVec.ofNat 32 (s.calls.filter fun e => e.2.owner == l && e.2.queue == q && decide (e.2.state ≠ .connected)).length)
        ∧ ∀ k, k ≠ l → ∀ x o, (s.agent x).home = some k → (s.agent x).offer = some o → lostCall o.call = true →
          OutEntry.notice (.offerCancel o.token x o.call .callWithdrawn) ∈ (t.link k).outbound))
  ∧ ∀ (s : State) (l : Link), (s.link l).up = false →
    ∃ t, exec (.linkUp l) s = .next t
      ∧ t = { s.setLink l
          { up := true, receiving := [], inbound := [], outbound := [], reserved := 0
            permissions := (s.link l).permissions, enables := (s.link l).enables, faultCount := (s.link l).faultCount
            dropped := (s.link l).dropped, exitOrder := [], listenOrder := [] } with
          highwayA := t.highwayA, highwayB := t.highwayB, useCounts := t.useCounts }
      ∧ t.freeNotices l = 48
      ∧ (∀ h, if l.highway? = some h then
            (t.highway h).deferral = [] ∧ (t.highway h).output = (s.highway h).output ∧ ∀ ts, t.channel h ts = Channel.free
          else t.highway h = s.highway h)
      ∧ ((∀ h ts, l.highway? = some h → (s.channel h ts).phrase = none) → t.useCounts = s.useCounts)

/-! ## Work that waits for notice space -/

/-- One unit of stages 1 and 2 of R180, with a notice entry free on the link, by the rows that name one unit each, each only where
the stages before it have no work (the model's choice, log entry 5): the oldest pending exit sends its CALL_EXIT and removes the
call (R52); the oldest held source change sends its LISTEN and its MUSIC step begins (R128, R129); the oldest held return sends its
LISTEN and drains the channel, here at the last step of the pattern (R159). The orders in which they wait are state of the model's
own (log entry 7). -/
def Obligations.WaitingWorkResumes : Prop :=
  ∀ (s : State) (l : Link) (y : Nat) (c : Call) (h : Highway), l.highway? = some h → s.call? y = some c → c.owner = l →
    0 < s.freeNotices l →
    (∀ reason later, (s.link l).exitOrder = y :: later → c.exitPending = some reason → c.treatment = none →
      ∃ t, exec (.pendingExitCompletion l) s = .next t
        ∧ t.call? y = none ∧ s.SameCallsBut t y ∧ s.SameAgents t ∧ s.SamePlayout t ∧ t.settings = s.settings ∧ s.SameLinks t
        ∧ s.SameQueuesBut t c.queue ∧ t.queue c.queue = ((s.queue c.queue).without y).counted .exited
        ∧ (∃ ns : List Notice, (t.link l).outbound
            = (s.link l).outbound ++ .notice (.callExit y c.ref reason) :: ns.map OutEntry.notice)
        ∧ s.OnlyTold t
        ∧ ∀ k, (t.link k).reserved = (s.link k).reserved ∧ (t.link k).listenOrder = (s.link k).listenOrder
          ∧ (t.link k).exitOrder = if k = l then later.filter (· != y) else (s.link k).exitOrder)
    ∧ ∀ (t : Treatment) (later : List Nat), (s.link l).exitOrder = [] → (s.link l).listenOrder = y :: later →
      c.treatment = some t →
      (∀ p d, t.heldSource = some (.programme p) → (s.pattern t.bank t.pattern)[t.step]? = some (.music p d) →
        exec (.heldSourceQueued l) s = .next (
          let t' := { t with source := .programme p, lastProgramme := some p, heldSource := none, state := .running
                             deadline := if d = 0 then none else some (s.tick + BitVec.ofNat 32 d) }
          let u := s.setCall y { c with treatment := some t' }
          u.setLink l { u.link l with
            outbound := (u.link l).outbound ++ [.notice (.listen y c.ref h (some p))]
            listenOrder := later.filter (· != y) }))
      ∧ ∀ ts, t.heldSource = none → t.state = .returning → s.heldTimeslot h y = some ts →
        (s.channel h ts).phrase = none → (s.pattern t.bank t.pattern).length = t.step + 1 →
        exec (.heldReturnQueued l) s = .next (
          let t' := { t with step := t.step + 1, state := .finished, deadline := none
                             source := match t.lastProgramme with | some p => .programme p | none => .none }
          let u := (s.setChannel h ts Channel.draining).setCall y { c with treatment := some t' }
          u.setLink l { u.link l with
            outbound := (u.link l).outbound ++ [.notice (.listen y c.ref h t.lastProgramme)]
            listenOrder := later.filter (· != y) })

/-- Stages 3 and 4 of R180, by the rows that name one unit each, each only where the stages before it have no work (the model's
choice, log entry 5): the head of a deferral list is bound to the lowest FREE channel with its phrase assembled anew (R153, R155);
and the distribution attempts of freed space: queue by queue in ascending number, each repeated until it makes no offer, each offer
that of the first candidate of the waiting order that fits an agent to the first agent it fits; nothing changes where no agent is
AVAILABLE (R38, R57, R59, R60, R68). How a call comes by a channel: a phrase step that a step deadline reaches is bound at once
where the deferral list is empty, a channel is FREE and a notice entry is free, and joins the tail of the list otherwise; with a
defer limit of 0 it is skipped and counted, and one whose phrase is empty is passed over, the next step being run in the same
event (R115, R130, R152 to R154; that the skip is made inside the joining event is log entry 6). -/
def Obligations.GrantsAndAttemptsResume : Prop :=
  (∀ (s : State) (l : Link) (h : Highway), l.highway? = some h → (s.link l).exitOrder = [] → (s.link l).listenOrder = [] →
    (∀ (y ts : Nat) (d : Tick) (later : List Deferral) (c : Call) (t : Treatment) (step : PatternStep),
      (s.highway h).deferral = { call := y, deadline := d } :: later → 0 < s.freeNotices l →
      8 ≤ ts → ts < 128 → (s.channel h ts).state = .free →
      (∀ u, 8 ≤ u → u < ts → (s.channel h u).state ≠ .free) → s.call? y = some c → c.owner = l → c.treatment = some t →
      (s.pattern t.bank t.pattern)[t.step]? = some step → s.assemble y c step ≠ [] →
      exec (.deferralGrant h) s = .next (
        let phrase := s.assemble y c step
        let u := (s.updUseCounts phrase (· + 1)).setHighway h
          { s.highway h with deferral := later.filter fun e => e.call != y }
        let u := u.setChannel h ts { state := .bound, holder := some y, phrase := some phrase, segIndex := 0, offset := 0 }
        let u := u.setCall y { c with treatment := some { t with state := .playing, source := .personal ts } }
        u.setLink l { u.link l with outbound := (u.link l).outbound ++ [.notice (.listen y c.ref h (some ts))] }))
    ∧ ((s.highway h).deferral = [] →
      (s.available = [] → exec (.freedSpaceAttempts l) s = .next s)
      ∧ (∀ (x y q : Nat) (c : Call), s.available = [x] → q < 64 → (s.queue q).order = [y] → s.WaitsAlone y →
        (∀ p, p ≠ q → (s.queue p).order = []) → s.call? y = some c → c.queue = q → c.state = .waiting →
        c.exitPending = none → s.qualified (s.agent x) q = true → s.pairable c (s.agent x) = true → 0 < s.freeNotices l →
        exec (.freedSpaceAttempts l) s =
          .next ((s.offerMade y c x).agentReport x (s.agent x) ((s.offerMade y c x).agent x) .offer))
      ∧ ∃ os u, State.FreedAttempts l (List.range 64) s os u ∧ exec (.freedSpaceAttempts l) s = .next (s.offersReported u os)))
  ∧ ∀ (s : State) (y : Nat) (c : Call) (t : Treatment) (h : Highway) (deadline : Tick) (step : PatternStep),
    s.call? y = some c → c.treatment = some t → c.owner.highway? = some h → t.deadline = some deadline →
    0 ≤ (s.tick - deadline).toInt → (s.pattern t.bank t.pattern)[t.step + 1]? = some step →
    (step = .position ∨ step = .waitEstimate ∨ ∃ segments, step = .announce segments) →
    let phrase := s.assemble y c step
    let asks : Treatment := { t with step := t.step + 1, deadline := none }
    let free (ts : Nat) : Prop := 8 ≤ ts ∧ ts < 128 ∧ (s.channel h ts).state = .free
    let granted : Prop := (s.highway h).deferral = [] ∧ 0 < s.freeNotices c.owner ∧ ∃ ts, free ts
    (phrase ≠ [] → ∀ ts, (s.highway h).deferral = [] → 0 < s.freeNotices c.owner → free ts → (∀ u, u < ts → ¬free u) →
      exec (.stepDeadline y) s = .next (
        let u := (s.updUseCounts phrase (· + 1)).setChannel h ts
          { state := .bound, holder := some y, phrase := some phrase, segIndex := 0, offset := 0 }
        let u := u.setCall y { c with treatment := some { asks with state := .playing, source := .personal ts } }
        u.setLink c.owner
          { u.link c.owner with outbound := (u.link c.owner).outbound ++ [.notice (.listen y c.ref h (some ts))] }))
    ∧ (phrase ≠ [] → ¬granted → 0 < s.deferLimit →
      exec (.stepDeadline y) s = .next (
        let r := s.highway h
        (s.setHighway h { r with
          deferral := r.deferral ++ [{ call := y, deadline := s.tick + BitVec.ofNat 32 s.deferLimit }] }).setCall y
          { c with treatment := some { asks with state := .awaitChannel } }))
    ∧ ∀ programme d, (s.pattern t.bank t.pattern)[t.step + 2]? = some (soundStep programme d) →
      (phrase = [] → exec (.stepDeadline y) s = .next (s.soundRun y c t (t.step + 2) programme d))
      ∧ (phrase ≠ [] → ¬granted → s.deferLimit = 0 →
        ∃ u, exec (.stepDeadline y) s = .next u
          ∧ let m := (s.setQueue c.queue ((s.queue c.queue).counted .announceSkipped)).soundRun y c t (t.step + 2) programme d
          u = { m with linkA := u.linkA, linkB := u.linkB, linkS := u.linkS } ∧ m.SameLinks u
          ∧ ∀ k, (u.link k).inbound = (m.link k).inbound ∧ (u.link k).reserved = (m.link k).reserved
            ∧ (u.link k).exitOrder = (m.link k).exitOrder ∧ (u.link k).listenOrder = (m.link k).listenOrder
            ∧ ∃ ns : List Notice, (u.link k).outbound = (m.link k).outbound ++ ns.map OutEntry.notice)
end

