-- ==== Sys2Proof/Laws/State.lean ====
section
/-!
SUPPORT. One lemma per field for each update of State: the fields an update leaves are as they were. Every one is true by
computation.
-/
namespace Sys2Proof.Machine

open Sys2Proof

/-! ## State.setLink -/

@[simp] theorem State.setLink_pending (s : State) (l : Link) (r : LinkRec) : (s.setLink l r).pending = s.pending := by cases l <;> rfl
@[simp] theorem State.setLink_tick (s : State) (l : Link) (r : LinkRec) : (s.setLink l r).tick = s.tick := by cases l <;> rfl
@[simp] theorem State.setLink_frameCount (s : State) (l : Link) (r : LinkRec) : (s.setLink l r).frameCount = s.frameCount := by cases l <;> rfl
@[simp] theorem State.setLink_boundaryDue (s : State) (l : Link) (r : LinkRec) : (s.setLink l r).boundaryDue = s.boundaryDue := by cases l <;> rfl
@[simp] theorem State.setLink_agents (s : State) (l : Link) (r : LinkRec) : (s.setLink l r).agents = s.agents := by cases l <;> rfl
@[simp] theorem State.setLink_available (s : State) (l : Link) (r : LinkRec) : (s.setLink l r).available = s.available := by cases l <;> rfl
@[simp] theorem State.setLink_calls (s : State) (l : Link) (r : LinkRec) : (s.setLink l r).calls = s.calls := by cases l <;> rfl
@[simp] theorem State.setLink_queues (s : State) (l : Link) (r : LinkRec) : (s.setLink l r).queues = s.queues := by cases l <;> rfl
@[simp] theorem State.setLink_token (s : State) (l : Link) (r : LinkRec) : (s.setLink l r).token = s.token := by cases l <;> rfl
@[simp] theorem State.setLink_recent (s : State) (l : Link) (r : LinkRec) : (s.setLink l r).recent = s.recent := by cases l <;> rfl
@[simp] theorem State.setLink_vocabulary (s : State) (l : Link) (r : LinkRec) : (s.setLink l r).vocabulary = s.vocabulary := by cases l <;> rfl
@[simp] theorem State.setLink_patterns0 (s : State) (l : Link) (r : LinkRec) : (s.setLink l r).patterns0 = s.patterns0 := by cases l <;> rfl
@[simp] theorem State.setLink_patterns1 (s : State) (l : Link) (r : LinkRec) : (s.setLink l r).patterns1 = s.patterns1 := by cases l <;> rfl
@[simp] theorem State.setLink_activeBank (s : State) (l : Link) (r : LinkRec) : (s.setLink l r).activeBank = s.activeBank := by cases l <;> rfl
@[simp] theorem State.setLink_openBank (s : State) (l : Link) (r : LinkRec) : (s.setLink l r).openBank = s.openBank := by cases l <;> rfl
@[simp] theorem State.setLink_refs0 (s : State) (l : Link) (r : LinkRec) : (s.setLink l r).refs0 = s.refs0 := by cases l <;> rfl
@[simp] theorem State.setLink_refs1 (s : State) (l : Link) (r : LinkRec) : (s.setLink l r).refs1 = s.refs1 := by cases l <;> rfl
@[simp] theorem State.setLink_store (s : State) (l : Link) (r : LinkRec) : (s.setLink l r).store = s.store := by cases l <;> rfl
@[simp] theorem State.setLink_segments (s : State) (l : Link) (r : LinkRec) : (s.setLink l r).segments = s.segments := by cases l <;> rfl
@[simp] theorem State.setLink_useCounts (s : State) (l : Link) (r : LinkRec) : (s.setLink l r).useCounts = s.useCounts := by cases l <;> rfl
@[simp] theorem State.setLink_programmes (s : State) (l : Link) (r : LinkRec) : (s.setLink l r).programmes = s.programmes := by cases l <;> rfl
@[simp] theorem State.setLink_highwayA (s : State) (l : Link) (r : LinkRec) : (s.setLink l r).highwayA = s.highwayA := by cases l <;> rfl
@[simp] theorem State.setLink_highwayB (s : State) (l : Link) (r : LinkRec) : (s.setLink l r).highwayB = s.highwayB := by cases l <;> rfl
@[simp] theorem State.setLink_silence (s : State) (l : Link) (r : LinkRec) : (s.setLink l r).silence = s.silence := by cases l <;> rfl
@[simp] theorem State.setLink_deferLimit (s : State) (l : Link) (r : LinkRec) : (s.setLink l r).deferLimit = s.deferLimit := by cases l <;> rfl

/-! ## State.setAgent -/

@[simp] theorem State.setAgent_pending (s : State) (slot : Nat) (a : Agent) : (s.setAgent slot a).pending = s.pending := rfl
@[simp] theorem State.setAgent_tick (s : State) (slot : Nat) (a : Agent) : (s.setAgent slot a).tick = s.tick := rfl
@[simp] theorem State.setAgent_frameCount (s : State) (slot : Nat) (a : Agent) : (s.setAgent slot a).frameCount = s.frameCount := rfl
@[simp] theorem State.setAgent_boundaryDue (s : State) (slot : Nat) (a : Agent) : (s.setAgent slot a).boundaryDue = s.boundaryDue := rfl
@[simp] theorem State.setAgent_linkA (s : State) (slot : Nat) (a : Agent) : (s.setAgent slot a).linkA = s.linkA := rfl
@[simp] theorem State.setAgent_linkB (s : State) (slot : Nat) (a : Agent) : (s.setAgent slot a).linkB = s.linkB := rfl
@[simp] theorem State.setAgent_linkS (s : State) (slot : Nat) (a : Agent) : (s.setAgent slot a).linkS = s.linkS := rfl
@[simp] theorem State.setAgent_available (s : State) (slot : Nat) (a : Agent) : (s.setAgent slot a).available = s.available := rfl
@[simp] theorem State.setAgent_calls (s : State) (slot : Nat) (a : Agent) : (s.setAgent slot a).calls = s.calls := rfl
@[simp] theorem State.setAgent_queues (s : State) (slot : Nat) (a : Agent) : (s.setAgent slot a).queues = s.queues := rfl
@[simp] theorem State.setAgent_token (s : State) (slot : Nat) (a : Agent) : (s.setAgent slot a).token = s.token := rfl
@[simp] theorem State.setAgent_recent (s : State) (slot : Nat) (a : Agent) : (s.setAgent slot a).recent = s.recent := rfl
@[simp] theorem State.setAgent_vocabulary (s : State) (slot : Nat) (a : Agent) : (s.setAgent slot a).vocabulary = s.vocabulary := rfl
@[simp] theorem State.setAgent_patterns0 (s : State) (slot : Nat) (a : Agent) : (s.setAgent slot a).patterns0 = s.patterns0 := rfl
@[simp] theorem State.setAgent_patterns1 (s : State) (slot : Nat) (a : Agent) : (s.setAgent slot a).patterns1 = s.patterns1 := rfl
@[simp] theorem State.setAgent_activeBank (s : State) (slot : Nat) (a : Agent) : (s.setAgent slot a).activeBank = s.activeBank := rfl
@[simp] theorem State.setAgent_openBank (s : State) (slot : Nat) (a : Agent) : (s.setAgent slot a).openBank = s.openBank := rfl
@[simp] theorem State.setAgent_refs0 (s : State) (slot : Nat) (a : Agent) : (s.setAgent slot a).refs0 = s.refs0 := rfl
@[simp] theorem State.setAgent_refs1 (s : State) (slot : Nat) (a : Agent) : (s.setAgent slot a).refs1 = s.refs1 := rfl
@[simp] theorem State.setAgent_store (s : State) (slot : Nat) (a : Agent) : (s.setAgent slot a).store = s.store := rfl
@[simp] theorem State.setAgent_segments (s : State) (slot : Nat) (a : Agent) : (s.setAgent slot a).segments = s.segments := rfl
@[simp] theorem State.setAgent_useCounts (s : State) (slot : Nat) (a : Agent) : (s.setAgent slot a).useCounts = s.useCounts := rfl
@[simp] theorem State.setAgent_programmes (s : State) (slot : Nat) (a : Agent) : (s.setAgent slot a).programmes = s.programmes := rfl
@[simp] theorem State.setAgent_highwayA (s : State) (slot : Nat) (a : Agent) : (s.setAgent slot a).highwayA = s.highwayA := rfl
@[simp] theorem State.setAgent_highwayB (s : State) (slot : Nat) (a : Agent) : (s.setAgent slot a).highwayB = s.highwayB := rfl
@[simp] theorem State.setAgent_silence (s : State) (slot : Nat) (a : Agent) : (s.setAgent slot a).silence = s.silence := rfl
@[simp] theorem State.setAgent_deferLimit (s : State) (slot : Nat) (a : Agent) : (s.setAgent slot a).deferLimit = s.deferLimit := rfl

/-! ## State.setCall -/

@[simp] theorem State.setCall_pending (s : State) (slot : Nat) (c : Call) : (s.setCall slot c).pending = s.pending := rfl
@[simp] theorem State.setCall_tick (s : State) (slot : Nat) (c : Call) : (s.setCall slot c).tick = s.tick := rfl
@[simp] theorem State.setCall_frameCount (s : State) (slot : Nat) (c : Call) : (s.setCall slot c).frameCount = s.frameCount := rfl
@[simp] theorem State.setCall_boundaryDue (s : State) (slot : Nat) (c : Call) : (s.setCall slot c).boundaryDue = s.boundaryDue := rfl
@[simp] theorem State.setCall_linkA (s : State) (slot : Nat) (c : Call) : (s.setCall slot c).linkA = s.linkA := rfl
@[simp] theorem State.setCall_linkB (s : State) (slot : Nat) (c : Call) : (s.setCall slot c).linkB = s.linkB := rfl
@[simp] theorem State.setCall_linkS (s : State) (slot : Nat) (c : Call) : (s.setCall slot c).linkS = s.linkS := rfl
@[simp] theorem State.setCall_agents (s : State) (slot : Nat) (c : Call) : (s.setCall slot c).agents = s.agents := rfl
@[simp] theorem State.setCall_available (s : State) (slot : Nat) (c : Call) : (s.setCall slot c).available = s.available := rfl
@[simp] theorem State.setCall_queues (s : State) (slot : Nat) (c : Call) : (s.setCall slot c).queues = s.queues := rfl
@[simp] theorem State.setCall_token (s : State) (slot : Nat) (c : Call) : (s.setCall slot c).token = s.token := rfl
@[simp] theorem State.setCall_recent (s : State) (slot : Nat) (c : Call) : (s.setCall slot c).recent = s.recent := rfl
@[simp] theorem State.setCall_vocabulary (s : State) (slot : Nat) (c : Call) : (s.setCall slot c).vocabulary = s.vocabulary := rfl
@[simp] theorem State.setCall_patterns0 (s : State) (slot : Nat) (c : Call) : (s.setCall slot c).patterns0 = s.patterns0 := rfl
@[simp] theorem State.setCall_patterns1 (s : State) (slot : Nat) (c : Call) : (s.setCall slot c).patterns1 = s.patterns1 := rfl
@[simp] theorem State.setCall_activeBank (s : State) (slot : Nat) (c : Call) : (s.setCall slot c).activeBank = s.activeBank := rfl
@[simp] theorem State.setCall_openBank (s : State) (slot : Nat) (c : Call) : (s.setCall slot c).openBank = s.openBank := rfl
@[simp] theorem State.setCall_refs0 (s : State) (slot : Nat) (c : Call) : (s.setCall slot c).refs0 = s.refs0 := rfl
@[simp] theorem State.setCall_refs1 (s : State) (slot : Nat) (c : Call) : (s.setCall slot c).refs1 = s.refs1 := rfl
@[simp] theorem State.setCall_store (s : State) (slot : Nat) (c : Call) : (s.setCall slot c).store = s.store := rfl
@[simp] theorem State.setCall_segments (s : State) (slot : Nat) (c : Call) : (s.setCall slot c).segments = s.segments := rfl
@[simp] theorem State.setCall_useCounts (s : State) (slot : Nat) (c : Call) : (s.setCall slot c).useCounts = s.useCounts := rfl
@[simp] theorem State.setCall_programmes (s : State) (slot : Nat) (c : Call) : (s.setCall slot c).programmes = s.programmes := rfl
@[simp] theorem State.setCall_highwayA (s : State) (slot : Nat) (c : Call) : (s.setCall slot c).highwayA = s.highwayA := rfl
@[simp] theorem State.setCall_highwayB (s : State) (slot : Nat) (c : Call) : (s.setCall slot c).highwayB = s.highwayB := rfl
@[simp] theorem State.setCall_silence (s : State) (slot : Nat) (c : Call) : (s.setCall slot c).silence = s.silence := rfl
@[simp] theorem State.setCall_deferLimit (s : State) (slot : Nat) (c : Call) : (s.setCall slot c).deferLimit = s.deferLimit := rfl

/-! ## State.freeCall -/

@[simp] theorem State.freeCall_pending (s : State) (slot : Nat) : (s.freeCall slot).pending = s.pending := rfl
@[simp] theorem State.freeCall_tick (s : State) (slot : Nat) : (s.freeCall slot).tick = s.tick := rfl
@[simp] theorem State.freeCall_frameCount (s : State) (slot : Nat) : (s.freeCall slot).frameCount = s.frameCount := rfl
@[simp] theorem State.freeCall_boundaryDue (s : State) (slot : Nat) : (s.freeCall slot).boundaryDue = s.boundaryDue := rfl
@[simp] theorem State.freeCall_linkA (s : State) (slot : Nat) : (s.freeCall slot).linkA = s.linkA := rfl
@[simp] theorem State.freeCall_linkB (s : State) (slot : Nat) : (s.freeCall slot).linkB = s.linkB := rfl
@[simp] theorem State.freeCall_linkS (s : State) (slot : Nat) : (s.freeCall slot).linkS = s.linkS := rfl
@[simp] theorem State.freeCall_agents (s : State) (slot : Nat) : (s.freeCall slot).agents = s.agents := rfl
@[simp] theorem State.freeCall_available (s : State) (slot : Nat) : (s.freeCall slot).available = s.available := rfl
@[simp] theorem State.freeCall_queues (s : State) (slot : Nat) : (s.freeCall slot).queues = s.queues := rfl
@[simp] theorem State.freeCall_token (s : State) (slot : Nat) : (s.freeCall slot).token = s.token := rfl
@[simp] theorem State.freeCall_recent (s : State) (slot : Nat) : (s.freeCall slot).recent = s.recent := rfl
@[simp] theorem State.freeCall_vocabulary (s : State) (slot : Nat) : (s.freeCall slot).vocabulary = s.vocabulary := rfl
@[simp] theorem State.freeCall_patterns0 (s : State) (slot : Nat) : (s.freeCall slot).patterns0 = s.patterns0 := rfl
@[simp] theorem State.freeCall_patterns1 (s : State) (slot : Nat) : (s.freeCall slot).patterns1 = s.patterns1 := rfl
@[simp] theorem State.freeCall_activeBank (s : State) (slot : Nat) : (s.freeCall slot).activeBank = s.activeBank := rfl
@[simp] theorem State.freeCall_openBank (s : State) (slot : Nat) : (s.freeCall slot).openBank = s.openBank := rfl
@[simp] theorem State.freeCall_refs0 (s : State) (slot : Nat) : (s.freeCall slot).refs0 = s.refs0 := rfl
@[simp] theorem State.freeCall_refs1 (s : State) (slot : Nat) : (s.freeCall slot).refs1 = s.refs1 := rfl
@[simp] theorem State.freeCall_store (s : State) (slot : Nat) : (s.freeCall slot).store = s.store := rfl
@[simp] theorem State.freeCall_segments (s : State) (slot : Nat) : (s.freeCall slot).segments = s.segments := rfl
@[simp] theorem State.freeCall_useCounts (s : State) (slot : Nat) : (s.freeCall slot).useCounts = s.useCounts := rfl
@[simp] theorem State.freeCall_programmes (s : State) (slot : Nat) : (s.freeCall slot).programmes = s.programmes := rfl
@[simp] theorem State.freeCall_highwayA (s : State) (slot : Nat) : (s.freeCall slot).highwayA = s.highwayA := rfl
@[simp] theorem State.freeCall_highwayB (s : State) (slot : Nat) : (s.freeCall slot).highwayB = s.highwayB := rfl
@[simp] theorem State.freeCall_silence (s : State) (slot : Nat) : (s.freeCall slot).silence = s.silence := rfl
@[simp] theorem State.freeCall_deferLimit (s : State) (slot : Nat) : (s.freeCall slot).deferLimit = s.deferLimit := rfl

/-! ## State.updCall -/

@[simp] theorem State.updCall_pending (s : State) (slot : Nat) (f : Call → Call) : (s.updCall slot f).pending = s.pending := by unfold State.updCall; split <;> rfl
@[simp] theorem State.updCall_tick (s : State) (slot : Nat) (f : Call → Call) : (s.updCall slot f).tick = s.tick := by unfold State.updCall; split <;> rfl
@[simp] theorem State.updCall_frameCount (s : State) (slot : Nat) (f : Call → Call) : (s.updCall slot f).frameCount = s.frameCount := by unfold State.updCall; split <;> rfl
@[simp] theorem State.updCall_boundaryDue (s : State) (slot : Nat) (f : Call → Call) : (s.updCall slot f).boundaryDue = s.boundaryDue := by unfold State.updCall; split <;> rfl
@[simp] theorem State.updCall_linkA (s : State) (slot : Nat) (f : Call → Call) : (s.updCall slot f).linkA = s.linkA := by unfold State.updCall; split <;> rfl
@[simp] theorem State.updCall_linkB (s : State) (slot : Nat) (f : Call → Call) : (s.updCall slot f).linkB = s.linkB := by unfold State.updCall; split <;> rfl
@[simp] theorem State.updCall_linkS (s : State) (slot : Nat) (f : Call → Call) : (s.updCall slot f).linkS = s.linkS := by unfold State.updCall; split <;> rfl
@[simp] theorem State.updCall_agents (s : State) (slot : Nat) (f : Call → Call) : (s.updCall slot f).agents = s.agents := by unfold State.updCall; split <;> rfl
@[simp] theorem State.updCall_available (s : State) (slot : Nat) (f : Call → Call) : (s.updCall slot f).available = s.available := by unfold State.updCall; split <;> rfl
@[simp] theorem State.updCall_queues (s : State) (slot : Nat) (f : Call → Call) : (s.updCall slot f).queues = s.queues := by unfold State.updCall; split <;> rfl
@[simp] theorem State.updCall_token (s : State) (slot : Nat) (f : Call → Call) : (s.updCall slot f).token = s.token := by unfold State.updCall; split <;> rfl
@[simp] theorem State.updCall_recent (s : State) (slot : Nat) (f : Call → Call) : (s.updCall slot f).recent = s.recent := by unfold State.updCall; split <;> rfl
@[simp] theorem State.updCall_vocabulary (s : State) (slot : Nat) (f : Call → Call) : (s.updCall slot f).vocabulary = s.vocabulary := by unfold State.updCall; split <;> rfl
@[simp] theorem State.updCall_patterns0 (s : State) (slot : Nat) (f : Call → Call) : (s.updCall slot f).patterns0 = s.patterns0 := by unfold State.updCall; split <;> rfl
@[simp] theorem State.updCall_patterns1 (s : State) (slot : Nat) (f : Call → Call) : (s.updCall slot f).patterns1 = s.patterns1 := by unfold State.updCall; split <;> rfl
@[simp] theorem State.updCall_activeBank (s : State) (slot : Nat) (f : Call → Call) : (s.updCall slot f).activeBank = s.activeBank := by unfold State.updCall; split <;> rfl
@[simp] theorem State.updCall_openBank (s : State) (slot : Nat) (f : Call → Call) : (s.updCall slot f).openBank = s.openBank := by unfold State.updCall; split <;> rfl
@[simp] theorem State.updCall_refs0 (s : State) (slot : Nat) (f : Call → Call) : (s.updCall slot f).refs0 = s.refs0 := by unfold State.updCall; split <;> rfl
@[simp] theorem State.updCall_refs1 (s : State) (slot : Nat) (f : Call → Call) : (s.updCall slot f).refs1 = s.refs1 := by unfold State.updCall; split <;> rfl
@[simp] theorem State.updCall_store (s : State) (slot : Nat) (f : Call → Call) : (s.updCall slot f).store = s.store := by unfold State.updCall; split <;> rfl
@[simp] theorem State.updCall_segments (s : State) (slot : Nat) (f : Call → Call) : (s.updCall slot f).segments = s.segments := by unfold State.updCall; split <;> rfl
@[simp] theorem State.updCall_useCounts (s : State) (slot : Nat) (f : Call → Call) : (s.updCall slot f).useCounts = s.useCounts := by unfold State.updCall; split <;> rfl
@[simp] theorem State.updCall_programmes (s : State) (slot : Nat) (f : Call → Call) : (s.updCall slot f).programmes = s.programmes := by unfold State.updCall; split <;> rfl
@[simp] theorem State.updCall_highwayA (s : State) (slot : Nat) (f : Call → Call) : (s.updCall slot f).highwayA = s.highwayA := by unfold State.updCall; split <;> rfl
@[simp] theorem State.updCall_highwayB (s : State) (slot : Nat) (f : Call → Call) : (s.updCall slot f).highwayB = s.highwayB := by unfold State.updCall; split <;> rfl
@[simp] theorem State.updCall_silence (s : State) (slot : Nat) (f : Call → Call) : (s.updCall slot f).silence = s.silence := by unfold State.updCall; split <;> rfl
@[simp] theorem State.updCall_deferLimit (s : State) (slot : Nat) (f : Call → Call) : (s.updCall slot f).deferLimit = s.deferLimit := by unfold State.updCall; split <;> rfl

/-! ## State.updTreatment -/

@[simp] theorem State.updTreatment_pending (s : State) (slot : Nat) (f : Treatment → Treatment) : (s.updTreatment slot f).pending = s.pending := by simp [State.updTreatment]
@[simp] theorem State.updTreatment_tick (s : State) (slot : Nat) (f : Treatment → Treatment) : (s.updTreatment slot f).tick = s.tick := by simp [State.updTreatment]
@[simp] theorem State.updTreatment_frameCount (s : State) (slot : Nat) (f : Treatment → Treatment) : (s.updTreatment slot f).frameCount = s.frameCount := by simp [State.updTreatment]
@[simp] theorem State.updTreatment_boundaryDue (s : State) (slot : Nat) (f : Treatment → Treatment) : (s.updTreatment slot f).boundaryDue = s.boundaryDue := by simp [State.updTreatment]
@[simp] theorem State.updTreatment_linkA (s : State) (slot : Nat) (f : Treatment → Treatment) : (s.updTreatment slot f).linkA = s.linkA := by simp [State.updTreatment]
@[simp] theorem State.updTreatment_linkB (s : State) (slot : Nat) (f : Treatment → Treatment) : (s.updTreatment slot f).linkB = s.linkB := by simp [State.updTreatment]
@[simp] theorem State.updTreatment_linkS (s : State) (slot : Nat) (f : Treatment → Treatment) : (s.updTreatment slot f).linkS = s.linkS := by simp [State.updTreatment]
@[simp] theorem State.updTreatment_agents (s : State) (slot : Nat) (f : Treatment → Treatment) : (s.updTreatment slot f).agents = s.agents := by simp [State.updTreatment]
@[simp] theorem State.updTreatment_available (s : State) (slot : Nat) (f : Treatment → Treatment) : (s.updTreatment slot f).available = s.available := by simp [State.updTreatment]
@[simp] theorem State.updTreatment_queues (s : State) (slot : Nat) (f : Treatment → Treatment) : (s.updTreatment slot f).queues = s.queues := by simp [State.updTreatment]
@[simp] theorem State.updTreatment_token (s : State) (slot : Nat) (f : Treatment → Treatment) : (s.updTreatment slot f).token = s.token := by simp [State.updTreatment]
@[simp] theorem State.updTreatment_recent (s : State) (slot : Nat) (f : Treatment → Treatment) : (s.updTreatment slot f).recent = s.recent := by simp [State.updTreatment]
@[simp] theorem State.updTreatment_vocabulary (s : State) (slot : Nat) (f : Treatment → Treatment) : (s.updTreatment slot f).vocabulary = s.vocabulary := by simp [State.updTreatment]
@[simp] theorem State.updTreatment_patterns0 (s : State) (slot : Nat) (f : Treatment → Treatment) : (s.updTreatment slot f).patterns0 = s.patterns0 := by simp [State.updTreatment]
@[simp] theorem State.updTreatment_patterns1 (s : State) (slot : Nat) (f : Treatment → Treatment) : (s.updTreatment slot f).patterns1 = s.patterns1 := by simp [State.updTreatment]
@[simp] theorem State.updTreatment_activeBank (s : State) (slot : Nat) (f : Treatment → Treatment) : (s.updTreatment slot f).activeBank = s.activeBank := by simp [State.updTreatment]
@[simp] theorem State.updTreatment_openBank (s : State) (slot : Nat) (f : Treatment → Treatment) : (s.updTreatment slot f).openBank = s.openBank := by simp [State.updTreatment]
@[simp] theorem State.updTreatment_refs0 (s : State) (slot : Nat) (f : Treatment → Treatment) : (s.updTreatment slot f).refs0 = s.refs0 := by simp [State.updTreatment]
@[simp] theorem State.updTreatment_refs1 (s : State) (slot : Nat) (f : Treatment → Treatment) : (s.updTreatment slot f).refs1 = s.refs1 := by simp [State.updTreatment]
@[simp] theorem State.updTreatment_store (s : State) (slot : Nat) (f : Treatment → Treatment) : (s.updTreatment slot f).store = s.store := by simp [State.updTreatment]
@[simp] theorem State.updTreatment_segments (s : State) (slot : Nat) (f : Treatment → Treatment) : (s.updTreatment slot f).segments = s.segments := by simp [State.updTreatment]
@[simp] theorem State.updTreatment_useCounts (s : State) (slot : Nat) (f : Treatment → Treatment) : (s.updTreatment slot f).useCounts = s.useCounts := by simp [State.updTreatment]
@[simp] theorem State.updTreatment_programmes (s : State) (slot : Nat) (f : Treatment → Treatment) : (s.updTreatment slot f).programmes = s.programmes := by simp [State.updTreatment]
@[simp] theorem State.updTreatment_highwayA (s : State) (slot : Nat) (f : Treatment → Treatment) : (s.updTreatment slot f).highwayA = s.highwayA := by simp [State.updTreatment]
@[simp] theorem State.updTreatment_highwayB (s : State) (slot : Nat) (f : Treatment → Treatment) : (s.updTreatment slot f).highwayB = s.highwayB := by simp [State.updTreatment]
@[simp] theorem State.updTreatment_silence (s : State) (slot : Nat) (f : Treatment → Treatment) : (s.updTreatment slot f).silence = s.silence := by simp [State.updTreatment]
@[simp] theorem State.updTreatment_deferLimit (s : State) (slot : Nat) (f : Treatment → Treatment) : (s.updTreatment slot f).deferLimit = s.deferLimit := by simp [State.updTreatment]

/-! ## State.setQueue -/

@[simp] theorem State.setQueue_pending (s : State) (q : Nat) (r : Queue) : (s.setQueue q r).pending = s.pending := rfl
@[simp] theorem State.setQueue_tick (s : State) (q : Nat) (r : Queue) : (s.setQueue q r).tick = s.tick := rfl
@[simp] theorem State.setQueue_frameCount (s : State) (q : Nat) (r : Queue) : (s.setQueue q r).frameCount = s.frameCount := rfl
@[simp] theorem State.setQueue_boundaryDue (s : State) (q : Nat) (r : Queue) : (s.setQueue q r).boundaryDue = s.boundaryDue := rfl
@[simp] theorem State.setQueue_linkA (s : State) (q : Nat) (r : Queue) : (s.setQueue q r).linkA = s.linkA := rfl
@[simp] theorem State.setQueue_linkB (s : State) (q : Nat) (r : Queue) : (s.setQueue q r).linkB = s.linkB := rfl
@[simp] theorem State.setQueue_linkS (s : State) (q : Nat) (r : Queue) : (s.setQueue q r).linkS = s.linkS := rfl
@[simp] theorem State.setQueue_agents (s : State) (q : Nat) (r : Queue) : (s.setQueue q r).agents = s.agents := rfl
@[simp] theorem State.setQueue_available (s : State) (q : Nat) (r : Queue) : (s.setQueue q r).available = s.available := rfl
@[simp] theorem State.setQueue_calls (s : State) (q : Nat) (r : Queue) : (s.setQueue q r).calls = s.calls := rfl
@[simp] theorem State.setQueue_token (s : State) (q : Nat) (r : Queue) : (s.setQueue q r).token = s.token := rfl
@[simp] theorem State.setQueue_recent (s : State) (q : Nat) (r : Queue) : (s.setQueue q r).recent = s.recent := rfl
@[simp] theorem State.setQueue_vocabulary (s : State) (q : Nat) (r : Queue) : (s.setQueue q r).vocabulary = s.vocabulary := rfl
@[simp] theorem State.setQueue_patterns0 (s : State) (q : Nat) (r : Queue) : (s.setQueue q r).patterns0 = s.patterns0 := rfl
@[simp] theorem State.setQueue_patterns1 (s : State) (q : Nat) (r : Queue) : (s.setQueue q r).patterns1 = s.patterns1 := rfl
@[simp] theorem State.setQueue_activeBank (s : State) (q : Nat) (r : Queue) : (s.setQueue q r).activeBank = s.activeBank := rfl
@[simp] theorem State.setQueue_openBank (s : State) (q : Nat) (r : Queue) : (s.setQueue q r).openBank = s.openBank := rfl
@[simp] theorem State.setQueue_refs0 (s : State) (q : Nat) (r : Queue) : (s.setQueue q r).refs0 = s.refs0 := rfl
@[simp] theorem State.setQueue_refs1 (s : State) (q : Nat) (r : Queue) : (s.setQueue q r).refs1 = s.refs1 := rfl
@[simp] theorem State.setQueue_store (s : State) (q : Nat) (r : Queue) : (s.setQueue q r).store = s.store := rfl
@[simp] theorem State.setQueue_segments (s : State) (q : Nat) (r : Queue) : (s.setQueue q r).segments = s.segments := rfl
@[simp] theorem State.setQueue_useCounts (s : State) (q : Nat) (r : Queue) : (s.setQueue q r).useCounts = s.useCounts := rfl
@[simp] theorem State.setQueue_programmes (s : State) (q : Nat) (r : Queue) : (s.setQueue q r).programmes = s.programmes := rfl
@[simp] theorem State.setQueue_highwayA (s : State) (q : Nat) (r : Queue) : (s.setQueue q r).highwayA = s.highwayA := rfl
@[simp] theorem State.setQueue_highwayB (s : State) (q : Nat) (r : Queue) : (s.setQueue q r).highwayB = s.highwayB := rfl
@[simp] theorem State.setQueue_silence (s : State) (q : Nat) (r : Queue) : (s.setQueue q r).silence = s.silence := rfl
@[simp] theorem State.setQueue_deferLimit (s : State) (q : Nat) (r : Queue) : (s.setQueue q r).deferLimit = s.deferLimit := rfl

/-! ## State.setHighway -/

@[simp] theorem State.setHighway_pending (s : State) (h : Highway) (r : HighwayRec) : (s.setHighway h r).pending = s.pending := by cases h <;> rfl
@[simp] theorem State.setHighway_tick (s : State) (h : Highway) (r : HighwayRec) : (s.setHighway h r).tick = s.tick := by cases h <;> rfl
@[simp] theorem State.setHighway_frameCount (s : State) (h : Highway) (r : HighwayRec) : (s.setHighway h r).frameCount = s.frameCount := by cases h <;> rfl
@[simp] theorem State.setHighway_boundaryDue (s : State) (h : Highway) (r : HighwayRec) : (s.setHighway h r).boundaryDue = s.boundaryDue := by cases h <;> rfl
@[simp] theorem State.setHighway_linkA (s : State) (h : Highway) (r : HighwayRec) : (s.setHighway h r).linkA = s.linkA := by cases h <;> rfl
@[simp] theorem State.setHighway_linkB (s : State) (h : Highway) (r : HighwayRec) : (s.setHighway h r).linkB = s.linkB := by cases h <;> rfl
@[simp] theorem State.setHighway_linkS (s : State) (h : Highway) (r : HighwayRec) : (s.setHighway h r).linkS = s.linkS := by cases h <;> rfl
@[simp] theorem State.setHighway_agents (s : State) (h : Highway) (r : HighwayRec) : (s.setHighway h r).agents = s.agents := by cases h <;> rfl
@[simp] theorem State.setHighway_available (s : State) (h : Highway) (r : HighwayRec) : (s.setHighway h r).available = s.available := by cases h <;> rfl
@[simp] theorem State.setHighway_calls (s : State) (h : Highway) (r : HighwayRec) : (s.setHighway h r).calls = s.calls := by cases h <;> rfl
@[simp] theorem State.setHighway_queues (s : State) (h : Highway) (r : HighwayRec) : (s.setHighway h r).queues = s.queues := by cases h <;> rfl
@[simp] theorem State.setHighway_token (s : State) (h : Highway) (r : HighwayRec) : (s.setHighway h r).token = s.token := by cases h <;> rfl
@[simp] theorem State.setHighway_recent (s : State) (h : Highway) (r : HighwayRec) : (s.setHighway h r).recent = s.recent := by cases h <;> rfl
@[simp] theorem State.setHighway_vocabulary (s : State) (h : Highway) (r : HighwayRec) : (s.setHighway h r).vocabulary = s.vocabulary := by cases h <;> rfl
@[simp] theorem State.setHighway_patterns0 (s : State) (h : Highway) (r : HighwayRec) : (s.setHighway h r).patterns0 = s.patterns0 := by cases h <;> rfl
@[simp] theorem State.setHighway_patterns1 (s : State) (h : Highway) (r : HighwayRec) : (s.setHighway h r).patterns1 = s.patterns1 := by cases h <;> rfl
@[simp] theorem State.setHighway_activeBank (s : State) (h : Highway) (r : HighwayRec) : (s.setHighway h r).activeBank = s.activeBank := by cases h <;> rfl
@[simp] theorem State.setHighway_openBank (s : State) (h : Highway) (r : HighwayRec) : (s.setHighway h r).openBank = s.openBank := by cases h <;> rfl
@[simp] theorem State.setHighway_refs0 (s : State) (h : Highway) (r : HighwayRec) : (s.setHighway h r).refs0 = s.refs0 := by cases h <;> rfl
@[simp] theorem State.setHighway_refs1 (s : State) (h : Highway) (r : HighwayRec) : (s.setHighway h r).refs1 = s.refs1 := by cases h <;> rfl
@[simp] theorem State.setHighway_store (s : State) (h : Highway) (r : HighwayRec) : (s.setHighway h r).store = s.store := by cases h <;> rfl
@[simp] theorem State.setHighway_segments (s : State) (h : Highway) (r : HighwayRec) : (s.setHighway h r).segments = s.segments := by cases h <;> rfl
@[simp] theorem State.setHighway_useCounts (s : State) (h : Highway) (r : HighwayRec) : (s.setHighway h r).useCounts = s.useCounts := by cases h <;> rfl
@[simp] theorem State.setHighway_programmes (s : State) (h : Highway) (r : HighwayRec) : (s.setHighway h r).programmes = s.programmes := by cases h <;> rfl
@[simp] theorem State.setHighway_silence (s : State) (h : Highway) (r : HighwayRec) : (s.setHighway h r).silence = s.silence := by cases h <;> rfl
@[simp] theorem State.setHighway_deferLimit (s : State) (h : Highway) (r : HighwayRec) : (s.setHighway h r).deferLimit = s.deferLimit := by cases h <;> rfl

/-! ## State.setChannel -/

@[simp] theorem State.setChannel_pending (s : State) (h : Highway) (ts : Nat) (c : Channel) : (s.setChannel h ts c).pending = s.pending := by simp [State.setChannel]
@[simp] theorem State.setChannel_tick (s : State) (h : Highway) (ts : Nat) (c : Channel) : (s.setChannel h ts c).tick = s.tick := by simp [State.setChannel]
@[simp] theorem State.setChannel_frameCount (s : State) (h : Highway) (ts : Nat) (c : Channel) : (s.setChannel h ts c).frameCount = s.frameCount := by simp [State.setChannel]
@[simp] theorem State.setChannel_boundaryDue (s : State) (h : Highway) (ts : Nat) (c : Channel) : (s.setChannel h ts c).boundaryDue = s.boundaryDue := by simp [State.setChannel]
@[simp] theorem State.setChannel_linkA (s : State) (h : Highway) (ts : Nat) (c : Channel) : (s.setChannel h ts c).linkA = s.linkA := by simp [State.setChannel]
@[simp] theorem State.setChannel_linkB (s : State) (h : Highway) (ts : Nat) (c : Channel) : (s.setChannel h ts c).linkB = s.linkB := by simp [State.setChannel]
@[simp] theorem State.setChannel_linkS (s : State) (h : Highway) (ts : Nat) (c : Channel) : (s.setChannel h ts c).linkS = s.linkS := by simp [State.setChannel]
@[simp] theorem State.setChannel_agents (s : State) (h : Highway) (ts : Nat) (c : Channel) : (s.setChannel h ts c).agents = s.agents := by simp [State.setChannel]
@[simp] theorem State.setChannel_available (s : State) (h : Highway) (ts : Nat) (c : Channel) : (s.setChannel h ts c).available = s.available := by simp [State.setChannel]
@[simp] theorem State.setChannel_calls (s : State) (h : Highway) (ts : Nat) (c : Channel) : (s.setChannel h ts c).calls = s.calls := by simp [State.setChannel]
@[simp] theorem State.setChannel_queues (s : State) (h : Highway) (ts : Nat) (c : Channel) : (s.setChannel h ts c).queues = s.queues := by simp [State.setChannel]
@[simp] theorem State.setChannel_token (s : State) (h : Highway) (ts : Nat) (c : Channel) : (s.setChannel h ts c).token = s.token := by simp [State.setChannel]
@[simp] theorem State.setChannel_recent (s : State) (h : Highway) (ts : Nat) (c : Channel) : (s.setChannel h ts c).recent = s.recent := by simp [State.setChannel]
@[simp] theorem State.setChannel_vocabulary (s : State) (h : Highway) (ts : Nat) (c : Channel) : (s.setChannel h ts c).vocabulary = s.vocabulary := by simp [State.setChannel]
@[simp] theorem State.setChannel_patterns0 (s : State) (h : Highway) (ts : Nat) (c : Channel) : (s.setChannel h ts c).patterns0 = s.patterns0 := by simp [State.setChannel]
@[simp] theorem State.setChannel_patterns1 (s : State) (h : Highway) (ts : Nat) (c : Channel) : (s.setChannel h ts c).patterns1 = s.patterns1 := by simp [State.setChannel]
@[simp] theorem State.setChannel_activeBank (s : State) (h : Highway) (ts : Nat) (c : Channel) : (s.setChannel h ts c).activeBank = s.activeBank := by simp [State.setChannel]
@[simp] theorem State.setChannel_openBank (s : State) (h : Highway) (ts : Nat) (c : Channel) : (s.setChannel h ts c).openBank = s.openBank := by simp [State.setChannel]
@[simp] theorem State.setChannel_refs0 (s : State) (h : Highway) (ts : Nat) (c : Channel) : (s.setChannel h ts c).refs0 = s.refs0 := by simp [State.setChannel]
@[simp] theorem State.setChannel_refs1 (s : State) (h : Highway) (ts : Nat) (c : Channel) : (s.setChannel h ts c).refs1 = s.refs1 := by simp [State.setChannel]
@[simp] theorem State.setChannel_store (s : State) (h : Highway) (ts : Nat) (c : Channel) : (s.setChannel h ts c).store = s.store := by simp [State.setChannel]
@[simp] theorem State.setChannel_segments (s : State) (h : Highway) (ts : Nat) (c : Channel) : (s.setChannel h ts c).segments = s.segments := by simp [State.setChannel]
@[simp] theorem State.setChannel_useCounts (s : State) (h : Highway) (ts : Nat) (c : Channel) : (s.setChannel h ts c).useCounts = s.useCounts := by simp [State.setChannel]
@[simp] theorem State.setChannel_programmes (s : State) (h : Highway) (ts : Nat) (c : Channel) : (s.setChannel h ts c).programmes = s.programmes := by simp [State.setChannel]
@[simp] theorem State.setChannel_silence (s : State) (h : Highway) (ts : Nat) (c : Channel) : (s.setChannel h ts c).silence = s.silence := by simp [State.setChannel]
@[simp] theorem State.setChannel_deferLimit (s : State) (h : Highway) (ts : Nat) (c : Channel) : (s.setChannel h ts c).deferLimit = s.deferLimit := by simp [State.setChannel]

/-! ## State.setPattern -/

@[simp] theorem State.setPattern_pending (s : State) (b : Bank) (p : Nat) (steps : List PatternStep) : (s.setPattern b p steps).pending = s.pending := by cases b <;> rfl
@[simp] theorem State.setPattern_tick (s : State) (b : Bank) (p : Nat) (steps : List PatternStep) : (s.setPattern b p steps).tick = s.tick := by cases b <;> rfl
@[simp] theorem State.setPattern_frameCount (s : State) (b : Bank) (p : Nat) (steps : List PatternStep) : (s.setPattern b p steps).frameCount = s.frameCount := by cases b <;> rfl
@[simp] theorem State.setPattern_boundaryDue (s : State) (b : Bank) (p : Nat) (steps : List PatternStep) : (s.setPattern b p steps).boundaryDue = s.boundaryDue := by cases b <;> rfl
@[simp] theorem State.setPattern_linkA (s : State) (b : Bank) (p : Nat) (steps : List PatternStep) : (s.setPattern b p steps).linkA = s.linkA := by cases b <;> rfl
@[simp] theorem State.setPattern_linkB (s : State) (b : Bank) (p : Nat) (steps : List PatternStep) : (s.setPattern b p steps).linkB = s.linkB := by cases b <;> rfl
@[simp] theorem State.setPattern_linkS (s : State) (b : Bank) (p : Nat) (steps : List PatternStep) : (s.setPattern b p steps).linkS = s.linkS := by cases b <;> rfl
@[simp] theorem State.setPattern_agents (s : State) (b : Bank) (p : Nat) (steps : List PatternStep) : (s.setPattern b p steps).agents = s.agents := by cases b <;> rfl
@[simp] theorem State.setPattern_available (s : State) (b : Bank) (p : Nat) (steps : List PatternStep) : (s.setPattern b p steps).available = s.available := by cases b <;> rfl
@[simp] theorem State.setPattern_calls (s : State) (b : Bank) (p : Nat) (steps : List PatternStep) : (s.setPattern b p steps).calls = s.calls := by cases b <;> rfl
@[simp] theorem State.setPattern_queues (s : State) (b : Bank) (p : Nat) (steps : List PatternStep) : (s.setPattern b p steps).queues = s.queues := by cases b <;> rfl
@[simp] theorem State.setPattern_token (s : State) (b : Bank) (p : Nat) (steps : List PatternStep) : (s.setPattern b p steps).token = s.token := by cases b <;> rfl
@[simp] theorem State.setPattern_recent (s : State) (b : Bank) (p : Nat) (steps : List PatternStep) : (s.setPattern b p steps).recent = s.recent := by cases b <;> rfl
@[simp] theorem State.setPattern_vocabulary (s : State) (b : Bank) (p : Nat) (steps : List PatternStep) : (s.setPattern b p steps).vocabulary = s.vocabulary := by cases b <;> rfl
@[simp] theorem State.setPattern_activeBank (s : State) (b : Bank) (p : Nat) (steps : List PatternStep) : (s.setPattern b p steps).activeBank = s.activeBank := by cases b <;> rfl
@[simp] theorem State.setPattern_openBank (s : State) (b : Bank) (p : Nat) (steps : List PatternStep) : (s.setPattern b p steps).openBank = s.openBank := by cases b <;> rfl
@[simp] theorem State.setPattern_refs0 (s : State) (b : Bank) (p : Nat) (steps : List PatternStep) : (s.setPattern b p steps).refs0 = s.refs0 := by cases b <;> rfl
@[simp] theorem State.setPattern_refs1 (s : State) (b : Bank) (p : Nat) (steps : List PatternStep) : (s.setPattern b p steps).refs1 = s.refs1 := by cases b <;> rfl
@[simp] theorem State.setPattern_store (s : State) (b : Bank) (p : Nat) (steps : List PatternStep) : (s.setPattern b p steps).store = s.store := by cases b <;> rfl
@[simp] theorem State.setPattern_segments (s : State) (b : Bank) (p : Nat) (steps : List PatternStep) : (s.setPattern b p steps).segments = s.segments := by cases b <;> rfl
@[simp] theorem State.setPattern_useCounts (s : State) (b : Bank) (p : Nat) (steps : List PatternStep) : (s.setPattern b p steps).useCounts = s.useCounts := by cases b <;> rfl
@[simp] theorem State.setPattern_programmes (s : State) (b : Bank) (p : Nat) (steps : List PatternStep) : (s.setPattern b p steps).programmes = s.programmes := by cases b <;> rfl
@[simp] theorem State.setPattern_highwayA (s : State) (b : Bank) (p : Nat) (steps : List PatternStep) : (s.setPattern b p steps).highwayA = s.highwayA := by cases b <;> rfl
@[simp] theorem State.setPattern_highwayB (s : State) (b : Bank) (p : Nat) (steps : List PatternStep) : (s.setPattern b p steps).highwayB = s.highwayB := by cases b <;> rfl
@[simp] theorem State.setPattern_silence (s : State) (b : Bank) (p : Nat) (steps : List PatternStep) : (s.setPattern b p steps).silence = s.silence := by cases b <;> rfl
@[simp] theorem State.setPattern_deferLimit (s : State) (b : Bank) (p : Nat) (steps : List PatternStep) : (s.setPattern b p steps).deferLimit = s.deferLimit := by cases b <;> rfl

/-! ## State.updRefs -/

@[simp] theorem State.updRefs_pending (s : State) (b : Bank) (f : Nat → Nat) : (s.updRefs b f).pending = s.pending := by cases b <;> rfl
@[simp] theorem State.updRefs_tick (s : State) (b : Bank) (f : Nat → Nat) : (s.updRefs b f).tick = s.tick := by cases b <;> rfl
@[simp] theorem State.updRefs_frameCount (s : State) (b : Bank) (f : Nat → Nat) : (s.updRefs b f).frameCount = s.frameCount := by cases b <;> rfl
@[simp] theorem State.updRefs_boundaryDue (s : State) (b : Bank) (f : Nat → Nat) : (s.updRefs b f).boundaryDue = s.boundaryDue := by cases b <;> rfl
@[simp] theorem State.updRefs_linkA (s : State) (b : Bank) (f : Nat → Nat) : (s.updRefs b f).linkA = s.linkA := by cases b <;> rfl
@[simp] theorem State.updRefs_linkB (s : State) (b : Bank) (f : Nat → Nat) : (s.updRefs b f).linkB = s.linkB := by cases b <;> rfl
@[simp] theorem State.updRefs_linkS (s : State) (b : Bank) (f : Nat → Nat) : (s.updRefs b f).linkS = s.linkS := by cases b <;> rfl
@[simp] theorem State.updRefs_agents (s : State) (b : Bank) (f : Nat → Nat) : (s.updRefs b f).agents = s.agents := by cases b <;> rfl
@[simp] theorem State.updRefs_available (s : State) (b : Bank) (f : Nat → Nat) : (s.updRefs b f).available = s.available := by cases b <;> rfl
@[simp] theorem State.updRefs_calls (s : State) (b : Bank) (f : Nat → Nat) : (s.updRefs b f).calls = s.calls := by cases b <;> rfl
@[simp] theorem State.updRefs_queues (s : State) (b : Bank) (f : Nat → Nat) : (s.updRefs b f).queues = s.queues := by cases b <;> rfl
@[simp] theorem State.updRefs_token (s : State) (b : Bank) (f : Nat → Nat) : (s.updRefs b f).token = s.token := by cases b <;> rfl
@[simp] theorem State.updRefs_recent (s : State) (b : Bank) (f : Nat → Nat) : (s.updRefs b f).recent = s.recent := by cases b <;> rfl
@[simp] theorem State.updRefs_vocabulary (s : State) (b : Bank) (f : Nat → Nat) : (s.updRefs b f).vocabulary = s.vocabulary := by cases b <;> rfl
@[simp] theorem State.updRefs_patterns0 (s : State) (b : Bank) (f : Nat → Nat) : (s.updRefs b f).patterns0 = s.patterns0 := by cases b <;> rfl
@[simp] theorem State.updRefs_patterns1 (s : State) (b : Bank) (f : Nat → Nat) : (s.updRefs b f).patterns1 = s.patterns1 := by cases b <;> rfl
@[simp] theorem State.updRefs_activeBank (s : State) (b : Bank) (f : Nat → Nat) : (s.updRefs b f).activeBank = s.activeBank := by cases b <;> rfl
@[simp] theorem State.updRefs_openBank (s : State) (b : Bank) (f : Nat → Nat) : (s.updRefs b f).openBank = s.openBank := by cases b <;> rfl
@[simp] theorem State.updRefs_store (s : State) (b : Bank) (f : Nat → Nat) : (s.updRefs b f).store = s.store := by cases b <;> rfl
@[simp] theorem State.updRefs_segments (s : State) (b : Bank) (f : Nat → Nat) : (s.updRefs b f).segments = s.segments := by cases b <;> rfl
@[simp] theorem State.updRefs_useCounts (s : State) (b : Bank) (f : Nat → Nat) : (s.updRefs b f).useCounts = s.useCounts := by cases b <;> rfl
@[simp] theorem State.updRefs_programmes (s : State) (b : Bank) (f : Nat → Nat) : (s.updRefs b f).programmes = s.programmes := by cases b <;> rfl
@[simp] theorem State.updRefs_highwayA (s : State) (b : Bank) (f : Nat → Nat) : (s.updRefs b f).highwayA = s.highwayA := by cases b <;> rfl
@[simp] theorem State.updRefs_highwayB (s : State) (b : Bank) (f : Nat → Nat) : (s.updRefs b f).highwayB = s.highwayB := by cases b <;> rfl
@[simp] theorem State.updRefs_silence (s : State) (b : Bank) (f : Nat → Nat) : (s.updRefs b f).silence = s.silence := by cases b <;> rfl
@[simp] theorem State.updRefs_deferLimit (s : State) (b : Bank) (f : Nat → Nat) : (s.updRefs b f).deferLimit = s.deferLimit := by cases b <;> rfl

/-! ## State.updUseCounts -/

@[simp] theorem State.updUseCounts_pending (s : State) (gs : List Nat) (f : Nat → Nat) : (s.updUseCounts gs f).pending = s.pending := rfl
@[simp] theorem State.updUseCounts_tick (s : State) (gs : List Nat) (f : Nat → Nat) : (s.updUseCounts gs f).tick = s.tick := rfl
@[simp] theorem State.updUseCounts_frameCount (s : State) (gs : List Nat) (f : Nat → Nat) : (s.updUseCounts gs f).frameCount = s.frameCount := rfl
@[simp] theorem State.updUseCounts_boundaryDue (s : State) (gs : List Nat) (f : Nat → Nat) : (s.updUseCounts gs f).boundaryDue = s.boundaryDue := rfl
@[simp] theorem State.updUseCounts_linkA (s : State) (gs : List Nat) (f : Nat → Nat) : (s.updUseCounts gs f).linkA = s.linkA := rfl
@[simp] theorem State.updUseCounts_linkB (s : State) (gs : List Nat) (f : Nat → Nat) : (s.updUseCounts gs f).linkB = s.linkB := rfl
@[simp] theorem State.updUseCounts_linkS (s : State) (gs : List Nat) (f : Nat → Nat) : (s.updUseCounts gs f).linkS = s.linkS := rfl
@[simp] theorem State.updUseCounts_agents (s : State) (gs : List Nat) (f : Nat → Nat) : (s.updUseCounts gs f).agents = s.agents := rfl
@[simp] theorem State.updUseCounts_available (s : State) (gs : List Nat) (f : Nat → Nat) : (s.updUseCounts gs f).available = s.available := rfl
@[simp] theorem State.updUseCounts_calls (s : State) (gs : List Nat) (f : Nat → Nat) : (s.updUseCounts gs f).calls = s.calls := rfl
@[simp] theorem State.updUseCounts_queues (s : State) (gs : List Nat) (f : Nat → Nat) : (s.updUseCounts gs f).queues = s.queues := rfl
@[simp] theorem State.updUseCounts_token (s : State) (gs : List Nat) (f : Nat → Nat) : (s.updUseCounts gs f).token = s.token := rfl
@[simp] theorem State.updUseCounts_recent (s : State) (gs : List Nat) (f : Nat → Nat) : (s.updUseCounts gs f).recent = s.recent := rfl
@[simp] theorem State.updUseCounts_vocabulary (s : State) (gs : List Nat) (f : Nat → Nat) : (s.updUseCounts gs f).vocabulary = s.vocabulary := rfl
@[simp] theorem State.updUseCounts_patterns0 (s : State) (gs : List Nat) (f : Nat → Nat) : (s.updUseCounts gs f).patterns0 = s.patterns0 := rfl
@[simp] theorem State.updUseCounts_patterns1 (s : State) (gs : List Nat) (f : Nat → Nat) : (s.updUseCounts gs f).patterns1 = s.patterns1 := rfl
@[simp] theorem State.updUseCounts_activeBank (s : State) (gs : List Nat) (f : Nat → Nat) : (s.updUseCounts gs f).activeBank = s.activeBank := rfl
@[simp] theorem State.updUseCounts_openBank (s : State) (gs : List Nat) (f : Nat → Nat) : (s.updUseCounts gs f).openBank = s.openBank := rfl
@[simp] theorem State.updUseCounts_refs0 (s : State) (gs : List Nat) (f : Nat → Nat) : (s.updUseCounts gs f).refs0 = s.refs0 := rfl
@[simp] theorem State.updUseCounts_refs1 (s : State) (gs : List Nat) (f : Nat → Nat) : (s.updUseCounts gs f).refs1 = s.refs1 := rfl
@[simp] theorem State.updUseCounts_store (s : State) (gs : List Nat) (f : Nat → Nat) : (s.updUseCounts gs f).store = s.store := rfl
@[simp] theorem State.updUseCounts_segments (s : State) (gs : List Nat) (f : Nat → Nat) : (s.updUseCounts gs f).segments = s.segments := rfl
@[simp] theorem State.updUseCounts_programmes (s : State) (gs : List Nat) (f : Nat → Nat) : (s.updUseCounts gs f).programmes = s.programmes := rfl
@[simp] theorem State.updUseCounts_highwayA (s : State) (gs : List Nat) (f : Nat → Nat) : (s.updUseCounts gs f).highwayA = s.highwayA := rfl
@[simp] theorem State.updUseCounts_highwayB (s : State) (gs : List Nat) (f : Nat → Nat) : (s.updUseCounts gs f).highwayB = s.highwayB := rfl
@[simp] theorem State.updUseCounts_silence (s : State) (gs : List Nat) (f : Nat → Nat) : (s.updUseCounts gs f).silence = s.silence := rfl
@[simp] theorem State.updUseCounts_deferLimit (s : State) (gs : List Nat) (f : Nat → Nat) : (s.updUseCounts gs f).deferLimit = s.deferLimit := rfl

/-! ## State.setProgramme -/

@[simp] theorem State.setProgramme_pending (s : State) (p : Nat) (r : Programme) : (s.setProgramme p r).pending = s.pending := rfl
@[simp] theorem State.setProgramme_tick (s : State) (p : Nat) (r : Programme) : (s.setProgramme p r).tick = s.tick := rfl
@[simp] theorem State.setProgramme_frameCount (s : State) (p : Nat) (r : Programme) : (s.setProgramme p r).frameCount = s.frameCount := rfl
@[simp] theorem State.setProgramme_boundaryDue (s : State) (p : Nat) (r : Programme) : (s.setProgramme p r).boundaryDue = s.boundaryDue := rfl
@[simp] theorem State.setProgramme_linkA (s : State) (p : Nat) (r : Programme) : (s.setProgramme p r).linkA = s.linkA := rfl
@[simp] theorem State.setProgramme_linkB (s : State) (p : Nat) (r : Programme) : (s.setProgramme p r).linkB = s.linkB := rfl
@[simp] theorem State.setProgramme_linkS (s : State) (p : Nat) (r : Programme) : (s.setProgramme p r).linkS = s.linkS := rfl
@[simp] theorem State.setProgramme_agents (s : State) (p : Nat) (r : Programme) : (s.setProgramme p r).agents = s.agents := rfl
@[simp] theorem State.setProgramme_available (s : State) (p : Nat) (r : Programme) : (s.setProgramme p r).available = s.available := rfl
@[simp] theorem State.setProgramme_calls (s : State) (p : Nat) (r : Programme) : (s.setProgramme p r).calls = s.calls := rfl
@[simp] theorem State.setProgramme_queues (s : State) (p : Nat) (r : Programme) : (s.setProgramme p r).queues = s.queues := rfl
@[simp] theorem State.setProgramme_token (s : State) (p : Nat) (r : Programme) : (s.setProgramme p r).token = s.token := rfl
@[simp] theorem State.setProgramme_recent (s : State) (p : Nat) (r : Programme) : (s.setProgramme p r).recent = s.recent := rfl
@[simp] theorem State.setProgramme_vocabulary (s : State) (p : Nat) (r : Programme) : (s.setProgramme p r).vocabulary = s.vocabulary := rfl
@[simp] theorem State.setProgramme_patterns0 (s : State) (p : Nat) (r : Programme) : (s.setProgramme p r).patterns0 = s.patterns0 := rfl
@[simp] theorem State.setProgramme_patterns1 (s : State) (p : Nat) (r : Programme) : (s.setProgramme p r).patterns1 = s.patterns1 := rfl
@[simp] theorem State.setProgramme_activeBank (s : State) (p : Nat) (r : Programme) : (s.setProgramme p r).activeBank = s.activeBank := rfl
@[simp] theorem State.setProgramme_openBank (s : State) (p : Nat) (r : Programme) : (s.setProgramme p r).openBank = s.openBank := rfl
@[simp] theorem State.setProgramme_refs0 (s : State) (p : Nat) (r : Programme) : (s.setProgramme p r).refs0 = s.refs0 := rfl
@[simp] theorem State.setProgramme_refs1 (s : State) (p : Nat) (r : Programme) : (s.setProgramme p r).refs1 = s.refs1 := rfl
@[simp] theorem State.setProgramme_store (s : State) (p : Nat) (r : Programme) : (s.setProgramme p r).store = s.store := rfl
@[simp] theorem State.setProgramme_segments (s : State) (p : Nat) (r : Programme) : (s.setProgramme p r).segments = s.segments := rfl
@[simp] theorem State.setProgramme_useCounts (s : State) (p : Nat) (r : Programme) : (s.setProgramme p r).useCounts = s.useCounts := rfl
@[simp] theorem State.setProgramme_highwayA (s : State) (p : Nat) (r : Programme) : (s.setProgramme p r).highwayA = s.highwayA := rfl
@[simp] theorem State.setProgramme_highwayB (s : State) (p : Nat) (r : Programme) : (s.setProgramme p r).highwayB = s.highwayB := rfl
@[simp] theorem State.setProgramme_silence (s : State) (p : Nat) (r : Programme) : (s.setProgramme p r).silence = s.silence := rfl
@[simp] theorem State.setProgramme_deferLimit (s : State) (p : Nat) (r : Programme) : (s.setProgramme p r).deferLimit = s.deferLimit := rfl

/-! ## What an update leaves of the records it does not concern -/

@[simp] theorem State.setLink_agent (s : State) (l : Link) (r : LinkRec) (y : Nat) : (s.setLink l r).agent y = s.agent y := by
  simp [State.agent]
@[simp] theorem State.setLink_call (s : State) (l : Link) (r : LinkRec) (y : Nat) : (s.setLink l r).call? y = s.call? y := by
  simp [State.call?]
@[simp] theorem State.setLink_queue (s : State) (l : Link) (r : LinkRec) (p' : Nat) : (s.setLink l r).queue p' = s.queue p' := by
  simp [State.queue]
@[simp] theorem State.setLink_highway (s : State) (l : Link) (r : LinkRec) (h' : Highway) : (s.setLink l r).highway h' = s.highway h' := by
  cases h' <;> simp [State.highway]
@[simp] theorem State.setLink_channel (s : State) (l : Link) (r : LinkRec) (h' : Highway) (t' : Nat) : (s.setLink l r).channel h' t' = s.channel h' t' := by
  cases h' <;> simp [State.channel, State.highway]
@[simp] theorem State.setLink_pattern (s : State) (l : Link) (r : LinkRec) (b' : Bank) (p' : Nat) : (s.setLink l r).pattern b' p' = s.pattern b' p' := by
  cases b' <;> simp [State.pattern]
@[simp] theorem State.setLink_refs (s : State) (l : Link) (r : LinkRec) (b' : Bank) : (s.setLink l r).refs b' = s.refs b' := by
  cases b' <;> simp [State.refs]
@[simp] theorem State.setLink_useCount (s : State) (l : Link) (r : LinkRec) (g : Nat) : (s.setLink l r).useCount g = s.useCount g := by
  simp [State.useCount]
@[simp] theorem State.setLink_segment (s : State) (l : Link) (r : LinkRec) (g : Nat) : (s.setLink l r).segment? g = s.segment? g := by
  simp [State.segment?]
@[simp] theorem State.setLink_programme (s : State) (l : Link) (r : LinkRec) (p' : Nat) : (s.setLink l r).programme p' = s.programme p' := by
  simp [State.programme]
@[simp] theorem State.setAgent_link (s : State) (slot : Nat) (a : Agent) (l' : Link) : (s.setAgent slot a).link l' = s.link l' := by
  cases l' <;> simp [State.link]
@[simp] theorem State.setAgent_call (s : State) (slot : Nat) (a : Agent) (y : Nat) : (s.setAgent slot a).call? y = s.call? y := by
  simp [State.call?]
@[simp] theorem State.setAgent_queue (s : State) (slot : Nat) (a : Agent) (p' : Nat) : (s.setAgent slot a).queue p' = s.queue p' := by
  simp [State.queue]
@[simp] theorem State.setAgent_highway (s : State) (slot : Nat) (a : Agent) (h' : Highway) : (s.setAgent slot a).highway h' = s.highway h' := by
  cases h' <;> simp [State.highway]
@[simp] theorem State.setAgent_channel (s : State) (slot : Nat) (a : Agent) (h' : Highway) (t' : Nat) : (s.setAgent slot a).channel h' t' = s.channel h' t' := by
  cases h' <;> simp [State.channel, State.highway]
@[simp] theorem State.setAgent_pattern (s : State) (slot : Nat) (a : Agent) (b' : Bank) (p' : Nat) : (s.setAgent slot a).pattern b' p' = s.pattern b' p' := by
  cases b' <;> simp [State.pattern]
@[simp] theorem State.setAgent_refs (s : State) (slot : Nat) (a : Agent) (b' : Bank) : (s.setAgent slot a).refs b' = s.refs b' := by
  cases b' <;> simp [State.refs]
@[simp] theorem State.setAgent_useCount (s : State) (slot : Nat) (a : Agent) (g : Nat) : (s.setAgent slot a).useCount g = s.useCount g := by
  simp [State.useCount]
@[simp] theorem State.setAgent_segment (s : State) (slot : Nat) (a : Agent) (g : Nat) : (s.setAgent slot a).segment? g = s.segment? g := by
  simp [State.segment?]
@[simp] theorem State.setAgent_programme (s : State) (slot : Nat) (a : Agent) (p' : Nat) : (s.setAgent slot a).programme p' = s.programme p' := by
  simp [State.programme]
@[simp] theorem State.setAgent_freeNotices (s : State) (slot : Nat) (a : Agent) (l' : Link) : (s.setAgent slot a).freeNotices l' = s.freeNotices l' := by
  simp [State.freeNotices]
@[simp] theorem State.setCall_link (s : State) (slot : Nat) (c : Call) (l' : Link) : (s.setCall slot c).link l' = s.link l' := by
  cases l' <;> simp [State.link]
@[simp] theorem State.setCall_agent (s : State) (slot : Nat) (c : Call) (y : Nat) : (s.setCall slot c).agent y = s.agent y := by
  simp [State.agent]
@[simp] theorem State.setCall_queue (s : State) (slot : Nat) (c : Call) (p' : Nat) : (s.setCall slot c).queue p' = s.queue p' := by
  simp [State.queue]
@[simp] theorem State.setCall_highway (s : State) (slot : Nat) (c : Call) (h' : Highway) : (s.setCall slot c).highway h' = s.highway h' := by
  cases h' <;> simp [State.highway]
@[simp] theorem State.setCall_channel (s : State) (slot : Nat) (c : Call) (h' : Highway) (t' : Nat) : (s.setCall slot c).channel h' t' = s.channel h' t' := by
  cases h' <;> simp [State.channel, State.highway]
@[simp] theorem State.setCall_pattern (s : State) (slot : Nat) (c : Call) (b' : Bank) (p' : Nat) : (s.setCall slot c).pattern b' p' = s.pattern b' p' := by
  cases b' <;> simp [State.pattern]
@[simp] theorem State.setCall_refs (s : State) (slot : Nat) (c : Call) (b' : Bank) : (s.setCall slot c).refs b' = s.refs b' := by
  cases b' <;> simp [State.refs]
@[simp] theorem State.setCall_useCount (s : State) (slot : Nat) (c : Call) (g : Nat) : (s.setCall slot c).useCount g = s.useCount g := by
  simp [State.useCount]
@[simp] theorem State.setCall_segment (s : State) (slot : Nat) (c : Call) (g : Nat) : (s.setCall slot c).segment? g = s.segment? g := by
  simp [State.segment?]
@[simp] theorem State.setCall_programme (s : State) (slot : Nat) (c : Call) (p' : Nat) : (s.setCall slot c).programme p' = s.programme p' := by
  simp [State.programme]
@[simp] theorem State.setCall_freeNotices (s : State) (slot : Nat) (c : Call) (l' : Link) : (s.setCall slot c).freeNotices l' = s.freeNotices l' := by
  simp [State.freeNotices]
@[simp] theorem State.freeCall_link (s : State) (slot : Nat) (l' : Link) : (s.freeCall slot).link l' = s.link l' := by
  cases l' <;> simp [State.link]
@[simp] theorem State.freeCall_agent (s : State) (slot : Nat) (y : Nat) : (s.freeCall slot).agent y = s.agent y := by
  simp [State.agent]
@[simp] theorem State.freeCall_queue (s : State) (slot : Nat) (p' : Nat) : (s.freeCall slot).queue p' = s.queue p' := by
  simp [State.queue]
@[simp] theorem State.freeCall_highway (s : State) (slot : Nat) (h' : Highway) : (s.freeCall slot).highway h' = s.highway h' := by
  cases h' <;> simp [State.highway]
@[simp] theorem State.freeCall_channel (s : State) (slot : Nat) (h' : Highway) (t' : Nat) : (s.freeCall slot).channel h' t' = s.channel h' t' := by
  cases h' <;> simp [State.channel, State.highway]
@[simp] theorem State.freeCall_pattern (s : State) (slot : Nat) (b' : Bank) (p' : Nat) : (s.freeCall slot).pattern b' p' = s.pattern b' p' := by
  cases b' <;> simp [State.pattern]
@[simp] theorem State.freeCall_refs (s : State) (slot : Nat) (b' : Bank) : (s.freeCall slot).refs b' = s.refs b' := by
  cases b' <;> simp [State.refs]
@[simp] theorem State.freeCall_useCount (s : State) (slot : Nat) (g : Nat) : (s.freeCall slot).useCount g = s.useCount g := by
  simp [State.useCount]
@[simp] theorem State.freeCall_segment (s : State) (slot : Nat) (g : Nat) : (s.freeCall slot).segment? g = s.segment? g := by
  simp [State.segment?]
@[simp] theorem State.freeCall_programme (s : State) (slot : Nat) (p' : Nat) : (s.freeCall slot).programme p' = s.programme p' := by
  simp [State.programme]
@[simp] theorem State.freeCall_freeNotices (s : State) (slot : Nat) (l' : Link) : (s.freeCall slot).freeNotices l' = s.freeNotices l' := by
  simp [State.freeNotices]
@[simp] theorem State.updCall_link (s : State) (slot : Nat) (f : Call → Call) (l' : Link) : (s.updCall slot f).link l' = s.link l' := by
  cases l' <;> simp [State.link]
@[simp] theorem State.updCall_agent (s : State) (slot : Nat) (f : Call → Call) (y : Nat) : (s.updCall slot f).agent y = s.agent y := by
  simp [State.agent]
@[simp] theorem State.updCall_queue (s : State) (slot : Nat) (f : Call → Call) (p' : Nat) : (s.updCall slot f).queue p' = s.queue p' := by
  simp [State.queue]
@[simp] theorem State.updCall_highway (s : State) (slot : Nat) (f : Call → Call) (h' : Highway) : (s.updCall slot f).highway h' = s.highway h' := by
  cases h' <;> simp [State.highway]
@[simp] theorem State.updCall_channel (s : State) (slot : Nat) (f : Call → Call) (h' : Highway) (t' : Nat) : (s.updCall slot f).channel h' t' = s.channel h' t' := by
  cases h' <;> simp [State.channel, State.highway]
@[simp] theorem State.updCall_pattern (s : State) (slot : Nat) (f : Call → Call) (b' : Bank) (p' : Nat) : (s.updCall slot f).pattern b' p' = s.pattern b' p' := by
  cases b' <;> simp [State.pattern]
@[simp] theorem State.updCall_refs (s : State) (slot : Nat) (f : Call → Call) (b' : Bank) : (s.updCall slot f).refs b' = s.refs b' := by
  cases b' <;> simp [State.refs]
@[simp] theorem State.updCall_useCount (s : State) (slot : Nat) (f : Call → Call) (g : Nat) : (s.updCall slot f).useCount g = s.useCount g := by
  simp [State.useCount]
@[simp] theorem State.updCall_segment (s : State) (slot : Nat) (f : Call → Call) (g : Nat) : (s.updCall slot f).segment? g = s.segment? g := by
  simp [State.segment?]
@[simp] theorem State.updCall_programme (s : State) (slot : Nat) (f : Call → Call) (p' : Nat) : (s.updCall slot f).programme p' = s.programme p' := by
  simp [State.programme]
@[simp] theorem State.updCall_freeNotices (s : State) (slot : Nat) (f : Call → Call) (l' : Link) : (s.updCall slot f).freeNotices l' = s.freeNotices l' := by
  simp [State.freeNotices]
@[simp] theorem State.updTreatment_link (s : State) (slot : Nat) (f : Treatment → Treatment) (l' : Link) : (s.updTreatment slot f).link l' = s.link l' := by
  cases l' <;> simp [State.link]
@[simp] theorem State.updTreatment_agent (s : State) (slot : Nat) (f : Treatment → Treatment) (y : Nat) : (s.updTreatment slot f).agent y = s.agent y := by
  simp [State.agent]
@[simp] theorem State.updTreatment_queue (s : State) (slot : Nat) (f : Treatment → Treatment) (p' : Nat) : (s.updTreatment slot f).queue p' = s.queue p' := by
  simp [State.queue]
@[simp] theorem State.updTreatment_highway (s : State) (slot : Nat) (f : Treatment → Treatment) (h' : Highway) : (s.updTreatment slot f).highway h' = s.highway h' := by
  cases h' <;> simp [State.highway]
@[simp] theorem State.updTreatment_channel (s : State) (slot : Nat) (f : Treatment → Treatment) (h' : Highway) (t' : Nat) : (s.updTreatment slot f).channel h' t' = s.channel h' t' := by
  cases h' <;> simp [State.channel, State.highway]
@[simp] theorem State.updTreatment_pattern (s : State) (slot : Nat) (f : Treatment → Treatment) (b' : Bank) (p' : Nat) : (s.updTreatment slot f).pattern b' p' = s.pattern b' p' := by
  cases b' <;> simp [State.pattern]
@[simp] theorem State.updTreatment_refs (s : State) (slot : Nat) (f : Treatment → Treatment) (b' : Bank) : (s.updTreatment slot f).refs b' = s.refs b' := by
  cases b' <;> simp [State.refs]
@[simp] theorem State.updTreatment_useCount (s : State) (slot : Nat) (f : Treatment → Treatment) (g : Nat) : (s.updTreatment slot f).useCount g = s.useCount g := by
  simp [State.useCount]
@[simp] theorem State.updTreatment_segment (s : State) (slot : Nat) (f : Treatment → Treatment) (g : Nat) : (s.updTreatment slot f).segment? g = s.segment? g := by
  simp [State.segment?]
@[simp] theorem State.updTreatment_programme (s : State) (slot : Nat) (f : Treatment → Treatment) (p' : Nat) : (s.updTreatment slot f).programme p' = s.programme p' := by
  simp [State.programme]
@[simp] theorem State.updTreatment_freeNotices (s : State) (slot : Nat) (f : Treatment → Treatment) (l' : Link) : (s.updTreatment slot f).freeNotices l' = s.freeNotices l' := by
  simp [State.freeNotices]
@[simp] theorem State.setQueue_link (s : State) (q : Nat) (r : Queue) (l' : Link) : (s.setQueue q r).link l' = s.link l' := by
  cases l' <;> simp [State.link]
@[simp] theorem State.setQueue_agent (s : State) (q : Nat) (r : Queue) (y : Nat) : (s.setQueue q r).agent y = s.agent y := by
  simp [State.agent]
@[simp] theorem State.setQueue_call (s : State) (q : Nat) (r : Queue) (y : Nat) : (s.setQueue q r).call? y = s.call? y := by
  simp [State.call?]
@[simp] theorem State.setQueue_highway (s : State) (q : Nat) (r : Queue) (h' : Highway) : (s.setQueue q r).highway h' = s.highway h' := by
  cases h' <;> simp [State.highway]
@[simp] theorem State.setQueue_channel (s : State) (q : Nat) (r : Queue) (h' : Highway) (t' : Nat) : (s.setQueue q r).channel h' t' = s.channel h' t' := by
  cases h' <;> simp [State.channel, State.highway]
@[simp] theorem State.setQueue_pattern (s : State) (q : Nat) (r : Queue) (b' : Bank) (p' : Nat) : (s.setQueue q r).pattern b' p' = s.pattern b' p' := by
  cases b' <;> simp [State.pattern]
@[simp] theorem State.setQueue_refs (s : State) (q : Nat) (r : Queue) (b' : Bank) : (s.setQueue q r).refs b' = s.refs b' := by
  cases b' <;> simp [State.refs]
@[simp] theorem State.setQueue_useCount (s : State) (q : Nat) (r : Queue) (g : Nat) : (s.setQueue q r).useCount g = s.useCount g := by
  simp [State.useCount]
@[simp] theorem State.setQueue_segment (s : State) (q : Nat) (r : Queue) (g : Nat) : (s.setQueue q r).segment? g = s.segment? g := by
  simp [State.segment?]
@[simp] theorem State.setQueue_programme (s : State) (q : Nat) (r : Queue) (p' : Nat) : (s.setQueue q r).programme p' = s.programme p' := by
  simp [State.programme]
@[simp] theorem State.setQueue_freeNotices (s : State) (q : Nat) (r : Queue) (l' : Link) : (s.setQueue q r).freeNotices l' = s.freeNotices l' := by
  simp [State.freeNotices]
@[simp] theorem State.setHighway_link (s : State) (h : Highway) (r : HighwayRec) (l' : Link) : (s.setHighway h r).link l' = s.link l' := by
  cases l' <;> simp [State.link]
@[simp] theorem State.setHighway_agent (s : State) (h : Highway) (r : HighwayRec) (y : Nat) : (s.setHighway h r).agent y = s.agent y := by
  simp [State.agent]
@[simp] theorem State.setHighway_call (s : State) (h : Highway) (r : HighwayRec) (y : Nat) : (s.setHighway h r).call? y = s.call? y := by
  simp [State.call?]
@[simp] theorem State.setHighway_queue (s : State) (h : Highway) (r : HighwayRec) (p' : Nat) : (s.setHighway h r).queue p' = s.queue p' := by
  simp [State.queue]
@[simp] theorem State.setHighway_pattern (s : State) (h : Highway) (r : HighwayRec) (b' : Bank) (p' : Nat) : (s.setHighway h r).pattern b' p' = s.pattern b' p' := by
  cases b' <;> simp [State.pattern]
@[simp] theorem State.setHighway_refs (s : State) (h : Highway) (r : HighwayRec) (b' : Bank) : (s.setHighway h r).refs b' = s.refs b' := by
  cases b' <;> simp [State.refs]
@[simp] theorem State.setHighway_useCount (s : State) (h : Highway) (r : HighwayRec) (g : Nat) : (s.setHighway h r).useCount g = s.useCount g := by
  simp [State.useCount]
@[simp] theorem State.setHighway_segment (s : State) (h : Highway) (r : HighwayRec) (g : Nat) : (s.setHighway h r).segment? g = s.segment? g := by
  simp [State.segment?]
@[simp] theorem State.setHighway_programme (s : State) (h : Highway) (r : HighwayRec) (p' : Nat) : (s.setHighway h r).programme p' = s.programme p' := by
  simp [State.programme]
@[simp] theorem State.setHighway_freeNotices (s : State) (h : Highway) (r : HighwayRec) (l' : Link) : (s.setHighway h r).freeNotices l' = s.freeNotices l' := by
  simp [State.freeNotices]
@[simp] theorem State.setChannel_link (s : State) (h : Highway) (ts : Nat) (c : Channel) (l' : Link) : (s.setChannel h ts c).link l' = s.link l' := by
  cases l' <;> simp [State.link]
@[simp] theorem State.setChannel_agent (s : State) (h : Highway) (ts : Nat) (c : Channel) (y : Nat) : (s.setChannel h ts c).agent y = s.agent y := by
  simp [State.agent]
@[simp] theorem State.setChannel_call (s : State) (h : Highway) (ts : Nat) (c : Channel) (y : Nat) : (s.setChannel h ts c).call? y = s.call? y := by
  simp [State.call?]
@[simp] theorem State.setChannel_queue (s : State) (h : Highway) (ts : Nat) (c : Channel) (p' : Nat) : (s.setChannel h ts c).queue p' = s.queue p' := by
  simp [State.queue]
@[simp] theorem State.setChannel_pattern (s : State) (h : Highway) (ts : Nat) (c : Channel) (b' : Bank) (p' : Nat) : (s.setChannel h ts c).pattern b' p' = s.pattern b' p' := by
  cases b' <;> simp [State.pattern]
@[simp] theorem State.setChannel_refs (s : State) (h : Highway) (ts : Nat) (c : Channel) (b' : Bank) : (s.setChannel h ts c).refs b' = s.refs b' := by
  cases b' <;> simp [State.refs]
@[simp] theorem State.setChannel_useCount (s : State) (h : Highway) (ts : Nat) (c : Channel) (g : Nat) : (s.setChannel h ts c).useCount g = s.useCount g := by
  simp [State.useCount]
@[simp] theorem State.setChannel_segment (s : State) (h : Highway) (ts : Nat) (c : Channel) (g : Nat) : (s.setChannel h ts c).segment? g = s.segment? g := by
  simp [State.segment?]
@[simp] theorem State.setChannel_programme (s : State) (h : Highway) (ts : Nat) (c : Channel) (p' : Nat) : (s.setChannel h ts c).programme p' = s.programme p' := by
  simp [State.programme]
@[simp] theorem State.setChannel_freeNotices (s : State) (h : Highway) (ts : Nat) (c : Channel) (l' : Link) : (s.setChannel h ts c).freeNotices l' = s.freeNotices l' := by
  simp [State.freeNotices]
@[simp] theorem State.setPattern_link (s : State) (b : Bank) (p : Nat) (steps : List PatternStep) (l' : Link) : (s.setPattern b p steps).link l' = s.link l' := by
  cases l' <;> simp [State.link]
@[simp] theorem State.setPattern_agent (s : State) (b : Bank) (p : Nat) (steps : List PatternStep) (y : Nat) : (s.setPattern b p steps).agent y = s.agent y := by
  simp [State.agent]
@[simp] theorem State.setPattern_call (s : State) (b : Bank) (p : Nat) (steps : List PatternStep) (y : Nat) : (s.setPattern b p steps).call? y = s.call? y := by
  simp [State.call?]
@[simp] theorem State.setPattern_queue (s : State) (b : Bank) (p : Nat) (steps : List PatternStep) (p' : Nat) : (s.setPattern b p steps).queue p' = s.queue p' := by
  simp [State.queue]
@[simp] theorem State.setPattern_highway (s : State) (b : Bank) (p : Nat) (steps : List PatternStep) (h' : Highway) : (s.setPattern b p steps).highway h' = s.highway h' := by
  cases h' <;> simp [State.highway]
@[simp] theorem State.setPattern_channel (s : State) (b : Bank) (p : Nat) (steps : List PatternStep) (h' : Highway) (t' : Nat) : (s.setPattern b p steps).channel h' t' = s.channel h' t' := by
  cases h' <;> simp [State.channel, State.highway]
@[simp] theorem State.setPattern_refs (s : State) (b : Bank) (p : Nat) (steps : List PatternStep) (b' : Bank) : (s.setPattern b p steps).refs b' = s.refs b' := by
  cases b' <;> simp [State.refs]
@[simp] theorem State.setPattern_useCount (s : State) (b : Bank) (p : Nat) (steps : List PatternStep) (g : Nat) : (s.setPattern b p steps).useCount g = s.useCount g := by
  simp [State.useCount]
@[simp] theorem State.setPattern_segment (s : State) (b : Bank) (p : Nat) (steps : List PatternStep) (g : Nat) : (s.setPattern b p steps).segment? g = s.segment? g := by
  simp [State.segment?]
@[simp] theorem State.setPattern_programme (s : State) (b : Bank) (p : Nat) (steps : List PatternStep) (p' : Nat) : (s.setPattern b p steps).programme p' = s.programme p' := by
  simp [State.programme]
@[simp] theorem State.setPattern_freeNotices (s : State) (b : Bank) (p : Nat) (steps : List PatternStep) (l' : Link) : (s.setPattern b p steps).freeNotices l' = s.freeNotices l' := by
  simp [State.freeNotices]
@[simp] theorem State.updRefs_link (s : State) (b : Bank) (f : Nat → Nat) (l' : Link) : (s.updRefs b f).link l' = s.link l' := by
  cases l' <;> simp [State.link]
@[simp] theorem State.updRefs_agent (s : State) (b : Bank) (f : Nat → Nat) (y : Nat) : (s.updRefs b f).agent y = s.agent y := by
  simp [State.agent]
@[simp] theorem State.updRefs_call (s : State) (b : Bank) (f : Nat → Nat) (y : Nat) : (s.updRefs b f).call? y = s.call? y := by
  simp [State.call?]
@[simp] theorem State.updRefs_queue (s : State) (b : Bank) (f : Nat → Nat) (p' : Nat) : (s.updRefs b f).queue p' = s.queue p' := by
  simp [State.queue]
@[simp] theorem State.updRefs_highway (s : State) (b : Bank) (f : Nat → Nat) (h' : Highway) : (s.updRefs b f).highway h' = s.highway h' := by
  cases h' <;> simp [State.highway]
@[simp] theorem State.updRefs_channel (s : State) (b : Bank) (f : Nat → Nat) (h' : Highway) (t' : Nat) : (s.updRefs b f).channel h' t' = s.channel h' t' := by
  cases h' <;> simp [State.channel, State.highway]
@[simp] theorem State.updRefs_pattern (s : State) (b : Bank) (f : Nat → Nat) (b' : Bank) (p' : Nat) : (s.updRefs b f).pattern b' p' = s.pattern b' p' := by
  cases b' <;> simp [State.pattern]
@[simp] theorem State.updRefs_useCount (s : State) (b : Bank) (f : Nat → Nat) (g : Nat) : (s.updRefs b f).useCount g = s.useCount g := by
  simp [State.useCount]
@[simp] theorem State.updRefs_segment (s : State) (b : Bank) (f : Nat → Nat) (g : Nat) : (s.updRefs b f).segment? g = s.segment? g := by
  simp [State.segment?]
@[simp] theorem State.updRefs_programme (s : State) (b : Bank) (f : Nat → Nat) (p' : Nat) : (s.updRefs b f).programme p' = s.programme p' := by
  simp [State.programme]
@[simp] theorem State.updRefs_freeNotices (s : State) (b : Bank) (f : Nat → Nat) (l' : Link) : (s.updRefs b f).freeNotices l' = s.freeNotices l' := by
  simp [State.freeNotices]
@[simp] theorem State.updUseCounts_link (s : State) (gs : List Nat) (f : Nat → Nat) (l' : Link) : (s.updUseCounts gs f).link l' = s.link l' := by
  cases l' <;> simp [State.link]
@[simp] theorem State.updUseCounts_agent (s : State) (gs : List Nat) (f : Nat → Nat) (y : Nat) : (s.updUseCounts gs f).agent y = s.agent y := by
  simp [State.agent]
@[simp] theorem State.updUseCounts_call (s : State) (gs : List Nat) (f : Nat → Nat) (y : Nat) : (s.updUseCounts gs f).call? y = s.call? y := by
  simp [State.call?]
@[simp] theorem State.updUseCounts_queue (s : State) (gs : List Nat) (f : Nat → Nat) (p' : Nat) : (s.updUseCounts gs f).queue p' = s.queue p' := by
  simp [State.queue]
@[simp] theorem State.updUseCounts_highway (s : State) (gs : List Nat) (f : Nat → Nat) (h' : Highway) : (s.updUseCounts gs f).highway h' = s.highway h' := by
  cases h' <;> simp [State.highway]
@[simp] theorem State.updUseCounts_channel (s : State) (gs : List Nat) (f : Nat → Nat) (h' : Highway) (t' : Nat) : (s.updUseCounts gs f).channel h' t' = s.channel h' t' := by
  cases h' <;> simp [State.channel, State.highway]
@[simp] theorem State.updUseCounts_pattern (s : State) (gs : List Nat) (f : Nat → Nat) (b' : Bank) (p' : Nat) : (s.updUseCounts gs f).pattern b' p' = s.pattern b' p' := by
  cases b' <;> simp [State.pattern]
@[simp] theorem State.updUseCounts_refs (s : State) (gs : List Nat) (f : Nat → Nat) (b' : Bank) : (s.updUseCounts gs f).refs b' = s.refs b' := by
  cases b' <;> simp [State.refs]
@[simp] theorem State.updUseCounts_segment (s : State) (gs : List Nat) (f : Nat → Nat) (g : Nat) : (s.updUseCounts gs f).segment? g = s.segment? g := by
  simp [State.segment?]
@[simp] theorem State.updUseCounts_programme (s : State) (gs : List Nat) (f : Nat → Nat) (p' : Nat) : (s.updUseCounts gs f).programme p' = s.programme p' := by
  simp [State.programme]
@[simp] theorem State.updUseCounts_freeNotices (s : State) (gs : List Nat) (f : Nat → Nat) (l' : Link) : (s.updUseCounts gs f).freeNotices l' = s.freeNotices l' := by
  simp [State.freeNotices]
@[simp] theorem State.setProgramme_link (s : State) (p : Nat) (r : Programme) (l' : Link) : (s.setProgramme p r).link l' = s.link l' := by
  cases l' <;> simp [State.link]
@[simp] theorem State.setProgramme_agent (s : State) (p : Nat) (r : Programme) (y : Nat) : (s.setProgramme p r).agent y = s.agent y := by
  simp [State.agent]
@[simp] theorem State.setProgramme_call (s : State) (p : Nat) (r : Programme) (y : Nat) : (s.setProgramme p r).call? y = s.call? y := by
  simp [State.call?]
@[simp] theorem State.setProgramme_queue (s : State) (p : Nat) (r : Programme) (p' : Nat) : (s.setProgramme p r).queue p' = s.queue p' := by
  simp [State.queue]
@[simp] theorem State.setProgramme_highway (s : State) (p : Nat) (r : Programme) (h' : Highway) : (s.setProgramme p r).highway h' = s.highway h' := by
  cases h' <;> simp [State.highway]
@[simp] theorem State.setProgramme_channel (s : State) (p : Nat) (r : Programme) (h' : Highway) (t' : Nat) : (s.setProgramme p r).channel h' t' = s.channel h' t' := by
  cases h' <;> simp [State.channel, State.highway]
@[simp] theorem State.setProgramme_pattern (s : State) (p : Nat) (r : Programme) (b' : Bank) (p' : Nat) : (s.setProgramme p r).pattern b' p' = s.pattern b' p' := by
  cases b' <;> simp [State.pattern]
@[simp] theorem State.setProgramme_refs (s : State) (p : Nat) (r : Programme) (b' : Bank) : (s.setProgramme p r).refs b' = s.refs b' := by
  cases b' <;> simp [State.refs]
@[simp] theorem State.setProgramme_useCount (s : State) (p : Nat) (r : Programme) (g : Nat) : (s.setProgramme p r).useCount g = s.useCount g := by
  simp [State.useCount]
@[simp] theorem State.setProgramme_segment (s : State) (p : Nat) (r : Programme) (g : Nat) : (s.setProgramme p r).segment? g = s.segment? g := by
  simp [State.segment?]
@[simp] theorem State.setProgramme_freeNotices (s : State) (p : Nat) (r : Programme) (l' : Link) : (s.setProgramme p r).freeNotices l' = s.freeNotices l' := by
  simp [State.freeNotices]
@[simp] theorem State.setLink_settings (s : State) (l : Link) (r : LinkRec) : (s.setLink l r).settings = s.settings := by
  simp [State.settings]
@[simp] theorem State.setAgent_settings (s : State) (slot : Nat) (a : Agent) : (s.setAgent slot a).settings = s.settings := by
  simp [State.settings]
@[simp] theorem State.setCall_settings (s : State) (slot : Nat) (c : Call) : (s.setCall slot c).settings = s.settings := by
  simp [State.settings]
@[simp] theorem State.freeCall_settings (s : State) (slot : Nat) : (s.freeCall slot).settings = s.settings := by
  simp [State.settings]
@[simp] theorem State.updCall_settings (s : State) (slot : Nat) (f : Call → Call) : (s.updCall slot f).settings = s.settings := by
  simp [State.settings]
@[simp] theorem State.updTreatment_settings (s : State) (slot : Nat) (f : Treatment → Treatment) : (s.updTreatment slot f).settings = s.settings := by
  simp [State.settings]
@[simp] theorem State.setQueue_settings (s : State) (q : Nat) (r : Queue) : (s.setQueue q r).settings = s.settings := by
  simp [State.settings]
@[simp] theorem State.setHighway_settings (s : State) (h : Highway) (r : HighwayRec) : (s.setHighway h r).settings = s.settings := by
  simp [State.settings]
@[simp] theorem State.setChannel_settings (s : State) (h : Highway) (ts : Nat) (c : Channel) : (s.setChannel h ts c).settings = s.settings := by
  simp [State.settings]
@[simp] theorem State.updRefs_settings (s : State) (b : Bank) (f : Nat → Nat) : (s.updRefs b f).settings = s.settings := by
  simp [State.settings]
@[simp] theorem State.updUseCounts_settings (s : State) (gs : List Nat) (f : Nat → Nat) : (s.updUseCounts gs f).settings = s.settings := by
  simp [State.settings]

end Sys2Proof.Machine
end

