-- ==== Sys2Proof/Laws/Clocks.lean ====
section
/-!
SUPPORT. What a tick and a frame take before they go on: whatever each of the events keeps, all of them together keep. And what the
bytes of a frame are made of.
-/
namespace Sys2Proof.Machine

open Sys2Proof

/-- What one event keeps for every slot, the event taken for each slot of a list keeps. -/
theorem foldl_keeps {P : State → Prop} {take : State → Nat → State} (kept : ∀ s x, P s → P (take s x)) (xs : List Nat)
    {s : State} (h : P s) : P (xs.foldl take s) := by
  induction xs generalizing s with
  | nil => exact h
  | cons x xs ih => exact ih (kept s x h)

/-- What the six expiries keep, the expiries that a tick takes keep. -/
theorem State.takeExpiries_keeps {P : State → Prop} (ring : ∀ s y, P s → P (s.takeRingExpiry y))
    (promotion : ∀ s y, P s → P (s.takePromotionDeadline y)) (step : ∀ s y, P s → P (s.takeStepDeadline y))
    (deferral : ∀ s y, P s → P (s.takeDeferralExpiry y)) (wrap : ∀ s x, P s → P (s.takeWrapDeadline x))
    (penalty : ∀ s x, P s → P (s.takePenaltyExpiry x)) {s : State} (h : P s) : P s.takeExpiries :=
  foldl_keeps penalty _ (foldl_keeps wrap _ (foldl_keeps deferral _ (foldl_keeps step _ (foldl_keeps promotion _
    (foldl_keeps ring _ h)))))

/-- What the block boundary and the phrase ends keep, the events that a frame takes first keep. -/
theorem State.takePlayoutEvents_keeps {P : State → Prop} (boundary : ∀ s, P s → P s.takeBlockBoundary)
    (phraseEnd : ∀ s h ts, P s → P (s.takePhraseEnd h ts)) {s : State} (h : P s) : P s.takePlayoutEvents :=
  foldl_keeps (phraseEnd · .b ·) _ (foldl_keeps (phraseEnd · .a ·) _ (boundary s h))

/-- What every command keeps, commands carried out one after another keep. -/
theorem State.Runs.keeps {P : State → Prop} {cs : List Instr} {s t : State} (r : State.Runs cs s t)
    (kept : ∀ c ∈ cs, ∀ u v, P u → exec c u = .next v → P v) (h : P s) : P t := by
  induction r with
  | done => exact h
  | next hc _ ih =>
    exact ih (fun c hm => kept c (List.mem_cons_of_mem _ hm)) (kept _ List.mem_cons_self _ _ h hc)

/-- Command lists carried out one after another are carried out as one list. -/
theorem State.Runs.append {cs ds : List Instr} {s u t : State} (r : State.Runs cs s u) (q : State.Runs ds u t) :
    State.Runs (cs ++ ds) s t := by
  induction r with
  | done => exact q
  | next hc _ ih => exact .next hc (ih q)

/-- A command that always goes on with `take` runs as `take` over a list of slots. -/
theorem State.Runs.map {take : State → Nat → State} {command : Nat → Instr}
    (goes : ∀ s x, exec (command x) s = .next (take s x)) (xs : List Nat) (s : State) :
    State.Runs (xs.map command) s (xs.foldl take s) := by
  induction xs generalizing s with
  | nil => exact .done
  | cons x xs ih => exact .next (goes s x) (ih _)

/-! ## What a frame places (R145, R146, R149, R158) -/

theorem State.segmentLength_congr {s t : State} (segments : t.segments = s.segments) (g : Nat) :
    t.segmentLength g = s.segmentLength g := by
  unfold State.segmentLength State.segment?
  rw [segments]

theorem State.segmentByte_congr {s t : State} (store : t.store = s.store) (segments : t.segments = s.segments)
    (silence : t.silence = s.silence) (g offset : Nat) : t.segmentByte g offset = s.segmentByte g offset := by
  unfold State.segmentByte State.segment?
  rw [store, segments, silence]

theorem State.seekTrack_congr {s t : State} (segments : t.segments = s.segments) (p : Programme) (fuel k offset : Nat) :
    t.seekTrack p fuel k offset = s.seekTrack p fuel k offset := by
  have h (k : Nat) : t.trackLength p k = s.trackLength p k := by
    simp only [State.trackLength, State.segmentLength_congr segments]
  induction fuel generalizing k offset with
  | zero => rfl
  | succ fuel ih => simp only [State.seekTrack, h, ih]

theorem State.seekSegment_congr {s t : State} (segments : t.segments = s.segments) (phrase : List Nat) (fuel i offset : Nat) :
    t.seekSegment phrase fuel i offset = s.seekSegment phrase fuel i offset := by
  induction fuel generalizing i offset with
  | zero => rfl
  | succ fuel ih => simp only [State.seekSegment, State.segmentLength_congr segments, ih]

/-- The bytes that a frame places on a highway depend on the store, the segments, the programmes, the silence byte and the
highway's channels alone (R146). -/
theorem State.frameBytes_congr {s t : State} {h : Highway} (store : t.store = s.store) (segments : t.segments = s.segments)
    (programmes : t.programmes = s.programmes) (silence : t.silence = s.silence) (highway : t.highway h = s.highway h) :
    t.frameBytes h = s.frameBytes h := by
  have programme (p : Programme) : (t.programmeFrame p).1 = (s.programmeFrame p).1 := by
    simp only [State.programmeFrame, State.seekTrack_congr segments, State.trackByte,
      State.segmentByte_congr store segments silence, silence]
    rcases p.state with _ | _ | _ <;> try rfl
    dsimp only
    split <;> rfl
  have channel (c : Channel) : (t.channelFrame c).1 = (s.channelFrame c).1 := by
    simp only [State.channelFrame, State.seekSegment_congr segments, State.segmentByte_congr store segments silence, silence]
  simp only [State.frameBytes, State.programme, State.channel, programmes, highway, programme, channel]

end Sys2Proof.Machine
end

