-- ==== Sys2Proof/Laws/Tables.lean ====
section
/-!
SUPPORT. The laws of tables and of the sample store: a read after a write to the same key gives the value written, a write
leaves every other key alone, and every write keeps the canonical form.
-/
namespace Sys2Proof.Machine

open Sys2Proof

variable {α : Type}

/-! ## Reads after writes -/

@[simp] theorem Assoc.find_nil (k : Nat) : Assoc.find (α := α) k [] = none := rfl

theorem Assoc.find_erase_self (k : Nat) (t : List (Nat × α)) : Assoc.find k (Assoc.erase k t) = none := by
  induction t with
  | nil => rfl
  | cons e t ih =>
    obtain ⟨k', v⟩ := e
    by_cases h : k' = k
    · simpa [Assoc.erase, h] using ih
    · simp only [Assoc.erase, ne_eq, h, not_false_eq_true, bne_iff_ne, List.filter_cons_of_pos, Assoc.find] at ih ⊢
      simpa [h] using ih

theorem Assoc.find_erase_ne {k k' : Nat} (h : k' ≠ k) (t : List (Nat × α)) :
    Assoc.find k' (Assoc.erase k t) = Assoc.find k' t := by
  induction t with
  | nil => rfl
  | cons e t ih =>
    obtain ⟨x, v⟩ := e
    by_cases hx : x = k
    · subst hx
      have : ¬ x = k' := fun h' => h h'.symm
      simpa [Assoc.erase, Assoc.find, this] using ih
    · by_cases hk : x = k'
      · simp [Assoc.erase, Assoc.find, hk, h]
      · simpa [Assoc.erase, Assoc.find, hx, hk] using ih

theorem Assoc.find_insert_of_absent {k : Nat} (v : α) (t : List (Nat × α)) (k' : Nat) (habs : Assoc.find k t = none) :
    Assoc.find k' (Assoc.insert k v t) = if k = k' then some v else Assoc.find k' t := by
  induction t with
  | nil => simp [Assoc.insert, Assoc.find]
  | cons e t ih =>
    obtain ⟨x, w⟩ := e
    have hx : x ≠ k := by
      intro hx
      simp [Assoc.find, hx] at habs
    have htail : Assoc.find k t = none := by simpa [Assoc.find, hx] using habs
    by_cases hlt : k < x
    · simp [Assoc.insert, hlt, Assoc.find]
    · simp only [Assoc.insert, hlt, if_false, Assoc.find]
      by_cases hxk : x = k'
      · have hk : k ≠ k' := fun h => hx (hxk.trans h.symm)
        simp [hxk, hk]
      · simpa [hxk] using ih htail

/-- A value put at a key is found there, and nothing else changes. -/
theorem Assoc.find_put (k k' : Nat) (v : α) (t : List (Nat × α)) :
    Assoc.find k' (Assoc.put k v t) = if k = k' then some v else Assoc.find k' t := by
  rw [Assoc.put, Assoc.find_insert_of_absent v _ k' (Assoc.find_erase_self k t)]
  by_cases h : k = k'
  · simp [h]
  · simp [h, Assoc.find_erase_ne (Ne.symm h)]

theorem Assoc.find_erase (k k' : Nat) (t : List (Nat × α)) :
    Assoc.find k' (Assoc.erase k t) = if k = k' then none else Assoc.find k' t := by
  by_cases h : k = k'
  · subst h
    simp [Assoc.find_erase_self]
  · simp [h, Assoc.find_erase_ne (Ne.symm h)]

/-- A value set at a key is read there, and nothing else changes. -/
@[simp] theorem Assoc.get_set [DecidableEq α] (d : α) (k k' : Nat) (v : α) (t : List (Nat × α)) :
    Assoc.get d k' (Assoc.set d k v t) = if k = k' then v else Assoc.get d k' t := by
  unfold Assoc.get Assoc.set
  by_cases hv : v = d
  · by_cases hk : k = k' <;> simp [hv, Assoc.find_erase, hk]
  · by_cases hk : k = k' <;> simp [hv, Assoc.find_put, hk]

/-! ## Canonical form -/

theorem Assoc.rising_tail {e : Nat × α} {t : List (Nat × α)} (h : Assoc.rising (e :: t) = true) :
    Assoc.rising t = true := by
  cases t with
  | nil => rfl
  | cons f t => obtain ⟨k, v⟩ := e; obtain ⟨k', v'⟩ := f; simp [Assoc.rising] at h; exact h.2

theorem Assoc.rising_cons {k : Nat} {v : α} {t : List (Nat × α)} :
    Assoc.rising ((k, v) :: t) = true ↔ (∀ e ∈ t, k < e.1) ∧ Assoc.rising t = true := by
  induction t generalizing k v with
  | nil => simp [Assoc.rising]
  | cons f t ih =>
    obtain ⟨k', v'⟩ := f
    simp only [Assoc.rising, Bool.and_eq_true, decide_eq_true_eq, List.mem_cons, forall_eq_or_imp]
    constructor
    · rintro ⟨h1, h2⟩
      exact ⟨⟨h1, fun e he => h1.trans ((ih.1 h2).1 e he)⟩, h2⟩
    · rintro ⟨⟨h1, -⟩, h2⟩
      exact ⟨h1, h2⟩

theorem Assoc.rising_erase (k : Nat) {t : List (Nat × α)} (h : Assoc.rising t = true) :
    Assoc.rising (Assoc.erase k t) = true := by
  induction t with
  | nil => rfl
  | cons e t ih =>
    obtain ⟨x, v⟩ := e
    rw [Assoc.rising_cons] at h
    by_cases hx : x = k
    · simpa [Assoc.erase, hx] using ih h.2
    · have : Assoc.erase k ((x, v) :: t) = (x, v) :: Assoc.erase k t := by simp [Assoc.erase, hx]
      rw [this, Assoc.rising_cons]
      exact ⟨fun e he => h.1 e (List.mem_of_mem_filter he), ih h.2⟩

theorem Assoc.mem_insert {k : Nat} {v : α} {t : List (Nat × α)} {e : Nat × α} :
    e ∈ Assoc.insert k v t ↔ e = (k, v) ∨ e ∈ t := by
  induction t with
  | nil => simp [Assoc.insert]
  | cons f t ih =>
    obtain ⟨x, w⟩ := f
    by_cases h : k < x
    · simp [Assoc.insert, h]
    · simp only [Assoc.insert, h, if_false, List.mem_cons, ih]
      tauto

theorem Assoc.rising_insert {k : Nat} (v : α) {t : List (Nat × α)} (h : Assoc.rising t = true)
    (habs : ∀ e ∈ t, e.1 ≠ k) : Assoc.rising (Assoc.insert k v t) = true := by
  induction t with
  | nil => rfl
  | cons f t ih =>
    obtain ⟨x, w⟩ := f
    have hx : x ≠ k := habs (x, w) (by simp)
    by_cases hlt : k < x
    · simp only [Assoc.insert, hlt, if_true]
      rw [Assoc.rising_cons]
      refine ⟨fun e he => ?_, h⟩
      rw [List.mem_cons] at he
      rcases he with rfl | he
      · exact hlt
      · exact hlt.trans ((Assoc.rising_cons.1 h).1 e he)
    · simp only [Assoc.insert, hlt, if_false]
      rw [Assoc.rising_cons] at h ⊢
      refine ⟨fun e he => ?_, ih h.2 fun e he => habs e (by simp [he])⟩
      rw [Assoc.mem_insert] at he
      rcases he with rfl | he
      · exact lt_of_le_of_ne (not_lt.1 hlt) hx
      · exact h.1 e he

theorem Assoc.rising_set [DecidableEq α] (d : α) (k : Nat) (v : α) {t : List (Nat × α)} (h : Assoc.rising t = true) :
    Assoc.rising (Assoc.set d k v t) = true := by
  unfold Assoc.set
  split
  · exact Assoc.rising_erase k h
  · refine Assoc.rising_insert v (Assoc.rising_erase k h) fun e he => ?_
    simpa [Assoc.erase] using (List.mem_filter.1 he).2

/-- A write keeps the canonical form of the store. -/
theorem Memory.write_wf {m : List Host.Cell} (h : Memory.wf m = true) (a : Nat) (b : Byte) :
    Memory.wf (Memory.write m a b) = true := by
  simp only [Memory.wf, Bool.and_eq_true, List.all_eq_true] at h ⊢
  refine ⟨Assoc.rising_set _ a b h.1, fun e he => ?_⟩
  unfold Memory.write Assoc.set at he
  split at he
  · exact h.2 e (List.mem_of_mem_filter he)
  · rename_i hb
    rw [Assoc.put, Assoc.mem_insert] at he
    rcases he with rfl | he
    · simpa using hb
    · exact h.2 e (List.mem_of_mem_filter he)

/-- Writing bytes upward keeps the canonical form of the store. -/
theorem Memory.writeBytes_wf {m : List Host.Cell} (h : Memory.wf m = true) (a : Nat) (bs : List Byte) :
    Memory.wf (Memory.writeBytes m a bs) = true := by
  induction bs generalizing m a with
  | nil => exact h
  | cons b bs ih => exact ih (Memory.write_wf h a b) (a + 1)

/-- The store after power-on reset is in canonical form. -/
theorem Memory.reset_wf : Memory.wf State.reset.store = true := rfl

/-- A byte read after a byte is written. -/
@[simp] theorem Memory.read_write (m : List Host.Cell) (a a' : Nat) (b : Byte) :
    Memory.read (Memory.write m a b) a' = if a = a' then b else Memory.read m a' := Assoc.get_set _ a a' b m

/-! ## The records of State -/

@[simp] theorem State.link_setLink (s : State) (l l' : Link) (r : LinkRec) :
    (s.setLink l r).link l' = if l = l' then r else s.link l' := by cases l <;> cases l' <;> rfl

@[simp] theorem State.agent_setAgent (s : State) (x y : Nat) (a : Agent) :
    (s.setAgent x a).agent y = if x = y then a else s.agent y := Assoc.get_set _ x y a s.agents

@[simp] theorem State.call?_setCall (s : State) (x y : Nat) (c : Call) :
    (s.setCall x c).call? y = if x = y then some c else s.call? y := Assoc.find_put x y c s.calls

@[simp] theorem State.call?_freeCall (s : State) (x y : Nat) :
    (s.freeCall x).call? y = if x = y then none else s.call? y := Assoc.find_erase x y s.calls

@[simp] theorem State.call?_updCall (s : State) (x y : Nat) (f : Call → Call) :
    (s.updCall x f).call? y = if x = y then (s.call? y).map f else s.call? y := by
  unfold State.updCall
  by_cases h : x = y
  · subst h
    cases hx : s.call? x <;> simp [hx]
  · cases hx : s.call? x <;> simp [h]

@[simp] theorem State.queue_setQueue (s : State) (p q : Nat) (r : Queue) :
    (s.setQueue p r).queue q = if p = q then r else s.queue q := Assoc.get_set _ p q r s.queues

@[simp] theorem State.highway_setHighway (s : State) (h h' : Highway) (r : HighwayRec) :
    (s.setHighway h r).highway h' = if h = h' then r else s.highway h' := by cases h <;> cases h' <;> rfl

@[simp] theorem State.channel_setChannel (s : State) (h h' : Highway) (t t' : Nat) (c : Channel) :
    (s.setChannel h t c).channel h' t' = if h = h' ∧ t = t' then c else s.channel h' t' := by
  unfold State.setChannel State.channel
  by_cases hh : h = h'
  · subst hh
    simp
  · simp [hh]

@[simp] theorem State.pattern_setPattern (s : State) (b b' : Bank) (p p' : Nat) (steps : List PatternStep) :
    (s.setPattern b p steps).pattern b' p' = if b = b' ∧ p = p' then steps else s.pattern b' p' := by
  cases b <;> cases b' <;> simp [State.setPattern, State.pattern]

@[simp] theorem State.refs_updRefs (s : State) (b b' : Bank) (f : Nat → Nat) :
    (s.updRefs b f).refs b' = if b = b' then f (s.refs b') else s.refs b' := by cases b <;> cases b' <;> rfl

@[simp] theorem State.programme_setProgramme (s : State) (p q : Nat) (r : Programme) :
    (s.setProgramme p r).programme q = if p = q then r else s.programme q := Assoc.get_set _ p q r s.programmes

end Sys2Proof.Machine
end

