-- ==== Sys2Proof/Laws/Engine.lean ====
section
/-!
SUPPORT. What the work of calls, agents, offers and treatments can do, said once for every shared operation: it keeps the
settings of a state, the queue configurations, what a link holds beside its notices, the counts of a bank that is not active,
and each promise of Sys2Proof/Safety.lean. An event's proof cites these lemmas instead of unfolding the operations.
-/
namespace Sys2Proof.Machine

open Sys2Proof

/-- The replies queued on a link. -/
def LinkRec.replies (r : LinkRec) : List OutEntry := r.outbound.filter fun x => !x.isNotice

/-- What a link holds beside its notices, reservations, waiting work and notices-dropped flag. -/
def LinkRec.port (r : LinkRec) : Bool × List Byte × List Request × Permissions × Enables × Nat × List OutEntry :=
  (r.up, r.receiving, r.inbound, r.permissions, r.enables, r.faultCount, r.replies)

/-- One state follows another by work of the engine alone. -/
structure Engine (s s' : State) : Prop where
  settings : s'.settings = s.settings
  config : ∀ q, (s'.queue q).config = (s.queue q).config
  port : ∀ l, (s'.link l).port = (s.link l).port
  grows : ∀ l, ∃ ns : List Notice, (s'.link l).outbound = (s.link l).outbound ++ ns.map OutEntry.notice
  refs : ∀ b, s.activeBank ≠ b → s.refs b = 0 → s'.refs b = 0
  available : s.AvailableExact → s'.AvailableExact
  recent : s.RecentSound → s'.RecentSound
  space : ∀ l, (s.link l).SpaceKept → (s'.link l).SpaceKept
  redirects : s.RedirectsBounded → s'.RedirectsBounded

namespace Engine

theorem activeBank {s s' : State} (h : Engine s s') : s'.activeBank = s.activeBank :=
  congrArg Settings.activeBank h.settings

theorem openBank {s s' : State} (h : Engine s s') : s'.openBank = s.openBank := congrArg Settings.openBank h.settings

theorem tick {s s' : State} (h : Engine s s') : s'.tick = s.tick := congrArg Settings.tick h.settings

theorem refl (s : State) : Engine s s :=
  { settings := rfl, config := fun _ => rfl, port := fun _ => rfl, grows := fun _ => ⟨[], by simp⟩, refs := fun _ _ h => h, available := id, recent := id,
    space := fun _ => id, redirects := id }

theorem trans {s₁ s₂ s₃ : State} (h : Engine s₁ s₂) (k : Engine s₂ s₃) : Engine s₁ s₃ :=
  { settings := k.settings.trans h.settings
    config := fun q => (k.config q).trans (h.config q)
    port := fun l => (k.port l).trans (h.port l)
    grows := fun l => by
      obtain ⟨a, ha⟩ := h.grows l
      obtain ⟨b, hb⟩ := k.grows l
      exact ⟨a ++ b, by rw [hb, ha, List.map_append, List.append_assoc]⟩
    refs := fun b hb hr => k.refs b (h.activeBank ▸ hb) (h.refs b hb hr)
    available := fun ha => k.available (h.available ha)
    recent := fun hr => k.recent (h.recent hr)
    space := fun l hl => k.space l (h.space l hl)
    redirects := fun hr => k.redirects (h.redirects hr) }

/-- `trans` with the last piece of work first. -/
theorem after {s₁ s₂ s₃ : State} (k : Engine s₂ s₃) (h : Engine s₁ s₂) : Engine s₁ s₃ := h.trans k

/-- An update that leaves the links, the counts, the available list, the recent service list and every agent's state. -/
theorem of_frame {s s' : State} (hset : s'.settings = s.settings)
    (hconfig : ∀ q, (s'.queue q).config = (s.queue q).config) (hlink : ∀ l, s'.link l = s.link l)
    (hrefs : ∀ b, s'.refs b = s.refs b) (havail : s'.available = s.available)
    (hagent : ∀ x, (s'.agent x).state = (s.agent x).state) (hrecent : s'.recent = s.recent)
    (hcalls : s.RedirectsBounded → s'.RedirectsBounded) : Engine s s' :=
  { settings := hset, config := hconfig, port := fun l => by rw [hlink]
    grows := fun l => ⟨[], by rw [hlink]; simp⟩
    refs := fun b _ h => by rw [hrefs, h]
    available := fun h => by simpa only [State.AvailableExact, havail, hagent] using h
    recent := fun h => by simpa only [State.RecentSound, hrecent, hagent] using h
    space := fun l h => by rw [hlink]; exact h
    redirects := hcalls }

end Engine

theorem State.redirects_of_call? {s s' : State} (h : ∀ x, s'.call? x = s.call? x) (hs : s.RedirectsBounded) :
    s'.RedirectsBounded := fun x c hc => hs x c ((h x) ▸ hc)

/-! ## Updates of State -/

theorem State.setQueue_engine (s : State) (q : Nat) (r : Queue) (h : r.config = (s.queue q).config) :
    Engine s (s.setQueue q r) := by
  refine Engine.of_frame (by simp) (fun p => ?_) (by simp) (by simp) (by simp) (by simp) (by simp)
    (State.redirects_of_call? (by simp))
  by_cases hp : q = p
  · subst hp; simp [h]
  · simp [hp]

theorem State.setHighway_engine (s : State) (h : Highway) (r : HighwayRec) : Engine s (s.setHighway h r) :=
  Engine.of_frame (by simp) (by simp) (by simp) (by simp) (by simp) (by simp) (by simp)
    (State.redirects_of_call? (by simp))

theorem State.setChannel_engine (s : State) (h : Highway) (t : Nat) (c : Channel) : Engine s (s.setChannel h t c) :=
  Engine.of_frame (by simp) (by simp) (by simp) (by simp) (by simp) (by simp) (by simp)
    (State.redirects_of_call? (by simp))

theorem State.updUseCounts_engine (s : State) (gs : List Nat) (f : Nat → Nat) : Engine s (s.updUseCounts gs f) :=
  Engine.of_frame (by simp) (by simp) (by simp) (by simp) (by simp) (by simp) (by simp)
    (State.redirects_of_call? (by simp))

theorem State.freeCall_engine (s : State) (slot : Nat) : Engine s (s.freeCall slot) :=
  Engine.of_frame (by simp) (by simp) (by simp) (by simp) (by simp) (by simp) (by simp) fun h x c hc => by
    by_cases hx : slot = x <;> simp [hx] at hc
    exact h x c hc

theorem State.setCall_engine (s : State) (slot : Nat) (c : Call) (hc : s.RedirectsBounded → c.redirects ≤ 7) :
    Engine s (s.setCall slot c) :=
  Engine.of_frame (by simp) (by simp) (by simp) (by simp) (by simp) (by simp) (by simp) fun h x d hd => by
    by_cases hx : slot = x
    · simp [hx] at hd; subst hd; exact hc h
    · simp [hx] at hd; exact h x d hd

theorem State.updCall_engine (s : State) (slot : Nat) (f : Call → Call) (hf : ∀ c, (f c).redirects = c.redirects) :
    Engine s (s.updCall slot f) := by
  unfold State.updCall
  split
  · rename_i c hc
    exact s.setCall_engine slot _ fun h => by rw [hf]; exact h slot c hc
  · exact Engine.refl s

theorem State.updTreatment_engine (s : State) (slot : Nat) (f : Treatment → Treatment) :
    Engine s (s.updTreatment slot f) := s.updCall_engine slot _ fun _ => rfl

theorem State.setAgent_engine (s : State) (slot : Nat) (a : Agent) (h : a.state = (s.agent slot).state) :
    Engine s (s.setAgent slot a) :=
  Engine.of_frame (by simp) (by simp) (by simp) (by simp) (by simp) (fun x => by
    by_cases hx : slot = x
    · subst hx; simp [h]
    · simp [hx]) (by simp) (State.redirects_of_call? (by simp))

/-- A link record replaced by one that differs in its notices, reservations, waiting work or dropped flag only. -/
theorem State.setLink_engine (s : State) (l : Link) (r : LinkRec) (hp : r.port = (s.link l).port)
    (hg : ∃ ns : List Notice, r.outbound = (s.link l).outbound ++ ns.map OutEntry.notice)
    (hs : (s.link l).SpaceKept → r.SpaceKept) : Engine s (s.setLink l r) :=
  { settings := by simp, config := by simp
    port := fun k => by
      by_cases hk : l = k
      · subst hk; simpa using hp
      · simp [hk]
    grows := fun k => by
      by_cases hk : l = k
      · subst hk; simpa using hg
      · exact ⟨[], by simp [hk]⟩
    refs := fun b _ h => by simpa using h
    available := fun h => by simpa [State.AvailableExact] using h
    recent := fun h => by simpa [State.RecentSound] using h
    space := fun k h => by
      by_cases hk : l = k
      · subst hk; simpa using hs h
      · simpa [hk] using h
    redirects := State.redirects_of_call? (by simp) }

theorem State.updRefs_engine (s : State) (b : Bank) (f : Nat → Nat) (h : f 0 = 0 ∨ s.activeBank = b) :
    Engine s (s.updRefs b f) :=
  { settings := by simp, config := by simp, port := by simp, grows := fun _ => ⟨[], by simp⟩
    refs := fun b' hb hr => by
      by_cases hbb : b = b'
      · subst hbb
        rcases h with h | h
        · simp [hr, h]
        · exact absurd h hb
      · simp [hbb, hr]
    available := fun h => by simpa [State.AvailableExact] using h
    recent := fun h => by simpa [State.RecentSound] using h
    space := fun _ h => by simpa using h
    redirects := State.redirects_of_call? (by simp) }

/-! ## Outbound queues -/

theorem LinkRec.freeNotices_pos {r : LinkRec} (h : 0 < r.freeNotices) :
    r.up = true ∧ r.noticeCount + r.reserved < Config.noticeEntries := by
  unfold LinkRec.freeNotices at h
  split at h
  · exact ⟨‹_›, by omega⟩
  · omega

theorem LinkRec.port_notice (r : LinkRec) (n : Notice) :
    ({ r with outbound := r.outbound ++ [.notice n] } : LinkRec).port = r.port := by
  simp [LinkRec.port, LinkRec.replies, OutEntry.isNotice]

theorem LinkRec.noticeCount_append (r : LinkRec) (n : Notice) (k : Nat) :
    ({ r with outbound := r.outbound ++ [.notice n], reserved := k } : LinkRec).noticeCount = r.noticeCount + 1 := by
  simp [LinkRec.noticeCount, OutEntry.isNotice]

theorem Ev.queueNotice_engine (e : Ev) (l : Link) (n : Notice) : Engine e.st (e.queueNotice l n).st := by
  unfold Ev.queueNotice
  split
  · rename_i h
    obtain ⟨hup, hfree⟩ := LinkRec.freeNotices_pos h
    refine State.setLink_engine _ _ _ (LinkRec.port_notice _ n) ⟨[n], rfl⟩ fun hs => ⟨?_, fun hd => ?_⟩
    · have := LinkRec.noticeCount_append (e.st.link l) n (e.st.link l).reserved
      simp only at this ⊢
      omega
    · simp [hup] at hd
  · exact Engine.refl _

theorem Ev.reserve_engine (e : Ev) (l : Link) : Engine e.st (e.reserve l).st := by
  unfold Ev.reserve
  split
  · rename_i h
    obtain ⟨hup, hfree⟩ := LinkRec.freeNotices_pos h
    refine State.setLink_engine _ _ _ rfl ⟨[], by simp⟩ fun hs => ⟨?_, fun hd => ?_⟩
    · have : (e.st.link l).noticeCount + ((e.st.link l).reserved + 1) ≤ Config.noticeEntries := by omega
      exact this
    · simp [hup] at hd
  · exact Engine.refl _

theorem Ev.useReservation_engine (e : Ev) (l : Link) (n : Notice) : Engine e.st (e.useReservation l n).st := by
  unfold Ev.useReservation
  split
  · rename_i h
    refine State.setLink_engine _ _ _ (by simp [LinkRec.port, LinkRec.replies, OutEntry.isNotice]) ⟨[n], rfl⟩
      fun hs => ⟨?_, fun hd => ?_⟩
    · rw [LinkRec.noticeCount_append]
      have := hs.1
      simp only
      omega
    · have := (hs.2 hd).2
      omega
  · exact Engine.refl _

theorem Ev.markFreed_st (e : Ev) (l : Link) : (e.markFreed l).st = e.st := by cases l <;> rfl

theorem Ev.releaseReservation_engine (e : Ev) (l : Link) : Engine e.st (e.releaseReservation l).st := by
  unfold Ev.releaseReservation
  split
  · rename_i h
    rw [Ev.markFreed_st]
    refine State.setLink_engine _ _ _ rfl ⟨[], by simp⟩ fun hs => ⟨?_, fun hd => ?_⟩
    · have h1 : (e.st.link l).noticeCount + (e.st.link l).reserved ≤ Config.noticeEntries := hs.1
      have : (e.st.link l).noticeCount + ((e.st.link l).reserved - 1) ≤ Config.noticeEntries := by omega
      exact this
    · have := (hs.2 hd).2
      omega
  · exact Engine.refl _

/-- A change of the orders of waiting work or of the notices-dropped flag of a link. -/
theorem Ev.updLink_engine (e : Ev) (l : Link) (f : LinkRec → LinkRec)
    (h : ∀ r, (f r).port = r.port ∧ (f r).outbound = r.outbound ∧ (f r).reserved = r.reserved) :
    Engine e.st (e.updLink l f).st := by
  refine State.setLink_engine _ _ _ (h _).1 ⟨[], by rw [(h _).2.1]; simp⟩ fun hs => ?_
  have hup : (f (e.st.link l)).up = (e.st.link l).up := congrArg Prod.fst (h _).1
  refine ⟨?_, fun hd => ?_⟩
  · have := hs.1
    simpa [LinkRec.noticeCount, (h _).2.1, (h _).2.2] using this
  · rw [(h _).2.1, (h _).2.2]
    exact hs.2 (hup ▸ hd)

theorem Ev.offer_st (e : Ev) (ls : List Link) (n : Notice) : (e.offer ls n).st = e.st := rfl

theorem Ev.upd_st (e : Ev) (f : State → State) : (e.upd f).st = f e.st := rfl

theorem Ev.deliver_engine (e : Ev) (n : Notice) (l : Link) : Engine e.st (Ev.deliver n e l).st := by
  unfold Ev.deliver
  split
  · split
    · exact e.queueNotice_engine l n
    · exact e.updLink_engine l _ fun r => ⟨rfl, rfl, rfl⟩
  · exact Engine.refl _

theorem Engine.foldl {α : Type} (f : Ev → α → Ev) (hf : ∀ e a, Engine e.st (f e a).st) (as : List α) (e : Ev) :
    Engine e.st (as.foldl f e).st := by
  induction as generalizing e with
  | nil => exact Engine.refl _
  | cons a as ih => exact (hf e a).trans (ih (f e a))

theorem Ev.deliverOffered_engine (e : Ev) : Engine e.st e.deliverOffered :=
  Engine.foldl (fun (e : Ev) (o : Offered) => o.dests.foldl (Ev.deliver o.notice) e)
    (fun e o => Engine.foldl _ (fun e l => e.deliver_engine o.notice l) o.dests e) e.offered { e with offered := [] }

theorem Ev.queueListen_engine (e : Ev) (slot : Nat) (c : Call) (t : Option Nat) :
    Engine e.st (e.queueListen slot c t).st := by
  unfold Ev.queueListen
  split
  · exact e.queueNotice_engine _ _
  · exact Engine.refl _

/-! ## Counters and flags -/

theorem Ev.count_engine (e : Ev) (q : Nat) (n : CounterName) : Engine e.st (e.count q n).st := by
  have h : Engine e.st (e.st.setQueue q { e.st.queue q with
      stats := (e.st.queue q).stats.setCounter n ((e.st.queue q).stats.counter n).increment }) :=
    State.setQueue_engine _ _ _ rfl
  unfold Ev.count
  dsimp only
  split <;> exact h

theorem Ev.setClosed_engine (e : Ev) (q : Nat) (b : Bool) : Engine e.st (e.setClosed q b).st :=
  State.setQueue_engine e.st q { e.st.queue q with closed := b } rfl

theorem Ev.evalClosing_engine (e : Ev) (q : Nat) : Engine e.st (e.evalClosing q).st := by
  unfold Ev.evalClosing
  dsimp only
  split
  · exact e.setClosed_engine q true
  · exact Engine.refl _

theorem Ev.evalOpening_engine (e : Ev) (q : Nat) : Engine e.st (e.evalOpening q).st := by
  unfold Ev.evalOpening
  dsimp only
  split
  · exact e.setClosed_engine q false
  · exact Engine.refl _

theorem Ev.reportAgent_st (e : Ev) (slot : Nat) (old new : Agent) (cause : Cause) :
    (e.reportAgent slot old new cause).st = e.st := by
  unfold Ev.reportAgent
  split <;> rfl

/-! ## Agents -/

/-- A change of queue records that keeps their configurations. -/
structure WeightsOnly (s s' : State) : Prop where
  engine : Engine s s'
  agent : ∀ x, s'.agent x = s.agent x
  call : ∀ x, s'.call? x = s.call? x
  link : ∀ l, s'.link l = s.link l
  availableEq : s'.available = s.available
  recentEq : s'.recent = s.recent
  token : s'.token = s.token

theorem WeightsOnly.refl (s : State) : WeightsOnly s s :=
  ⟨Engine.refl s, fun _ => rfl, fun _ => rfl, fun _ => rfl, rfl, rfl, rfl⟩

theorem WeightsOnly.trans {s₁ s₂ s₃ : State} (h : WeightsOnly s₁ s₂) (k : WeightsOnly s₂ s₃) : WeightsOnly s₁ s₃ :=
  ⟨h.engine.trans k.engine, fun x => (k.agent x).trans (h.agent x), fun x => (k.call x).trans (h.call x),
    fun l => (k.link l).trans (h.link l), k.availableEq.trans h.availableEq, k.recentEq.trans h.recentEq,
    k.token.trans h.token⟩

theorem State.setQueue_weightsOnly (s : State) (q : Nat) (r : Queue) (h : r.config = (s.queue q).config) :
    WeightsOnly s (s.setQueue q r) :=
  ⟨s.setQueue_engine q r h, by simp, by simp, by simp, by simp, by simp, by simp⟩

theorem State.adjustWeights_weightsOnly (s : State) (a : Agent) (f : Nat → Nat → Nat) :
    WeightsOnly s (s.adjustWeights a f) := by
  unfold State.adjustWeights
  split
  · generalize a.skills = ks
    induction ks generalizing s with
    | nil => exact WeightsOnly.refl s
    | cons k ks ih =>
      refine WeightsOnly.trans ?_ (ih _)
      dsimp only
      split
      · exact s.setQueue_weightsOnly _ _ rfl
      · exact WeightsOnly.refl s
  · exact WeightsOnly.refl s

theorem State.reweigh_weightsOnly (s : State) (old new : Agent) : WeightsOnly s (s.reweigh old new) := by
  unfold State.reweigh
  split
  · exact WeightsOnly.refl s
  · exact (s.adjustWeights_weightsOnly old _).trans (State.adjustWeights_weightsOnly _ new _)

theorem State.updateAht_weightsOnly (s : State) (q sample : Nat) : WeightsOnly s (s.updateAht q sample) :=
  s.setQueue_weightsOnly q _ rfl

theorem mem_dropSlot {x slot : Nat} {t : List Nat} : x ∈ dropSlot slot t ↔ x ∈ t ∧ x ≠ slot := by
  simp [dropSlot]

theorem dropSlot_nodup {slot : Nat} {t : List Nat} (h : t.Nodup) : (dropSlot slot t).Nodup := h.filter _

/-- The state of a replaced agent record: the record is in place, the available list has lost the slot unless the agent is
AVAILABLE, and everything else but the staffing weights is as it was. -/
theorem Ev.putAgent_st (e : Ev) (slot : Nat) (new : Agent) (cause : Cause) :
    (e.putAgent slot new cause).st =
      (if new.state = .available then id else fun s => { s with available := dropSlot slot s.available })
        ((e.st.setAgent slot new).reweigh (e.st.agent slot) new) := by
  unfold Ev.putAgent
  simp only [Ev.reportAgent_st]
  split <;> rfl

theorem Ev.putAgent_agent (e : Ev) (slot : Nat) (new : Agent) (cause : Cause) (x : Nat) :
    (e.putAgent slot new cause).st.agent x = if slot = x then new else e.st.agent x := by
  rw [Ev.putAgent_st]
  have h := ((e.st.setAgent slot new).reweigh_weightsOnly (e.st.agent slot) new).agent x
  split
  · simpa using h
  · have : ({ (e.st.setAgent slot new).reweigh (e.st.agent slot) new with
        available := dropSlot slot ((e.st.setAgent slot new).reweigh (e.st.agent slot) new).available } : State).agent x
        = ((e.st.setAgent slot new).reweigh (e.st.agent slot) new).agent x := rfl
    simp only [this, h, State.agent_setAgent]

theorem Ev.putAgent_available (e : Ev) (slot : Nat) (new : Agent) (cause : Cause) :
    (e.putAgent slot new cause).st.available =
      if new.state = .available then e.st.available else dropSlot slot e.st.available := by
  rw [Ev.putAgent_st]
  have h := ((e.st.setAgent slot new).reweigh_weightsOnly (e.st.agent slot) new).availableEq
  split
  · simpa using h
  · simp [h]

/-- Everything that an agent's change keeps beside the agent records, the available list and the recent service list. -/
structure Apart (s s' : State) : Prop where
  settings : s'.settings = s.settings
  config : ∀ q, (s'.queue q).config = (s.queue q).config
  link : ∀ l, s'.link l = s.link l
  refs : ∀ b, s'.refs b = s.refs b
  call : ∀ x, s'.call? x = s.call? x
  token : s'.token = s.token

theorem Ev.putAgent_apart (e : Ev) (slot : Nat) (new : Agent) (cause : Cause) :
    Apart e.st (e.putAgent slot new cause).st ∧ (e.putAgent slot new cause).st.recent = e.st.recent := by
  rw [Ev.putAgent_st]
  have h := (e.st.setAgent slot new).reweigh_weightsOnly (e.st.agent slot) new
  have hrefs : ∀ b, ((e.st.setAgent slot new).reweigh (e.st.agent slot) new).refs b = e.st.refs b := by
    intro b
    unfold State.reweigh
    split
    · simp
    · have key : ∀ (s : State) (a : Agent) (f : Nat → Nat → Nat), (s.adjustWeights a f).refs b = s.refs b := by
        intro s a f
        unfold State.adjustWeights
        split
        · generalize a.skills = ks
          induction ks generalizing s with
          | nil => rfl
          | cons k ks ih =>
            rw [List.foldl_cons, ih]
            dsimp only
            split <;> simp
        · rfl
      simp [key]
  have hA : Apart e.st ((e.st.setAgent slot new).reweigh (e.st.agent slot) new) :=
    ⟨by simpa using h.engine.settings, fun q => by simpa using h.engine.config q, fun l => by simpa using h.link l, hrefs,
      fun x => by simpa using h.call x, by simpa using h.token⟩
  have hR : ((e.st.setAgent slot new).reweigh (e.st.agent slot) new).recent = e.st.recent := by simpa using h.recentEq
  split
  · exact ⟨hA, hR⟩
  · exact ⟨⟨hA.settings, hA.config, hA.link, hA.refs, hA.call, hA.token⟩, hR⟩

/-- A state that keeps everything but agents and the two lists follows by engine work when the lists stay sound. -/
theorem Apart.engine {s s' : State} (h : Apart s s') (ha : s.AvailableExact → s'.AvailableExact)
    (hr : s.RecentSound → s'.RecentSound) : Engine s s' :=
  { settings := h.settings, config := h.config, port := fun l => by rw [h.link]
    grows := fun l => ⟨[], by rw [h.link]; simp⟩
    refs := fun b _ hb => by rw [h.refs, hb]
    available := ha, recent := hr, space := fun l hl => by rw [h.link]; exact hl
    redirects := State.redirects_of_call? h.call }

/-- An agent's change to a state other than LOGGED_OUT, which is AVAILABLE only if the agent was. -/
theorem Ev.putAgent_engine (e : Ev) (slot : Nat) (new : Agent) (cause : Cause) (hout : new.state ≠ .loggedOut)
    (hin : new.state = .available → (e.st.agent slot).state = .available) :
    Engine e.st (e.putAgent slot new cause).st := by
  refine (e.putAgent_apart slot new cause).1.engine (fun h => ⟨fun x => ?_, ?_⟩) fun h => ⟨?_, ?_, fun r hr => ?_⟩
  · rw [Ev.putAgent_available, Ev.putAgent_agent]
    by_cases hx : slot = x
    · subst hx
      by_cases hs : new.state = .available
      · simp [hs, (h.1 slot).2 (hin hs)]
      · simp [hs, mem_dropSlot]
    · by_cases hs : new.state = .available
      · simp [hs, hx, h.1 x]
      · simp [hs, hx, mem_dropSlot, h.1 x, Ne.symm hx]
  · rw [Ev.putAgent_available]
    split
    · exact h.2
    · exact dropSlot_nodup h.2
  · rw [(e.putAgent_apart slot new cause).2]; exact h.1
  · rw [(e.putAgent_apart slot new cause).2]; exact h.2.1
  · rw [(e.putAgent_apart slot new cause).2] at hr
    rw [Ev.putAgent_agent]
    split
    · exact hout
    · exact h.2.2 r hr

theorem Ev.putAgentAtTail_engine (e : Ev) (slot : Nat) (new : Agent) (cause : Cause) (hout : new.state ≠ .loggedOut) :
    Engine e.st (e.putAgentAtTail slot new cause).st := by
  unfold Ev.putAgentAtTail
  dsimp only
  split
  · rename_i hs
    have hap := e.putAgent_apart slot new cause
    refine Apart.engine ⟨hap.1.settings, hap.1.config, hap.1.link, hap.1.refs, hap.1.call, hap.1.token⟩
      (fun h => ⟨fun x => ?_, ?_⟩) fun h => ⟨?_, ?_, fun r hr => ?_⟩
    · show x ∈ dropSlot slot (e.putAgent slot new cause).st.available ++ [slot] ↔
        ((e.putAgent slot new cause).st.agent x).state = .available
      rw [Ev.putAgent_available, Ev.putAgent_agent]
      by_cases hx : slot = x
      · subst hx; simp [hs]
      · simp [hs, hx, Ne.symm hx, mem_dropSlot, h.1 x]
    · show (dropSlot slot (e.putAgent slot new cause).st.available ++ [slot]).Nodup
      rw [Ev.putAgent_available, if_pos hs]
      refine List.Nodup.append (dropSlot_nodup h.2) (List.nodup_singleton _) ?_
      simp [List.disjoint_singleton, mem_dropSlot]
    · show (e.putAgent slot new cause).st.recent.length ≤ _
      rw [hap.2]; exact h.1
    · show ((e.putAgent slot new cause).st.recent.map (·.key)).Nodup
      rw [hap.2]; exact h.2.1
    · change r ∈ (e.putAgent slot new cause).st.recent at hr
      show ((e.putAgent slot new cause).st.agent r.agent).state ≠ .loggedOut
      rw [hap.2] at hr
      rw [Ev.putAgent_agent]
      split
      · exact hout
      · exact h.2.2 r hr
  · rename_i hs
    exact e.putAgent_engine slot new cause hout fun h => absurd h hs

theorem Ev.completeLogout_engine (e : Ev) (slot : Nat) (cause : Cause) :
    Engine e.st (e.completeLogout slot cause).st := by
  unfold Ev.completeLogout
  dsimp only
  generalize hd : e.upd (fun s => { s with recent := s.recent.filter fun r => r.agent != slot }) = d
  have hst : d.st = { e.st with recent := e.st.recent.filter fun r => r.agent != slot } := by rw [← hd]; rfl
  have hap := d.putAgent_apart slot (d.st.agent slot).loggedOut cause
  have hag : ∀ x, d.st.agent x = e.st.agent x := fun x => by rw [hst]; rfl
  have hs : (d.st.agent slot).loggedOut.state = .loggedOut := rfl
  refine Apart.engine ?_ (fun h => ⟨fun x => ?_, ?_⟩) fun h => ⟨?_, ?_, fun r hr => ?_⟩
  · have h0 := hap.1
    rw [hst] at h0
    exact ⟨by rw [hst]; exact h0.settings, by rw [hst]; exact h0.config, by rw [hst]; exact h0.link,
      by rw [hst]; exact h0.refs, by rw [hst]; exact h0.call, by rw [hst]; exact h0.token⟩
  · rw [Ev.putAgent_available, Ev.putAgent_agent, hag, if_neg (by simp [Agent.loggedOut])]
    have hav : d.st.available = e.st.available := by rw [hst]
    rw [hav, mem_dropSlot]
    by_cases hx : slot = x
    · subst hx; simp [Agent.loggedOut]
    · simp [hx, Ne.symm hx, h.1 x, hag]
  · rw [Ev.putAgent_available, if_neg (by simp [Agent.loggedOut])]
    have hav : d.st.available = e.st.available := by rw [hst]
    rw [hav]
    exact dropSlot_nodup h.2
  all_goals
    have hrec : (d.putAgent slot (d.st.agent slot).loggedOut cause).st.recent =
        e.st.recent.filter fun r => r.agent != slot := by rw [hap.2, hst]
  · rw [hrec]; exact (List.length_filter_le _ _).trans h.1
  · rw [hrec]; exact h.2.1.sublist (List.filter_sublist.map _)
  · rw [hrec] at hr
    rw [List.mem_filter] at hr
    have hne : slot ≠ r.agent := by intro h'; simp [h'] at hr
    rw [Ev.putAgent_agent, if_neg hne, hag]
    exact h.2.2 r hr.1

end Sys2Proof.Machine
end

