-- ==== Sys2Proof/Laws/Events.lean ====
section
/-!
SUPPORT. The operations of offers, waiting orders, treatments, playout and waiting work, each shown to be work of the engine
(Sys2Proof/Laws/Engine.lean).
-/
namespace Sys2Proof.Machine

open Sys2Proof

/-! ## Agents settled and wrapped up -/

theorem Agent.failedOffer_state (a : Agent) (now : Tick) : (a.failedOffer now).state ≠ .loggedOut := by
  unfold Agent.failedOffer
  dsimp only
  split
  · simp
  · split <;> simp [Agent.madeNotReady, Agent.madeAvailable]

theorem Ev.settleFailed_engine (e : Ev) (slot : Nat) (cause : Cause) : Engine e.st (e.settleFailed slot cause).st :=
  e.putAgentAtTail_engine slot _ cause (Agent.failedOffer_state _ _)

theorem State.mem_restoreSlot (s : State) (slot : Nat) (since : Tick) (t : List Nat) (x : Nat) :
    x ∈ s.restoreSlot slot since t ↔ x = slot ∨ x ∈ t := by
  induction t with
  | nil => simp [State.restoreSlot]
  | cons y t ih =>
    unfold State.restoreSlot
    split
    · simp
    · simp only [List.mem_cons, ih]; tauto

theorem State.restoreSlot_nodup (s : State) (slot : Nat) (since : Tick) {t : List Nat} (h : t.Nodup) (hs : slot ∉ t) :
    (s.restoreSlot slot since t).Nodup := by
  induction t with
  | nil => simp [State.restoreSlot]
  | cons y t ih =>
    unfold State.restoreSlot
    split
    · exact List.nodup_cons.2 ⟨hs, h⟩
    · rw [List.nodup_cons] at h ⊢
      simp only [List.mem_cons, not_or] at hs
      refine ⟨?_, ih h.2 hs.2⟩
      rw [State.mem_restoreSlot]
      exact fun h' => h'.elim (fun h' => hs.1 h'.symm) h.1

theorem Ev.settleWithdrawn_engine (e : Ev) (slot : Nat) (cause : Cause) :
    Engine e.st (e.settleWithdrawn slot cause).st := by
  unfold Ev.settleWithdrawn
  dsimp only
  split
  · exact e.putAgent_engine slot _ cause (by simp [Agent.madeNotReady]) (by simp [Agent.madeNotReady])
  all_goals
    generalize hn : ({ e.st.agent slot with state := .available, pending := .none } : Agent) = new
    have hs : new.state = .available := by rw [← hn]
    have hap := e.putAgent_apart slot new cause
    refine Apart.engine ⟨hap.1.settings, hap.1.config, hap.1.link, hap.1.refs, hap.1.call, hap.1.token⟩
      (fun h => ⟨fun x => ?_, ?_⟩) fun h => ⟨?_, ?_, fun r hr => ?_⟩
    · show x ∈ State.restoreSlot _ slot _ (dropSlot slot (e.putAgent slot new cause).st.available) ↔
        ((e.putAgent slot new cause).st.agent x).state = .available
      rw [State.mem_restoreSlot, mem_dropSlot, Ev.putAgent_available, Ev.putAgent_agent, if_pos hs]
      by_cases hx : slot = x
      · subst hx; simp [hs]
      · simp [hx, Ne.symm hx, h.1 x]
    · show (State.restoreSlot _ slot _ (dropSlot slot (e.putAgent slot new cause).st.available)).Nodup
      rw [Ev.putAgent_available, if_pos hs]
      exact State.restoreSlot_nodup _ _ _ (dropSlot_nodup h.2) (by simp [mem_dropSlot])
    · show (e.putAgent slot new cause).st.recent.length ≤ _
      rw [hap.2]; exact h.1
    · show ((e.putAgent slot new cause).st.recent.map (·.key)).Nodup
      rw [hap.2]; exact h.2.1
    · change r ∈ (e.putAgent slot new cause).st.recent at hr
      show ((e.putAgent slot new cause).st.agent r.agent).state ≠ .loggedOut
      rw [hap.2] at hr
      rw [Ev.putAgent_agent]
      split
      · rw [hs]; simp
      · exact h.2.2 r hr

theorem Ev.leave_engine (e : Ev) (slot : Nat) (cause : Cause) : Engine e.st (e.leave slot cause).st := by
  unfold Ev.leave
  dsimp only
  split
  · exact e.completeLogout_engine slot cause
  · exact e.putAgent_engine slot _ cause (by simp [Agent.madeNotReady]) (by simp [Agent.madeNotReady])
  · exact e.putAgentAtTail_engine slot _ cause (by simp [Agent.madeAvailable])

theorem State.updateAht_engine (s : State) (q sample : Nat) : Engine s (s.updateAht q sample) :=
  (s.updateAht_weightsOnly q sample).engine

theorem Ev.startWrap_engine (e : Ev) (slot q : Nat) (t : Tick) (cause : Cause) :
    Engine e.st (e.startWrap slot q t cause).st := by
  unfold Ev.startWrap
  dsimp only
  split
  · refine Engine.trans ?_ (Ev.leave_engine _ slot cause)
    refine Engine.trans ?_ (State.updateAht_engine _ _ _)
    exact e.st.setAgent_engine slot _ (by rfl)
  · exact e.putAgent_engine slot _ cause (by simp) (by simp)

theorem Ev.endWrap_engine (e : Ev) (slot : Nat) (w : WrapRecord) (cause : Cause) :
    Engine e.st (e.endWrap slot w cause).st := by
  unfold Ev.endWrap
  dsimp only
  refine Engine.trans ?_ (Ev.leave_engine _ slot cause)
  refine Engine.trans ?_ (State.updateAht_engine _ _ _)
  exact e.st.setAgent_engine slot _ (by rfl)

/-! ## Channels and deferral lists -/

theorem State.drainChannel_engine (s : State) (h : Highway) (t : Nat) : Engine s (s.drainChannel h t) :=
  (s.updUseCounts_engine _ _).trans (State.setChannel_engine _ _ _ _)

theorem State.leaveDeferral_engine (s : State) (h : Highway) (slot : Nat) : Engine s (s.leaveDeferral h slot) :=
  s.setHighway_engine h _

theorem State.joinDeferral_engine (s : State) (h : Highway) (slot : Nat) : Engine s (s.joinDeferral h slot) :=
  s.setHighway_engine h _

theorem State.stopAudio_engine (s : State) (slot : Nat) (c : Call) : Engine s (s.stopAudio slot c) := by
  unfold State.stopAudio
  split
  · exact Engine.refl s
  · dsimp only
    split
    · exact Engine.after (State.drainChannel_engine _ _ _) (s.leaveDeferral_engine _ slot)
    · exact s.leaveDeferral_engine _ slot

theorem Ev.bindChannel_engine (e : Ev) (h : Highway) (t slot : Nat) (c : Call) (phrase : List Nat) :
    Engine e.st (e.bindChannel h t slot c phrase).st := by
  unfold Ev.bindChannel
  dsimp only
  refine Engine.trans ?_ (State.updTreatment_engine _ _ _)
  refine Engine.trans ?_ (Ev.queueListen_engine _ _ _ _)
  exact Engine.after (State.setChannel_engine _ _ _ _) (e.st.updUseCounts_engine _ _)

/-! ## Waiting orders -/

theorem State.reinsert_engine (s : State) (slot : Nat) (c : Call) : Engine s (s.reinsert slot c) :=
  s.setQueue_engine _ _ (by rfl)

theorem Ev.joinOrder_engine (e : Ev) (slot : Nat) (c : Call) : Engine e.st (e.joinOrder slot c).st := by
  unfold Ev.joinOrder
  dsimp only
  refine Engine.trans ?_ (Ev.evalClosing_engine _ _)
  exact State.setQueue_engine e.st c.queue _ (by rfl)

theorem State.stopTreatment_engine (s : State) (slot : Nat) : Engine s (s.stopTreatment slot) := by
  unfold State.stopTreatment
  split
  · exact Engine.refl s
  · rename_i c hc
    split
    · exact Engine.refl s
    · rename_i t ht
      dsimp only
      have h1 : Engine s ((s.updRefs t.bank (· - 1)).stopAudio slot c) :=
        (s.updRefs_engine _ _ (Or.inl rfl)).trans (State.stopAudio_engine _ _ _)
      refine Engine.trans h1 (Engine.trans ?_ (State.setCall_engine _ _ _ ?_))
      · exact State.setLink_engine _ _ _ (by rfl) ⟨[], by simp⟩ (fun h => h)
      · intro h
        have hcall : (((s.updRefs t.bank (· - 1)).stopAudio slot c).call? slot) = some c := by
          unfold State.stopAudio
          split
          · simpa using hc
          · dsimp only
            split <;> simp [State.drainChannel, State.leaveDeferral, hc]
        have h' := h slot c (by simpa using hcall)
        exact h'

theorem Ev.leaveOrder_engine (e : Ev) (slot : Nat) (c : Call) : Engine e.st (e.leaveOrder slot c).st := by
  unfold Ev.leaveOrder
  dsimp only
  refine Engine.trans ?_ (Ev.evalOpening_engine _ _)
  refine (e.st.stopTreatment_engine slot).trans ?_
  refine Engine.trans ?_ (State.setQueue_engine _ _ _ (by rfl))
  exact State.updCall_engine _ slot _ fun _ => by rfl

theorem Ev.removeCall_engine (e : Ev) (slot : Nat) (c : Call) (n : CounterName) :
    Engine e.st (e.removeCall slot c n).st := by
  unfold Ev.removeCall
  dsimp only
  refine Engine.trans ?_ (State.freeCall_engine _ _)
  refine Engine.trans ?_ (Ev.updLink_engine _ _ _ fun r => ⟨rfl, rfl, rfl⟩)
  exact Engine.after (Ev.count_engine _ _ _) (e.leaveOrder_engine slot c)

theorem Ev.exitCall_engine (e : Ev) (slot : Nat) (c : Call) (reason : Nat) :
    Engine e.st (e.exitCall slot c reason).st := by
  unfold Ev.exitCall
  split
  · exact Engine.after (Ev.removeCall_engine _ _ _ _) (e.queueNotice_engine _ _)
  · dsimp only
    refine Engine.trans ?_ (Ev.updLink_engine _ _ _ fun r => ⟨rfl, rfl, rfl⟩)
    exact Engine.after (State.updCall_engine _ slot _ (fun _ => by rfl)) (e.st.stopTreatment_engine slot)

theorem Ev.chargeRedirect_engine (e : Ev) (slot : Nat) : Engine e.st (e.chargeRedirect slot).st := by
  unfold Ev.chargeRedirect
  split
  · exact Engine.refl _
  · split
    · rename_i hlt
      exact State.setCall_engine _ _ _ fun _ => hlt
    · exact Ev.exitCall_engine _ _ _ _

theorem State.promote_engine (s : State) (slot : Nat) (c : Call) (d : Tick)
    (hc : s.RedirectsBounded → c.redirects ≤ 7) : Engine s (s.promote slot c d) := by
  unfold State.promote
  dsimp only
  refine Engine.trans ?_ (State.reinsert_engine _ _ _)
  exact s.setCall_engine slot _ hc

theorem State.raiseCall_engine (s : State) (slot : Nat) (c : Call) (n : Nat)
    (hc : s.RedirectsBounded → c.redirects ≤ 7) : Engine s (s.raiseCall slot c n) := by
  unfold State.raiseCall
  split
  · exact Engine.refl s
  · dsimp only
    refine Engine.trans ?_ (State.reinsert_engine _ _ _)
    exact s.setCall_engine slot _ hc

theorem Ev.countPassed_engine (e : Ev) (qs : List Nat) : Engine e.st (e.countPassed qs).st :=
  Engine.foldl _ (fun e q => e.count_engine q _) qs e

theorem State.arrivalChain_redirects (s : State) (fuel q count : Nat) (passed : List Nat) (last : Option Placement)
    (hcount : count ≤ 7) (hlast : ∀ p, last = some p → p.redirects ≤ 7) (p : Placement)
    (h : s.arrivalChain fuel q count passed last = .placed p) : p.redirects ≤ 7 := by
  induction fuel generalizing q count passed last with
  | zero => simp [State.arrivalChain] at h
  | succ fuel ih =>
    unfold State.arrivalChain at h
    dsimp only at h
    have key : ∀ last' : Option Placement, (∀ p, last' = some p → p.redirects ≤ 7) →
        (match s.divertTarget q with
          | none => (match last' with | some p => ArrivalChain.placed p | none => .queueClosed)
          | some t => if Config.maxRedirects < count + 1 then .redirectLimit
            else s.arrivalChain fuel t (count + 1) (passed ++ [q]) last') = .placed p → p.redirects ≤ 7 := by
      intro last' hl hh
      split at hh
      · split at hh
        · injection hh with hh; subst hh; exact hl _ rfl
        · cases hh
      · split at hh
        · cases hh
        · rename_i hlim
          exact ih _ _ _ _ (by have : Config.maxRedirects = 7 := rfl; omega) hl hh
    split at h
    · injection h with h; subst h; exact hcount
    · exact key (some ⟨q, count, passed⟩) (fun p hp => by injection hp with hp; subst hp; exact hcount) h
    · exact key last hlast h

theorem State.moveChainFrom_redirects (s : State) (own fuel q count : Nat) (passed : List Nat) (hcount : count ≤ 7)
    (p : Placement) (h : s.moveChainFrom own fuel q count passed = .moves p) : p.redirects ≤ 7 := by
  induction fuel generalizing q count passed with
  | zero => simp [State.moveChainFrom] at h
  | succ fuel ih =>
    unfold State.moveChainFrom at h
    split at h
    · injection h with h; subst h; exact hcount
    · split at h
      · cases h
      · split at h
        · cases h
        · rename_i hlim
          split at h
          · cases h
          · exact ih _ _ _ (by have : Config.maxRedirects = 7 := rfl; omega) h

theorem State.moveChain_redirects (s : State) (c : Call) (q : Nat) (p : Placement) (h : s.moveChain c q = .moves p) :
    p.redirects ≤ 7 := by
  unfold State.moveChain at h
  split at h
  · cases h
  · split at h
    · cases h
    · rename_i hlim
      exact s.moveChainFrom_redirects _ _ _ _ _ (by have : Config.maxRedirects = 7 := rfl; omega) p h

/-! ## Offers -/

theorem Ev.makeOffer_engine (e : Ev) (slot : Nat) (c : Call) (x : Nat) (hc : e.st.RedirectsBounded → c.redirects ≤ 7) :
    Engine e.st (e.makeOffer slot c x).st := by
  unfold Ev.makeOffer
  dsimp only
  have h0 : Engine e.st (e.upd fun s => { s with token := nextToken e.st.token }).st :=
    Engine.of_frame rfl (fun _ => rfl) (fun l => by cases l <;> rfl) (fun b => by cases b <;> rfl) rfl (fun _ => rfl) rfl
      fun h => h
  have hcall0 : ∀ y, (e.upd fun s => { s with token := nextToken e.st.token }).st.call? y = e.st.call? y := fun _ => rfl
  generalize (e.upd fun s => { s with token := nextToken e.st.token }) = e0 at h0 hcall0 ⊢
  generalize hn : ({ e.st.agent x with
    state := .reserved
    offer := some { token := nextToken e.st.token, call := slot }
    lastToken := nextToken e.st.token
    lastOutcome := none } : Agent) = new
  have h1 := h0.trans (e0.putAgent_engine x new .offer (by simp [← hn]) (by simp [← hn]))
  have hcall1 : ∀ y, (e0.putAgent x new .offer).st.call? y = e.st.call? y := fun y =>
    ((e0.putAgent_apart x new .offer).1.call y).trans (hcall0 y)
  generalize e0.putAgent x new .offer = e1 at h1 hcall1 ⊢
  have h2 : ∀ o, Engine e.st (e1.st.setCall slot { c with state := .offering, offer := o }) := fun o =>
    h1.trans (e1.st.setCall_engine slot _ fun hb => hc fun y d hd => hb y d ((hcall1 y).trans hd))
  split
  · exact h2 _
  · refine Engine.trans ?_ (Ev.reserve_engine _ _)
    refine Engine.trans ?_ (Ev.reserve_engine _ _)
    refine Engine.trans ?_ (Ev.queueNotice_engine _ _ _)
    exact h2 _

theorem State.pairIn_call (s : State) (q : Nat) (order : List Nat) {slot : Nat} {c : Call} {x : Nat}
    (h : s.pairIn q order = some (slot, c, x)) :
    s.call? slot = some c ∧ s.candidate c = true ∧ s.agentFor q c = some x := by
  induction order with
  | nil => simp [State.pairIn] at h
  | cons y t ih =>
    unfold State.pairIn at h
    split at h
    · exact ih h
    · rename_i d hd
      split at h
      · split at h
        · rename_i hcand _ x' hx'
          injection h with h
          injection h with h1 h2
          injection h2 with h2 h3
          subst h1 h2 h3
          exact ⟨hd, hcand, hx'⟩
        · exact ih h
      · exact ih h

theorem State.callFor_call (s : State) (a : Agent) (order : List Nat) {slot : Nat} {c : Call}
    (h : s.callFor a order = some (slot, c)) :
    s.call? slot = some c ∧ s.candidate c = true ∧ s.pairable c a = true := by
  induction order with
  | nil => simp [State.callFor] at h
  | cons y t ih =>
    unfold State.callFor at h
    split at h
    · exact ih h
    · rename_i d hd
      split at h
      · rename_i hcand
        injection h with h
        injection h with h1 h2
        subst h1 h2
        simp only [Bool.and_eq_true] at hcand
        exact ⟨hd, hcand⟩
      · exact ih h

theorem State.bestCall_call (s : State) (a : Agent) {slot : Nat} {c : Call} (h : s.bestCall a = some (slot, c)) :
    s.call? slot = some c ∧ s.candidate c = true ∧ s.pairable c a = true := by
  unfold State.bestCall at h
  generalize List.range Config.queueCount = qs at h
  have key : ∀ (qs : List Nat) (best : Option (Nat × Call)),
      (∀ slot c, best = some (slot, c) → s.call? slot = some c ∧ s.candidate c = true ∧ s.pairable c a = true) →
      ∀ slot c, qs.foldl (fun best q =>
        if s.qualified a q then
          match s.callFor a (s.queue q).order, best with
          | some found, some kept => if found.2.preferred kept.2 then some found else best
          | some found, none => some found
          | none, _ => best
        else best) best = some (slot, c) → s.call? slot = some c ∧ s.candidate c = true ∧ s.pairable c a = true := by
    intro qs
    induction qs with
    | nil => intro best hb slot c h; exact hb slot c h
    | cons q qs ih =>
      intro best hb slot c h
      rw [List.foldl_cons] at h
      refine ih _ ?_ slot c h
      intro slot' c' h'
      split at h'
      · split at h'
        · rename_i found kept hf
          split at h'
          · injection h' with h'
            subst h'
            exact s.callFor_call a _ hf
          · exact hb slot' c' h'
        · rename_i found hf
          injection h' with h'
          subst h'
          exact s.callFor_call a _ hf
        · exact hb slot' c' h'
      · exact hb slot' c' h'
  exact key qs none (by simp) slot c h

theorem Ev.attemptLoop_engine (q fuel : Nat) (e : Ev) : Engine e.st (Ev.attemptLoop q fuel e).st := by
  induction fuel generalizing e with
  | zero => exact Engine.refl _
  | succ fuel ih =>
    unfold Ev.attemptLoop
    split
    · rename_i slot c x h
      exact Engine.after (ih _) (e.makeOffer_engine slot c x fun hb => hb slot c (e.st.pairIn_call q _ h).1)
    · exact Engine.refl _

theorem Ev.queueAttempts_engine (e : Ev) (q : Nat) : Engine e.st (e.queueAttempts q).st := Ev.attemptLoop_engine q _ e

theorem Ev.agentAttempt_engine (e : Ev) (x : Nat) : Engine e.st (e.agentAttempt x).st := by
  unfold Ev.agentAttempt
  dsimp only
  split
  · split
    · rename_i slot c h
      exact e.makeOffer_engine slot c x fun hb => hb slot c (e.st.bestCall_call _ h).1
    · exact Engine.refl _
  · exact Engine.refl _

theorem Ev.affinityOffer_engine (e : Ev) (slot q : Nat) : Engine e.st (e.affinityOffer slot q).st := by
  unfold Ev.affinityOffer
  split
  · exact Engine.refl _
  · rename_i c hc
    split
    · split
      · exact e.makeOffer_engine slot c _ fun hb => hb slot c hc
      · exact Engine.refl _
    · exact Engine.refl _

theorem State.endOffer_engine (s : State) (slot x : Nat) (o : OfferOutcome) : Engine s (s.endOffer slot x o) := by
  unfold State.endOffer
  exact Engine.after (State.setAgent_engine _ _ _ (by rfl)) (s.updCall_engine slot _ (fun _ => by rfl))

theorem Ev.cancelOffer_engine (e : Ev) (o : CallOffer) (slot : Nat) (cause : CancelCause) :
    Engine e.st (e.cancelOffer o slot cause).st := by
  unfold Ev.cancelOffer
  split
  · exact e.useReservation_engine _ _
  · exact Engine.refl _

theorem Ev.releaseHome_engine (e : Ev) (x : Nat) : Engine e.st (e.releaseHome x).st := by
  unfold Ev.releaseHome
  split
  · exact e.releaseReservation_engine _
  · exact Engine.refl _

theorem Ev.withdrawFromCall_engine (e : Ev) (slot : Nat) (c : Call) (o : CallOffer) (cause : Cause) :
    Engine e.st (e.withdrawFromCall slot c o cause).st := by
  unfold Ev.withdrawFromCall
  dsimp only
  refine Engine.trans ?_ (Ev.settleWithdrawn_engine _ _ _)
  refine Engine.trans ?_ (Ev.releaseReservation_engine _ _)
  exact Engine.after (Ev.cancelOffer_engine _ _ _ _) (e.st.endOffer_engine slot _ _)

theorem Ev.withdrawFromAgent_engine (e : Ev) (slot : Nat) (c : Call) (o : CallOffer) :
    Engine e.st (e.withdrawFromAgent slot c o).st := by
  unfold Ev.withdrawFromAgent
  dsimp only
  refine Engine.trans ?_ (Ev.releaseReservation_engine _ _)
  exact Engine.after (Ev.cancelOffer_engine _ _ _ _) (e.st.endOffer_engine slot _ _)

/-! ## Treatments -/

theorem Ev.changeSource_engine (e : Ev) (slot : Nat) (c : Call) (source : Source) :
    Engine e.st (e.changeSource slot c source).1.st := by
  unfold Ev.changeSource
  split
  · exact Engine.after (State.updTreatment_engine _ _ _) (e.queueListen_engine _ _ _)
  · dsimp only
    exact Engine.after (Ev.updLink_engine _ _ _ fun r => ⟨rfl, rfl, rfl⟩) (e.st.updTreatment_engine slot _)

theorem Ev.startTreatment_engine (e : Ev) (slot : Nat) (c : Call) (source : Source) (p : Option Nat)
    (hc : e.st.RedirectsBounded → c.redirects ≤ 7) : Engine e.st (e.startTreatment slot c source p).1.st := by
  unfold Ev.startTreatment
  dsimp only
  have h : ∀ t, Engine e.st ((e.st.setCall slot { c with treatment := t }).updRefs e.st.activeBank (· + 1)) := fun t =>
    Engine.after (State.updRefs_engine _ _ _ (Or.inr (by simp))) (e.st.setCall_engine slot _ hc)
  split
  · exact Engine.after (Ev.changeSource_engine _ _ _ _) (h _)
  all_goals exact h _

theorem Ev.moveCall_engine (e : Ev) (slot : Nat) (c : Call) (t : Treatment) (p : Placement) (hp : p.redirects ≤ 7) :
    Engine e.st (e.moveCall slot c t p).1.st := by
  unfold Ev.moveCall
  dsimp only
  refine Engine.trans ?_ (Ev.startTreatment_engine _ _ _ _ _ fun _ => hp)
  refine Engine.trans ?_ (Ev.count_engine _ _ _)
  refine Engine.trans ?_ (Ev.countPassed_engine _ _)
  refine Engine.trans ?_ (Ev.count_engine _ _ _)
  refine Engine.trans ?_ (Ev.joinOrder_engine _ _ _)
  exact Engine.after (State.setCall_engine _ _ _ fun _ => hp) (e.leaveOrder_engine slot c)

/-- The event at the end of a step. -/
def StepEnd.ev : StepEnd → Ev
  | .waits e => e
  | .goesOn _ e => e
  | .moved _ _ e => e

theorem Ev.finishTreatment_engine (e : Ev) (slot : Nat) : Engine e.st (e.finishTreatment slot).st :=
  e.st.updTreatment_engine slot _

theorem Ev.advanceStep_engine (e : Ev) (slot : Nat) : Engine e.st (e.advanceStep slot).st :=
  e.st.updTreatment_engine slot _

theorem Ev.holdStep_engine (e : Ev) (slot : Nat) : Engine e.st (e.holdStep slot).st := e.st.updTreatment_engine slot _

theorem timeless_engine (count slot : Nat) (e done : Ev) (h : Engine e.st done.st) :
    Engine e.st (timeless count slot e done).ev.st := by
  unfold timeless
  split
  · exact h
  · exact e.finishTreatment_engine slot

theorem Ev.sourceStep_engine (e : Ev) (slot : Nat) (c : Call) (t : Treatment) (p : Option Nat) (source : Source)
    (d : Nat) : Engine e.st (e.sourceStep slot c t p source d).st := by
  unfold Ev.sourceStep
  dsimp only
  have h1 := e.st.updTreatment_engine slot fun t => { t with lastProgramme := p }
  split
  · split
    · exact Engine.after (State.updTreatment_engine _ _ _) (h1)
    · exact h1
  · split
    · exact Engine.after (State.updTreatment_engine _ _ _) (Engine.after (Ev.changeSource_engine _ _ _ _) (h1))
    · exact Engine.after (Ev.changeSource_engine _ _ _ _) (h1)

theorem Ev.runOff_engine (e : Ev) (slot : Nat) (c : Call) (t : Treatment) (n : Nat) :
    Engine e.st (e.runOff slot c t n).st := by
  unfold Ev.runOff
  split
  · dsimp only
    split
    · exact Engine.after (Ev.finishTreatment_engine _ _) (e.changeSource_engine _ _ _)
    · exact e.changeSource_engine _ _ _
  · exact Engine.after (Ev.finishTreatment_engine _ _) (e.st.updTreatment_engine slot _)

theorem Ev.requestChannel_engine (e : Ev) (count slot : Nat) (c : Call) (phrase : List Nat) :
    Engine e.st (e.requestChannel count slot c phrase).ev.st := by
  unfold Ev.requestChannel
  split
  · exact Engine.refl _
  · dsimp only
    split
    · exact e.bindChannel_engine _ _ _ _ _
    · split
      · exact Engine.after (Ev.advanceStep_engine _ _) (e.count_engine _ _)
      · exact Engine.after (State.updTreatment_engine _ _ _) (e.st.joinDeferral_engine _ slot)

theorem Ev.runStep_engine (e : Ev) (count slot : Nat) (c : Call) (t : Treatment) (hc : e.st.call? slot = some c) :
    Engine e.st (e.runStep count slot c t).ev.st := by
  unfold Ev.runStep
  dsimp only
  split
  · exact e.runOff_engine _ _ _ _
  · split
    · exact e.sourceStep_engine _ _ _ _ _ _
    · exact e.sourceStep_engine _ _ _ _ _ _
    iterate 3
      split
      · exact timeless_engine _ _ _ _ (e.advanceStep_engine slot)
      · exact e.requestChannel_engine _ _ _ _
    · exact timeless_engine _ _ _ _ (e.st.updTreatment_engine slot _)
    · exact timeless_engine _ _ _ _
        (Engine.after (Ev.advanceStep_engine _ slot) (e.st.raiseCall_engine slot c _ fun hb => hb slot c hc))
    · split
      · exact e.holdStep_engine slot
      · split
        · exact timeless_engine _ _ _ _ (e.advanceStep_engine slot)
        · exact e.exitCall_engine _ _ _
        · rename_i p hp
          exact e.moveCall_engine slot c t p (e.st.moveChain_redirects c _ p hp)
    · split
      · exact e.holdStep_engine slot
      · exact e.exitCall_engine _ _ _

theorem Ev.runSteps_engine (fuel count slot : Nat) (e : Ev) : Engine e.st (Ev.runSteps fuel count slot e).st := by
  induction fuel generalizing count e with
  | zero => exact Engine.refl _
  | succ fuel ih =>
    unfold Ev.runSteps
    split
    · exact Engine.refl _
    · rename_i c hc
      split
      · exact Engine.refl _
      · rename_i t ht
        have h := e.runStep_engine count slot c t hc
        split
        · rename_i e' he; rw [he] at h; exact h
        · rename_i n e' he; rw [he] at h; exact h.trans (ih _ _)
        · rename_i q runs e' he
          rw [he] at h
          refine Engine.trans ?_ (Ev.queueAttempts_engine _ _)
          split
          · exact Engine.after (ih _ _) (h)
          · exact h

theorem Ev.treatmentEvent_engine (e : Ev) (slot : Nat) : Engine e.st (e.treatmentEvent slot).st :=
  Ev.runSteps_engine _ _ _ e

theorem Ev.completePhrase_engine (e : Ev) (slot : Nat) : Engine e.st (e.completePhrase slot).st :=
  (e.advanceStep_engine slot).trans (Ev.treatmentEvent_engine _ _)

theorem Ev.runHeldStep_engine (e : Ev) (slot : Nat) : Engine e.st (e.runHeldStep slot).st := by
  unfold Ev.runHeldStep
  split
  · exact Engine.refl _
  · split
    · split
      · exact e.treatmentEvent_engine slot
      · exact Engine.refl _
    · exact Engine.refl _

theorem Ev.queueReturn_engine (e : Ev) (slot : Nat) (c : Call) (t : Treatment) (h : Highway) (ts : Nat) :
    Engine e.st (e.queueReturn slot c t h ts).st := by
  unfold Ev.queueReturn
  dsimp only
  refine Engine.trans ?_ (Ev.completePhrase_engine _ _)
  refine Engine.trans ?_ (State.updTreatment_engine _ _ _)
  exact Engine.after (State.drainChannel_engine _ _ _) (e.queueListen_engine _ _ _)

theorem Ev.endPhrase_engine (e : Ev) (h : Highway) (ts slot : Nat) (c : Call) (t : Treatment) :
    Engine e.st (e.endPhrase h ts slot c t).st := by
  unfold Ev.endPhrase
  dsimp only
  have h1 : ∀ gs f ch, Engine e.st ((e.st.updUseCounts gs f).setChannel h ts ch) := fun gs f ch =>
    (e.st.updUseCounts_engine _ _).trans (State.setChannel_engine _ _ _ _)
  split
  · exact Engine.after (Ev.queueReturn_engine _ _ _ _ _ _) (h1 _ _ _)
  · refine Engine.trans ?_ (Ev.updLink_engine _ _ _ fun r => ⟨rfl, rfl, rfl⟩)
    exact Engine.after (State.updTreatment_engine _ _ _) (h1 _ _ _)

theorem Ev.grantHead_engine (e : Ev) (h : Highway) (e' : Ev) (he : e.grantHead h = some e') : Engine e.st e'.st := by
  unfold Ev.grantHead at he
  split at he
  · split at he
    · dsimp only at he
      have h1 := fun slot => e.st.leaveDeferral_engine h slot
      split at he
      · injection he with he; subst he; exact h1 _
      · split at he
        · injection he with he; subst he; exact h1 _
        · split at he
          all_goals
            split at he
            · injection he with he; subst he; exact Engine.after (Ev.completePhrase_engine _ _) (h1 _)
            · injection he with he; subst he; exact Engine.after (Ev.bindChannel_engine _ _ _ _ _ _) (h1 _)
    · cases he
  · cases he

theorem Ev.grantLoop_engine (h : Highway) (fuel : Nat) (e : Ev) : Engine e.st (Ev.grantLoop h fuel e).st := by
  induction fuel generalizing e with
  | zero => exact Engine.refl _
  | succ fuel ih =>
    unfold Ev.grantLoop
    split
    · rename_i e' he; exact (e.grantHead_engine h e' he).trans (ih _)
    · exact Engine.refl _

theorem Ev.grants_engine (e : Ev) (h : Highway) : Engine e.st (e.grants h).st := Ev.grantLoop_engine h _ e

/-! ## Waiting work and the end of an event -/

theorem Ev.completeExit_engine (e : Ev) (l : Link) (slot : Nat) : Engine e.st (e.completeExit l slot).st := by
  unfold Ev.completeExit
  dsimp only
  have h1 := e.updLink_engine l (fun r => { r with exitOrder := r.exitOrder.filter (· != slot) }) fun r => ⟨rfl, rfl, rfl⟩
  split
  · exact h1
  · split
    · exact h1
    · exact Engine.after (Ev.removeCall_engine _ _ _ _) (Engine.after (Ev.queueNotice_engine _ _ _) (h1))

theorem Ev.exitStage_engine (l : Link) (fuel : Nat) (e : Ev) : Engine e.st (Ev.exitStage l fuel e).st := by
  induction fuel generalizing e with
  | zero => exact Engine.refl _
  | succ fuel ih =>
    unfold Ev.exitStage
    split
    · exact Engine.refl _
    · split
      · exact Engine.after (ih _) (e.completeExit_engine l _)
      · exact Engine.refl _

theorem Ev.queueHeldListen_engine (e : Ev) (slot : Nat) (c : Call) (t : Treatment) :
    Engine e.st (e.queueHeldListen slot c t).st := by
  unfold Ev.queueHeldListen
  split
  · exact Engine.after (Ev.treatmentEvent_engine _ _) (e.changeSource_engine _ _ _)
  · exact e.queueReturn_engine _ _ _ _ _
  · exact Engine.refl _

theorem Ev.takeHeldListen_engine (e : Ev) (l : Link) (slot : Nat) : Engine e.st (e.takeHeldListen l slot).st := by
  unfold Ev.takeHeldListen
  dsimp only
  have h1 := e.updLink_engine l (fun r => { r with listenOrder := r.listenOrder.filter (· != slot) })
    fun r => ⟨rfl, rfl, rfl⟩
  split
  · exact h1
  · split
    · exact h1
    · exact Engine.after (Ev.queueHeldListen_engine _ _ _ _) (h1)

theorem Ev.listenStage_engine (l : Link) (fuel : Nat) (e : Ev) : Engine e.st (Ev.listenStage l fuel e).st := by
  induction fuel generalizing e with
  | zero => exact Engine.refl _
  | succ fuel ih =>
    unfold Ev.listenStage
    split
    · exact Engine.refl _
    · split
      · exact Engine.after (ih _) (e.takeHeldListen_engine l _)
      · exact Engine.refl _

theorem Ev.attemptStage_engine (e : Ev) (l : Link) : Engine e.st (e.attemptStage l).st :=
  Engine.foldl _ (fun e q => by
    split
    · exact e.queueAttempts_engine q
    · exact Engine.refl _) _ e

theorem Ev.resumeWork_engine (e : Ev) (l : Link) : Engine e.st (e.resumeWork l).st := by
  unfold Ev.resumeWork
  split
  · exact Engine.refl _
  · dsimp only
    refine Engine.trans ?_ (Ev.attemptStage_engine _ _)
    refine Engine.trans ?_ (Ev.grants_engine _ _)
    refine Engine.trans ?_ (Ev.listenStage_engine _ _ _)
    exact Ev.exitStage_engine _ _ _

/-- The end of an event is work of the engine. -/
theorem Ev.finish_engine (e : Ev) : Engine e.st e.finish := by
  unfold Ev.finish
  dsimp only
  have h1 : Engine e.st (if e.freedA then e.resumeWork .a else e).st := by
    split
    · exact e.resumeWork_engine .a
    · exact Engine.refl _
  refine h1.trans ?_
  generalize (if e.freedA then e.resumeWork .a else e) = d
  split
  · exact Engine.after (Ev.deliverOffered_engine _) (d.resumeWork_engine .b)
  · exact d.deliverOffered_engine

theorem Ev.afterOffer_engine (e : Ev) (slot q x : Nat) : Engine e.st (e.afterOffer slot q x).st :=
  ((e.runHeldStep_engine slot).trans (Ev.queueAttempts_engine _ _)).trans (Ev.agentAttempt_engine _ _)

theorem Ev.logoutNow_engine (e : Ev) (slot : Nat) (cause : Cause) : Engine e.st (e.logoutNow slot cause).st := by
  unfold Ev.logoutNow
  dsimp only
  have h1 : Engine e.st (e.upd fun s => match (e.st.agent slot).call with
      | some c => s.updCall c fun r => { r with agent := none }
      | none => s).st := by
    rw [Ev.upd_st]
    split
    · exact e.st.updCall_engine _ _ (fun _ => by rfl)
    · exact Engine.refl _
  split
  · exact Engine.after (Ev.completeLogout_engine _ _ _) (h1)
  · split
    · split
      · refine h1.trans ?_
        exact Engine.after (Ev.afterOffer_engine _ _ _ _) (Engine.after (Ev.completeLogout_engine _ _ _) (Ev.withdrawFromAgent_engine _ _ _ _))
      · exact Engine.after (Ev.completeLogout_engine _ _ _) (h1)
    · exact Engine.after (Ev.completeLogout_engine _ _ _) (h1)

theorem Ev.loseCall_engine (l : Link) (e : Ev) (slot : Nat) : Engine e.st (Ev.loseCall l e slot).st := by
  unfold Ev.loseCall
  split
  · exact Engine.refl _
  · split
    · exact e.removeCall_engine _ _ _
    · dsimp only
      refine Engine.trans ?_ (Ev.removeCall_engine _ _ _ _)
      split
      · exact Engine.refl _
      · split
        · exact e.st.endOffer_engine _ _ _
        · exact e.withdrawFromCall_engine _ _ _ _
    · dsimp only
      have h1 := e.st.freeCall_engine slot
      split
      · split
        · exact h1
        · exact Engine.after (Ev.startWrap_engine _ _ _ _ _) (h1)
      · exact h1

theorem Ev.loseAgent_engine (e : Ev) (slot : Nat) : Engine e.st (e.loseAgent slot).st := by
  unfold Ev.loseAgent
  dsimp only
  have h1 : Engine e.st (e.upd fun s => match (e.st.agent slot).call with
      | some c => s.updCall c fun r => { r with agent := none }
      | none => s).st := by
    rw [Ev.upd_st]
    split
    · exact e.st.updCall_engine _ _ (fun _ => by rfl)
    · exact Engine.refl _
  refine Engine.trans ?_ (Ev.completeLogout_engine _ _ _)
  split
  · exact h1
  · split
    · exact h1
    · exact Engine.after (Ev.releaseReservation_engine _ _) (Engine.after (State.endOffer_engine _ _ _ _) (h1))

theorem State.drainHighway_engine (s : State) (h : Highway) : Engine s (s.drainHighway h) := by
  unfold State.drainHighway
  dsimp only
  refine (s.setHighway_engine h { s.highway h with deferral := [] }).trans ?_
  generalize (s.setHighway h { s.highway h with deferral := [] }) = s'
  generalize (s'.highway h).channels = cs
  induction cs generalizing s' with
  | nil => exact Engine.refl _
  | cons c cs ih =>
    rw [List.foldl_cons]
    refine Engine.trans ?_ (ih _)
    split
    · exact s'.drainChannel_engine _ _
    · exact Engine.refl _

theorem State.freeHighway_engine (s : State) (h : Highway) : Engine s (s.freeHighway h) :=
  (s.drainHighway_engine h).trans (State.setHighway_engine _ _ _)

/-- A highway that is lent anew: every channel FREE and no call in its deferral list. -/
theorem State.freeHighway_free (s : State) (h : Highway) :
    ((s.freeHighway h).highway h).deferral = [] ∧ ∀ ts, (s.freeHighway h).channel h ts = Channel.free := by
  cases h <;> exact ⟨rfl, fun _ => rfl⟩

theorem Ev.loseSwitchingLink_engine (e : Ev) (l : Link) (h : Highway) :
    Engine e.st (e.loseSwitchingLink l h).st := by
  unfold Ev.loseSwitchingLink
  dsimp only
  refine Engine.trans ?_ (Engine.foldl _ (fun e x => e.agentAttempt_engine x) _ _)
  refine Engine.trans ?_ (Engine.foldl _ (fun e q => e.queueAttempts_engine q) _ _)
  refine Engine.trans ?_ (Engine.foldl _ (fun e (r : Nat × Nat) => e.runHeldStep_engine r.1) _ _)
  refine Engine.trans ?_ (Engine.foldl _ (fun e x => e.loseAgent_engine x) _ _)
  exact Engine.after (State.drainHighway_engine _ _) (Engine.foldl _ (fun e x => Ev.loseCall_engine l e x) _ e)

end Sys2Proof.Machine
end

