-- ==== Sys2Proof/Laws/Requests.lean ====
section
/-!
SUPPORT. How a request that is taken is answered, and how the end of an event reads: the replies and notices as updates of the
state (Sys2Proof/Safety.lean), so that a proof about a request unfolds its own rule only.
-/
namespace Sys2Proof.Machine

open Sys2Proof

/-- Two states are equal when their settings, links, agents, calls, queues, lists and playout parts are. -/
theorem State.eq_of {s t : State} (settings : s.settings = t.settings) (link : ∀ l, s.link l = t.link l)
    (agents : s.agents = t.agents) (available : s.available = t.available) (calls : s.calls = t.calls)
    (queues : s.queues = t.queues) (token : s.token = t.token) (recent : s.recent = t.recent) (refs0 : s.refs0 = t.refs0)
    (refs1 : s.refs1 = t.refs1) (useCounts : s.useCounts = t.useCounts) (highwayA : s.highwayA = t.highwayA)
    (highwayB : s.highwayB = t.highwayB) : s = t := by
  have hA := link .a
  have hB := link .b
  have hS := link .s
  cases s; cases t
  simp only [State.settings, Settings.mk.injEq] at settings
  simp only [State.link] at hA hB hS
  simp_all

/-! ## Taking a request -/

theorem State.headRequest_of_taking {s : State} {l : Link} {r : Request} (h : s.Taking l r) : s.headRequest l = some r := by
  simp [State.headRequest, h.up, h.room, h.head]

/-- A request that is taken is served by its own rule, and then the event ends. -/
theorem takeRequest_of_taking {s : State} {l : Link} {r : Request} (h : s.Taking l r) {mine : Request → Bool}
    (hm : mine r = true) (serve : Request → Ev → Ev) : takeRequest s l mine serve = (serve r (s.takeHead l)).finish := by
  simp [takeRequest, State.headRequest_of_taking h, hm]

/-- A request that is not the command's own is left where it is. -/
theorem takeRequest_of_other {s : State} {l : Link} {mine : Request → Bool}
    (h : ∀ r, s.Taking l r → mine r = false) (serve : Request → Ev → Ev) : takeRequest s l mine serve = s := by
  unfold takeRequest
  split
  · rename_i r hr
    have ht : s.Taking l r := by
      unfold State.headRequest at hr
      split at hr
      · rename_i hc; exact ⟨hc.1, hc.2, hr⟩
      · cases hr
    simp [h r ht]
  · rfl

theorem Ev.checked_of {α : Type} {e : Ev} {l : Link} {c : RequestClass} (h : (e.st.link l).permissions.holds c = true)
    {r : Request} {read : List Byte → Option α} {b : α} (hb : read r.body = some b) (result : Result) (serve : α → Ev) :
    e.checked l r c read result serve = serve b := by simp [Ev.checked, h, hb]

@[simp] theorem State.takeHead_link (s : State) (l k : Link) :
    (s.takeHead l).st.link k = if l = k then { s.link l with inbound := (s.link l).inbound.tail } else s.link k := by
  simp [State.takeHead, Ev.updLink, State.event]

theorem State.takeHead_permissions (s : State) (l k : Link) :
    ((s.takeHead l).st.link k).permissions = (s.link k).permissions := by
  rw [State.takeHead_link]
  split
  · rename_i h; subst h; rfl
  · rfl

theorem State.takeHead_st (s : State) (l : Link) :
    (s.takeHead l).st = s.setLink l { s.link l with inbound := (s.link l).inbound.tail } := rfl

@[simp] theorem State.takeHead_offered (s : State) (l : Link) : (s.takeHead l).offered = [] := rfl
@[simp] theorem State.takeHead_freedA (s : State) (l : Link) : (s.takeHead l).freedA = false := rfl
@[simp] theorem State.takeHead_freedB (s : State) (l : Link) : (s.takeHead l).freedB = false := rfl

/-! ## Replies -/

@[simp] theorem Ev.reply_offered (e : Ev) (l : Link) (r : Request) (st : Status) (x : Result) :
    (e.reply l r st x).offered = e.offered := rfl
@[simp] theorem Ev.reply_freedA (e : Ev) (l : Link) (r : Request) (st : Status) (x : Result) :
    (e.reply l r st x).freedA = e.freedA := rfl
@[simp] theorem Ev.reply_freedB (e : Ev) (l : Link) (r : Request) (st : Status) (x : Result) :
    (e.reply l r st x).freedB = e.freedB := rfl
@[simp] theorem Ev.upd_offered (e : Ev) (f : State → State) : (e.upd f).offered = e.offered := rfl
@[simp] theorem Ev.upd_freedA (e : Ev) (f : State → State) : (e.upd f).freedA = e.freedA := rfl
@[simp] theorem Ev.upd_freedB (e : Ev) (f : State → State) : (e.upd f).freedB = e.freedB := rfl
@[simp] theorem Ev.updLink_offered (e : Ev) (l : Link) (f : LinkRec → LinkRec) : (e.updLink l f).offered = e.offered := rfl
@[simp] theorem Ev.updLink_freedA (e : Ev) (l : Link) (f : LinkRec → LinkRec) : (e.updLink l f).freedA = e.freedA := rfl
@[simp] theorem Ev.updLink_freedB (e : Ev) (l : Link) (f : LinkRec → LinkRec) : (e.updLink l f).freedB = e.freedB := rfl
@[simp] theorem Ev.offer_offered (e : Ev) (ls : List Link) (n : Notice) :
    (e.offer ls n).offered = e.offered ++ [{ dests := ls, notice := n }] := rfl
@[simp] theorem Ev.offer_freedA (e : Ev) (ls : List Link) (n : Notice) : (e.offer ls n).freedA = e.freedA := rfl
@[simp] theorem Ev.offer_freedB (e : Ev) (ls : List Link) (n : Notice) : (e.offer ls n).freedB = e.freedB := rfl

/-- The reply to a request that has just been taken. -/
theorem State.takeHead_reply (s : State) (l : Link) (r : Request) (st : Status) (x : Result) :
    ((s.takeHead l).reply l r st x).st = s.answered l r st x := by
  cases l <;> rfl

/-! ## The end of an event -/

/-- What one link gets of a notice. -/
theorem Ev.deliver_st (e : Ev) (n : Notice) (l : Link) : (Ev.deliver n e l).st = e.st.setLink l ((e.st.link l).told n) := by
  have hsame : e.st.setLink l (e.st.link l) = e.st := by cases l <;> rfl
  unfold Ev.deliver LinkRec.told
  cases hu : (e.st.link l).up
  · simp [hsame]
  · have hfree : e.st.freeNotices l = 48 - (e.st.link l).noticeCount - (e.st.link l).reserved := by
      simp [State.freeNotices, LinkRec.freeNotices, hu]
    simp only [hfree, if_true, if_neg (by simp : ¬true = false)]
    by_cases hlt : (e.st.link l).noticeCount + (e.st.link l).reserved < 48
    · rw [if_pos (by omega), if_pos hlt]
      unfold Ev.queueNotice
      rw [hfree, if_pos (by omega)]
      simp [Ev.updLink, hu]
    · rw [if_neg (by omega), if_neg hlt]
      simp [Ev.updLink, hu]

theorem Ev.deliver_foldl_st (n : Notice) (ls : List Link) (e : Ev) : (ls.foldl (Ev.deliver n) e).st = e.st.told ls n := by
  induction ls generalizing e with
  | nil => rfl
  | cons l ls ih => rw [List.foldl_cons, ih, Ev.deliver_st]; rfl

/-- The notices of an event, delivered in order. -/
theorem Ev.deliverOffered_st (e : Ev) :
    e.deliverOffered = e.offered.foldl (fun s o => s.told o.dests o.notice) e.st := by
  have key : ∀ (os : List Offered) (d : Ev), (os.foldl (fun (e : Ev) (o : Offered) => o.dests.foldl (Ev.deliver o.notice) e) d).st
      = os.foldl (fun s o => s.told o.dests o.notice) d.st := by
    intro os
    induction os with
    | nil => intro d; rfl
    | cons o os ih => intro d; rw [List.foldl_cons, ih, Ev.deliver_foldl_st]; rfl
  exact key e.offered { e with offered := [] }

/-- An event that freed no notice space ends with its notices. -/
theorem Ev.finish_unfreed {e : Ev} (ha : e.freedA = false) (hb : e.freedB = false) :
    e.finish = e.offered.foldl (fun s o => s.told o.dests o.notice) e.st := by
  simp [Ev.finish, ha, hb, Ev.deliverOffered_st]

/-- An event that freed no notice space and called for no notice ends as it stands. -/
theorem Ev.finish_quiet {e : Ev} (ha : e.freedA = false) (hb : e.freedB = false) (ho : e.offered = []) :
    e.finish = e.st := by
  rw [Ev.finish_unfreed ha hb, ho]; rfl

/-- A faulty frame or request, at the end of its event. -/
theorem Ev.raiseFault_finish {e : Ev} (ha : e.freedA = false) (hb : e.freedB = false) (ho : e.offered = []) (l : Link)
    (t : FaultType) (k : Option (Byte × Byte)) : (e.raiseFault l t k).finish = e.st.faulted l t k := by
  unfold Ev.raiseFault
  dsimp only
  rw [Ev.finish_unfreed (by simpa using ha) (by simpa using hb)]
  simp only [Ev.offer_offered, Ev.updLink_offered, ho, List.nil_append, List.foldl_cons, List.foldl_nil]
  rfl

end Sys2Proof.Machine
end

