-- ==== Sys2Proof/Tests/Slice0.lean ====
section
/-!
SUPPORT. Tests: an ill-formed command for each check of Sys2Proof/WellFormed.lean; the manual's own worked examples and tables,
one step each, with the results the manual gives (the section of each stands in its docstring); and, for every statement with
hypotheses, states and operands that meet them, clause by clause and at the ends of the ranges.
-/
namespace Sys2Proof.Tests

-- One proof at a time: each kernel evaluation otherwise takes a thread, and its stack, of its own.
set_option Elab.async false

open Sys2Proof Sys2Proof.Machine

/-! ## Commands that name what the part does not have -/

theorem test_frame_without_delimiter_refused : (Instr.frameReceived .a [0x00]).wellFormed = false := by decide
theorem test_frame_too_long_refused : (Instr.frameReceived .a (0xA5 :: List.replicate 277 0)).wellFormed = false := by
  decide +kernel
theorem test_ring_expiry_call_2048_refused : (Instr.ringExpiry 2048).wellFormed = false := by decide
theorem test_promotion_deadline_call_2048_refused : (Instr.promotionDeadline 2048).wellFormed = false := by decide
theorem test_step_deadline_call_2048_refused : (Instr.stepDeadline 2048).wellFormed = false := by decide
theorem test_deferral_expiry_call_2048_refused : (Instr.deferralExpiry 2048).wellFormed = false := by decide
theorem test_wrap_deadline_agent_1024_refused : (Instr.wrapDeadline 1024).wellFormed = false := by decide
theorem test_penalty_expiry_agent_1024_refused : (Instr.penaltyExpiry 1024).wellFormed = false := by decide
theorem test_phrase_end_programme_timeslot_refused : (Instr.phraseEnd .a 7).wellFormed = false := by decide
theorem test_phrase_end_timeslot_128_refused : (Instr.phraseEnd .b 128).wellFormed = false := by decide
theorem test_waiting_work_of_link_s_refused :
    [Instr.pendingExitCompletion .s, .heldSourceQueued .s, .heldReturnQueued .s, .freedSpaceAttempts .s].all
      (fun c => !c.wellFormed) = true := by decide
theorem test_last_records_accepted :
    [Instr.ringExpiry 2047, .wrapDeadline 1023, .phraseEnd .a 8, .phraseEnd .b 127, .freedSpaceAttempts .b,
      .frameReceived .s [0xA5]].all Instr.wellFormed = true := by decide

/-! ## Small states -/

/-- The state a command answers. -/
def after (c : Instr) (s : State) : State :=
  match exec c s with
  | .next t => t
  | _ => s

/-- A link that is UP holds every class and has nothing queued. -/
def openLink : LinkRec :=
  { LinkRec.powerOnSwitching with up := true, permissions := { calls := true, agents := true, config := true, stats := true } }

/-- The part with its three links UP, each with every class and no notice enabled. -/
def part : State := { State.reset with linkA := openLink, linkB := openLink, linkS := openLink }

/-- The request that `asking` puts into a link's FIFO. -/
abbrev ask (kind : Byte) (body : List Byte) : Request := { tag := 0x07, kind := kind, body := body }

/-- A state with one request in a link's FIFO, the link UP, with every class and no reply queued. -/
def asking (s : State) (l : Link) (kind : Byte) (body : List Byte) : State :=
  s.setLink l
    { s.link l with up := true, inbound := [ask kind body], outbound := (s.link l).outbound.filter OutEntry.isNotice
                    permissions := { calls := true, agents := true, config := true, stats := true } }

/-- The state after a request has been taken. -/
def asked (c : Instr) (s : State) (l : Link) (kind : Byte) (body : List Byte) : State := after c (asking s l kind body)

/-- The replies queued on a link. -/
def replies (s : State) (l : Link) : List Reply :=
  (s.link l).outbound.filterMap fun e => match e with | .reply r => some r | .notice _ => none

/-- The notices queued on a link. -/
def notices (s : State) (l : Link) : List Notice :=
  (s.link l).outbound.filterMap fun e => match e with | .notice n => some n | .reply _ => none

/-- A WAITING call of Link A in a queue. -/
def waitingCall (queue band : Nat) (entry : Tick) (promotion : Option Tick) : Call :=
  { state := .waiting, owner := .a, ref := 0x77, key := none, queue := queue, basePriority := band, band := band, arrival := entry,
    entry := entry, promotion := promotion, redirects := 0, exitPending := none, offer := none, agent := none,
    connectTick := none, treatment := none }

/-- An ENABLED queue with the power-on configuration. -/
def enabledQueue : Queue := { QueueConfig.powerOn with enabled := true }.emptyQueue

/-- An AVAILABLE agent of Link A with one skill. -/
def availableAgent (queue : Nat) (since : Tick) : Agent :=
  { Agent.reset with state := .available, home := some .a, id := 64, skills := [{ queue := queue, proficiency := 4 }]
                     availSince := since }

/-! ## The manual's worked examples -/

/-- Chapter 10.1: the CALL_ENTER frame with tag 07h, whose check is 01C0h. -/
theorem test_frame_received_call_enter_example :
    ((after (.frameReceived .a [0xA5, 0x00, 0x0C, 0x07, 0x01, 0x00, 0x01, 0xE2, 0x40, 0x07, 0x04, 0x05, 0x55, 0x01, 0x23, 0x01,
        0xC0]) part).linkA.inbound.map fun r => (r.tag, r.kind, readCallEnter r.body))
      = [(0x07, 0x01, some { ref := 123456, queue := 7, priority := 4, key := 0x05550123 })] := by decide +kernel

/-- The queues of the divert example of chapter 2.6; `w` and `closed` are queue 9's maximum wait and closed flag. -/
def divertPart (maxWait : Option Nat) (closed : Bool) : State :=
  let queue (target wait : Option Nat) (closed : Bool) (weight : Nat) (order : List Nat) : Queue :=
    { enabledQueue with config := { enabledQueue.config with overflowTarget := target, maxWait := wait }, closed := closed
                        weight := weight, order := order }
  { part with queues := [(3, queue (some 5) (some 1200) false 16 (List.range 9)), (5, queue (some 9) none true 0 []),
                         (9, queue none maxWait closed 0 [9, 10])]
              calls := (List.range 11).map fun y => (y, waitingCall (if y < 9 then 3 else 9) 4 0 none) }

/-- Chapter 2.6: the call enters queue 9 at position 3, with the counts of the queues it passed. -/
theorem test_call_enter_divert_example :
    (let t := asked (.callEnter .a) (divertPart none false) .a 0x01 (bytes32 5 ++ [3, 4] ++ bytes32 0)
     (replies t .a, (t.call? 11).map fun c => (c.queue, c.redirects), (t.queue 9).order, (t.queue 9).stats.offered.value,
        (t.queue 3).stats.overflowedOut.value, (t.queue 5).stats.overflowedOut.value))
      = ([{ tag := 7, kind := 0x81, status := .done, result := .entered 11 9 3 65535 }], some (9, 2), [9, 10, 11], 1, 1, 1) := by
  decide +kernel

/-- Chapter 2.6: the variants of the divert example. -/
theorem test_divert_chain_variants :
    ((divertPart (some 600) false).arrivalChain 9 3 0 [] none, (divertPart none true).arrivalChain 9 3 0 [] none,
      (divertPart none true).arrivalChain 9 5 0 [] none)
      = (.placed { queue := 9, redirects := 2, passed := [3, 5] }, .placed { queue := 3, redirects := 0, passed := [] },
        .queueClosed) := by decide +kernel

/-- Chapter 2.4: at tick 5200 call 301 rises to band 3 and stands before call 88. -/
theorem test_promotion_deadline_aging_example :
    (let s := { part with
        tick := 5200, queues := [(12, { enabledQueue with config := { enabledQueue.config with agingInterval := 300 }
                                                          order := [88, 17, 301, 412] })]
        calls := [(17, waitingCall 12 2 4700 (some 5300)), (88, waitingCall 12 3 4950 (some 5250)),
                  (301, waitingCall 12 2 4900 (some 5200)), (412, waitingCall 12 2 5100 (some 5400))] }
     let t := after (.promotionDeadline 301) s
     ((t.queue 12).order, (t.call? 301).map fun c => (c.band, c.promotion))) = ([301, 88, 17, 412], some (3, some 5500)) := by
  decide +kernel

/-- Chapter 1.3: agent 40, withdrawn from, stands behind agent 7 of the same tick and before agent 91. -/
theorem test_call_withdraw_restores_place_example :
    (let s := { part with
        tick := 1030, available := [12, 7, 91, 55]
        agents := [(7, availableAgent 2 1003), (12, availableAgent 2 1000),
                   (40, { availableAgent 1 1003 with state := .reserved, offer := some { token := 1, call := 6 } }),
                   (55, availableAgent 2 1025), (91, availableAgent 2 1010)]
        calls := [(6, { waitingCall 1 0 1020 none with state := .offering
                                                       offer := some { token := 1, agent := 40, deadline := 1170 } })]
        queues := [(1, { enabledQueue with order := [6] })], linkA := { openLink with reserved := 2 } }
     let t := asked (.callWithdraw .a) s .a 0x02 (bytes16 6)
     (t.available, notices t .a, t.linkA.reserved)) = ([12, 7, 40, 91, 55], [.offerCancel 1 40 6 .callWithdrawn], 0) := by
  decide +kernel

/-- Chapter 4.11: agent 64 with call 30 of queue 7, connected at tick 2160. -/
def wrapPart (tick : Tick) (wrapLimit : Nat) (a : Agent) : State :=
  { part with
    tick := tick, agents := [(64, a)]
    queues := [(7, { enabledQueue with config := { enabledQueue.config with wrapLimit := wrapLimit, maxExtension := 120 }
                                       weight := 16 })]
    calls := [(30, { waitingCall 7 0 2150 none with state := .connected, agent := some 64, connectTick := some 2160 })] }

/-- The BUSY agent of chapter 4.11. -/
def busyAgent : Agent :=
  { availableAgent 7 0 with state := .busy, call := some 30, handled := 11, talkTotal := 19840, wrapTotal := 3310 }

/-- The same agent in WRAP_UP since tick 3660. -/
def wrapAgent (deadline : Tick) (granted : Nat) (pending : PendingChange) : Agent :=
  { busyAgent with state := .wrapUp, call := none, handled := 12, talkTotal := 21340, pending := pending
                   wrap := some { queue := 7, talk := 1500, start := 3660, deadline := deadline, granted := granted } }

theorem test_call_release_wrap_example :
    (asked (.callRelease .a) (wrapPart 3660 300 busyAgent) .a 0x03 (bytes16 30)).agent 64 = wrapAgent 3960 0 .none := by
  decide +kernel

/-- Chapter 4.10, case 2: with a wrap limit of 0 the 900 talk ticks are the sample. -/
theorem test_call_release_immediate_end_case :
    (let t := asked (.callRelease .a) (wrapPart 3060 0 busyAgent) .a 0x03 (bytes16 30)
     ((t.queue 7).aht, (t.agent 64).state, t.available)) = (27900, .available, [64]) := by decide +kernel

theorem test_wrap_extend_first_example :
    (let t := asked (.wrapExtend .a) (wrapPart 3900 300 (wrapAgent 3960 0 .none)) .a 0x0A (bytes16 64 ++ bytes16 90)
     ((replies t .a).map (·.result), t.agent 64)) = ([.extended 64 90 90 4050], wrapAgent 4050 90 .none) := by decide +kernel

theorem test_wrap_extend_second_example :
    ((replies (asked (.wrapExtend .a) (wrapPart 4000 300 (wrapAgent 4050 90 .none)) .a 0x0A (bytes16 64 ++ bytes16 60)) .a).map
      (·.result)) = [.extended 64 30 120 4080] := by decide +kernel

theorem test_agent_not_ready_pends_example :
    (asked (.agentNotReady .a) (wrapPart 4020 300 (wrapAgent 4080 120 .none)) .a 0x07 (bytes16 64 ++ [5])).agent 64
      = wrapAgent 4080 120 (.notReady 5) := by decide +kernel

/-- Chapters 4.10, case 1, and 4.11: 1500 talk and 420 wrap ticks move the AHT to 28920, and the pended reason is applied. -/
theorem test_wrap_deadline_example :
    (let t := after (.wrapDeadline 64) (wrapPart 4080 300 (wrapAgent 4080 120 (.notReady 5)))
     ((t.queue 7).aht, (t.agent 64).state, (t.agent 64).reason, (t.agent 64).wrapTotal)) = (28920, .notReady, 5, 3730) := by
  decide +kernel

/-- Chapter 4.10: case 3, the difference that is too small to move the average, and the run of shift 1 that settles at 97. -/
theorem test_aht_update_cases :
    (let aht (shift old sample : Nat) : Nat :=
        (({ part with queues := [(7, { enabledQueue with config := { enabledQueue.config with shift := shift }, aht := old })] }
          ).updateAht 7 sample |>.queue 7).aht
     [aht 4 28800 1799, aht 4 28791 1799, aht 1 100 6, aht 1 98 6, aht 1 97 6]) = [28799, 28791, 98, 97, 97] := by
  decide +kernel

/-- Chapter 5.4: the table of expected waits. -/
theorem test_ewt_table :
    (let ewt (aht w p : Nat) : Nat := ({ enabledQueue with aht := aht, weight := w }).ewt p
     [ewt 28800 56 4, ewt 28800 16 1, ewt 28800 16 10, ewt 28920 18 3, ewt 28920 18 1, ewt 28800 2 5, ewt 28800 0 1])
      = [2058, 1800, 18000, 4820, 1607, 65535, 65535] := by decide +kernel

/-- Chapter 5.5: numbers spoken with V = 200. -/
theorem test_number_segments_example :
    ([7, 40, 47, 99, 100, 2048].map ({ Vocabulary.powerOn with base := 200 }).number)
      = [[207], [222], [222, 207], [227, 209], [228], [228]] := by decide

/-- Chapter 6.7: the pattern of RAISE and GOTO stops at the chain limit, at step 0 with band 7 and loop counter 8. -/
theorem test_call_enter_chain_limit_example :
    (let s := { part with queues := [(0, enabledQueue)], patterns0 := [(0, [.raise 1, .goto 0 0])] }
     let t := asked (.callEnter .a) s .a 0x01 (bytes32 5 ++ [0, 0] ++ bytes32 0)
     ((t.call? 0).map (·.band), ((t.call? 0).bind (·.treatment)).map fun k => (k.state, k.step, k.loop), notices t .a))
      = (some 7, some (.finished, 0, 8), []) := by decide +kernel

/-- Chapter 6.6: the step deadline at tick 9129; the loop is left, the call is raised, stays, and hears programme 5. -/
theorem test_step_deadline_looping_example :
    (let k : Treatment :=
        { bank := .bank0, pattern := 4, step := 2, state := .running, deadline := some 9129, loop := 2, source := .programme 2
          lastProgramme := some 2, heldSource := none }
     let s := { part with
        tick := 9129, refs0 := 1, calls := [(301, { waitingCall 12 1 8000 none with treatment := some k })]
        queues := [(9, { enabledQueue with closed := true }), (12, { enabledQueue with order := [301] })]
        patterns0 := [(4, [.music 2 150, .position, .music 2 300, .goto 1 2, .raise 2, .overflow 9, .music 5 0])] }
     let t := after (.stepDeadline 301) s
     ((t.call? 301).map fun c => (c.band, c.queue, c.redirects, c.treatment), notices t .a))
      = (some (3, 12, 0, some { bank := .bank0, pattern := 4, step := 6, state := .running, deadline := none, loop := 0
                                source := .programme 5, lastProgramme := some 5, heldSource := none }),
        [.listen 301 0x77 .a (some 5)]) := by decide +kernel

/-- Chapter 7.7: the order in which programme 3 plays its tracks, and the use counts that RUN raises. -/
theorem test_run_programme_example :
    (let p : Programme :=
        { tracks := [100, 101, 100, 102], order := .interleaved, start := 2, state := .stopped, counter := 0, offset := 0 }
     let t := asked (.run .s) (part.setProgramme 3 p) .s 0x15 [3, 1]
     ((List.range 4).map p.track, t.useCounts, (t.programme 3).state))
      = ([2, 3, 0, 1], [(100, 1), (101, 1), (102, 1)], .running) := by decide +kernel

/-- Chapter 7.5: at the boundary the drained channel is lent to the head of the list, with its phrase assembled then. -/
def scarcePart : State :=
  let k : Treatment :=
    { bank := .bank0, pattern := 0, step := 0, state := .awaitChannel, deadline := none, loop := 0, source := .none
      lastProgramme := none, heldSource := none }
  { part with
    boundaryDue := true
    highwayA := { HighwayRec.powerOn with
      channels := ((List.range 120).map fun i => (i + 8, { Channel.free with state := .bound })).set 6 (14, Channel.draining)
      deferral := [{ call := 40, deadline := 7050 }, { call := 52, deadline := 7060 }] }
    calls := [(40, { waitingCall 7 0 6000 none with treatment := some k }), (52, { waitingCall 7 0 6000 none with treatment := some k })]
    queues := [(7, { enabledQueue with order := [1, 2, 3, 40, 52] })], patterns0 := [(0, [.position])]
    vocabulary := { Vocabulary.powerOn with base := 200, posBefore := some 240 }
    segments := [(204, { first := 0, blocks := 16, lastBytes := 160 }), (240, { first := 16, blocks := 38, lastBytes := 128 })] }

theorem test_block_boundary_scarcity_example :
    (let t := after .blockBoundary scarcePart
     (t.channel .a 14, t.highwayA.deferral.map (·.call), notices t .a, t.useCounts))
      = ({ state := .bound, holder := some 40, phrase := some [240, 204], segIndex := 0, offset := 0 }, [52],
        [.listen 40 0x77 .a (some 14)], [(204, 1), (240, 1)]) := by decide +kernel

/-- Chapter 7.5: the deferral deadline of call 52; ANNOUNCE_SKIPPED is counted and its treatment goes on. -/
theorem test_deferral_expiry_scarcity_example :
    (let t := after (.deferralExpiry 52) { scarcePart with tick := 7060 }
     (t.highwayA.deferral.map (·.call), (t.queue 7).stats.announceSkipped.value,
        (t.call? 52).map fun c => c.treatment.map (·.state))) = ([40], 1, some (some .finished)) := by decide +kernel

/-- Chapter 8.2: the two STATS_CLEARs of the example; the reply carries the values before the clear. -/
theorem test_stats_clear_keep_flags_example :
    (let stats : Statistics :=
        { Statistics.zero with abandoned := { value := 0, wrapped := true }, exited := { value := 130, wrapped := true }, peak := 61 }
     let s := { part with queues := [(5, { enabledQueue with order := List.range 38, stats := stats })] }
     let t := asked (.statsClear .s) s .s 0x1B [5, 0x01, 0x48, 1]
     let u := asked (.statsClear .s) t .s 0x1B [5, 0x00, 0x08, 0]
     ((replies t .s).map (·.result), (t.queue 5).stats, (u.queue 5).stats))
      = ([.stats 5 0 { Statistics.zero with abandoned := { value := 0, wrapped := true }
                                            exited := { value := 130, wrapped := true }, peak := 61 }],
        { Statistics.zero with abandoned := { value := 0, wrapped := true }, exited := { value := 0, wrapped := true }, peak := 38 },
        { Statistics.zero with exited := { value := 0, wrapped := true }, peak := 38 }) := by decide +kernel

/-- Chapter 8.2: the loss of Link B removes the call and wraps ABANDONED, with the STATS_WRAP to Link S only. -/
theorem test_link_down_counter_wrap_example :
    (let s := { part with
        linkA := { openLink with permissions := LinkRec.powerOnSwitching.permissions, enables := ⟨true, true, true⟩ }
        linkS := { LinkRec.powerOnSupervision with up := true }
        queues := [(5, { enabledQueue with order := [7, 8], stats := { Statistics.zero with abandoned := ⟨0xFFFFFFFF, false⟩ } })]
        calls := [(7, waitingCall 5 0 0 none), (8, { waitingCall 5 0 0 none with owner := .b })] }
     let t := after (.linkDown .b) s
     ((t.queue 5).order, (t.queue 5).stats.abandoned, notices t .a, notices t .s, t.linkB.up))
      = ([7], { value := 0, wrapped := true }, [], [.statsWrap 5 .abandoned], false) := by decide +kernel

/-- Chapter 9.5: Link A without a free entry, a pending exit of call 812, a held return of call 40 and a held source change of
call 77. -/
def crowdedPart : State :=
  let k (step : Nat) (state : TreatmentState) (deadline : Option Tick) (held : Option Source) : Treatment :=
    { bank := .bank0, pattern := 0, step := step, state := state, deadline := deadline, loop := 0, source := .programme 2
      lastProgramme := some 2, heldSource := held }
  { part with
    tick := 9000
    linkA := { openLink with outbound := List.replicate 48 (.notice (.engineRestarted 0)), exitOrder := [812]
                             listenOrder := [40, 77] }
    patterns0 := [(0, [.position, .music 2 150, .music 3 0])], queues := [(7, { enabledQueue with order := [40, 77, 812] })]
    calls := [(40, { waitingCall 7 0 0 none with treatment := some (k 0 .returning none none) }),
              (77, { waitingCall 7 0 0 none with treatment := some (k 2 .running none (some (.programme 3))) }),
              (812, { waitingCall 7 0 0 none with exitPending := some 5 })]
    highwayA := { HighwayRec.powerOn with channels := [(90, { Channel.free with state := .bound, holder := some 40 })] } }

theorem test_transmission_complete_first_example :
    (let t := after (.transmissionComplete .a) crowdedPart
     ((notices t .a).drop 47, t.linkA.exitOrder, t.linkA.listenOrder, t.call? 812, (t.queue 7).stats.exited.value))
      = ([.callExit 812 0x77 5], [], [40, 77], none, 1) := by decide +kernel

/-- The second and the third transmission of the example. -/
theorem test_transmission_complete_later_example :
    (let t := after (.transmissionComplete .a) (after (.transmissionComplete .a) crowdedPart)
     let u := after (.transmissionComplete .a) t
     ((notices t .a).drop 47, t.channel .a 90, ((t.call? 40).bind (·.treatment)).bind (·.deadline),
       (notices u .a).drop 47, ((u.call? 77).bind (·.treatment)).map (·.source)))
      = ([.listen 40 0x77 .a (some 2)], Channel.draining, some 9150, [.listen 77 0x77 .a (some 3)],
        some (.programme 3)) := by decide +kernel

/-- Chapter 11.1: queue 20 with call 15 at its head, offered to agent 301 with token 702. -/
def busyPart (tick : Tick) : State :=
  let config : QueueConfig :=
    { enabledQueue.config with ringTime := 100, wrapLimit := 200, serviceThreshold := 300, agingInterval := 300, shift := 2 }
  let a : Agent :=
    { Agent.reset with
      state := .reserved, home := some .b, id := 9, skills := [{ queue := 20, proficiency := 4 }, { queue := 21, proficiency := 4 }]
      availSince := 9950, missLimit := 2, offer := some { token := 702, call := 15 }, lastToken := 702 }
  { part with
    tick := tick, token := 702, agents := [(301, a)]
    queues := [(20, { enabledQueue with config := config, order := [15, 16], aht := 19200, weight := 24 })]
    calls := [(15, { waitingCall 20 2 10005 none with state := .offering, owner := .b
                                                      offer := some { token := 702, agent := 301, deadline := 10105 } }),
              (16, waitingCall 20 1 10020 (some 10320))]
    linkB := { openLink with reserved := 2 } }

/-- Chapter 11.1, tick 10105: the offer expires, and the queue attempt offers call 15 to agent 301 again with token 703. -/
theorem test_ring_expiry_busy_period_example :
    (let t := after (.ringExpiry 15) (busyPart 10105)
     (((t.agent 301).miss, (t.agent 301).availSince, (t.queue 20).stats.rona.value, (t.call? 15).map (·.redirects)),
       (t.call? 15).bind (·.offer), (notices t .b).map Notice.kind))
      = ((1, 10105, 1, some 1), some { token := 703, agent := 301, deadline := 10205 }, [0x41, 0x40, 0x45, 0x45]) := by decide +kernel

/-- Chapter 11.1, tick 10150: an ACCEPT of token 702 after the agent holds token 703 is STALE. -/
theorem test_accept_stale_example :
    ((replies (asked (.accept .b) (after (.ringExpiry 15) (busyPart 10105)) .b 0x0B (bytes16 301 ++ bytes16 702 ++ [1])) .b).map
      (·.status)) = [.stale] := by decide +kernel

/-- Chapter 11.1, tick 10160: an ACCEPT connects call 15 in service. -/
theorem test_accept_connects_example :
    (let t := asked (.accept .b) (busyPart 10160) .b 0x0B (bytes16 301 ++ bytes16 702 ++ [1])
     ((t.call? 15).map fun c => (c.state, c.agent, c.connectTick), (t.agent 301).state, (t.queue 20).order,
       (t.queue 20).stats.answered.value, (t.queue 20).stats.answeredInService.value))
      = (some (.connected, some 301, some 10160), .busy, [16], 1, 1) := by decide +kernel

/-- Chapter 11.2: the loss of Link B before a reply; the call of Link A waits again at its place, with no redirect. -/
theorem test_link_down_offer_example :
    (let s := { part with
        tick := 4120, linkA := { openLink with reserved := 1 }, linkB := { openLink with reserved := 1 }, token := 900
        recent := [{ key := 1, agent := 510 }]
        agents := [(510, { availableAgent 3 4000 with state := .reserved, home := some .b, lastToken := 900
                                                      offer := some { token := 900, call := 40 } })]
        calls := [(40, { waitingCall 3 0 3000 none with state := .offering
                                                        offer := some { token := 900, agent := 510, deadline := 4250 } })]
        queues := [(3, { enabledQueue with order := [40], weight := 16 })] }
     let t := after (.linkDown .b) s
     (((t.agent 510).state, (t.agent 510).lastOutcome, t.recent, notices t .a), (t.call? 40).map (·.state),
       [(t.queue 3).weight, t.linkA.reserved, t.linkB.reserved, (t.agent 510).miss]))
      = ((.loggedOut, some .withdrawn, [], []), some .waiting, [0, 0, 0, 0]) := by decide +kernel

/-- Chapter 11.1, tick 10600: a 170 tick wrap-up moves the AHT to 16680, and the agent attempt issues token 704. -/
theorem test_wrap_end_busy_period_example :
    (let a : Agent :=
       { availableAgent 20 0 with
         state := .wrapUp, wrap := some { queue := 20, talk := 400, start := 10430, deadline := 10630, granted := 0 } }
     let s := { part with
        tick := 10600, token := 703, agents := [(300, a)], calls := [(16, waitingCall 20 2 10020 (some 10620))]
        queues := [(20, { enabledQueue with config := { enabledQueue.config with ringTime := 100, shift := 2 }, order := [16]
                                            aht := 19200, weight := 24 })] }
     let t := asked (.wrapEnd .a) s .a 0x09 (bytes16 300)
     ((replies t .a).map (·.result), (t.queue 20).aht, t.token, (t.call? 16).bind (·.offer), (t.agent 300).state))
      = ([.wrapEnded 300 570 .available .none], 16680, 704, some { token := 704, agent := 300, deadline := 10700 },
        .reserved) := by decide +kernel

/-- Chapter 11.4: the table of bank requests, from bank 0 active with counts 37 and 0. -/
theorem test_bank_requests_example :
    (let s : State := { part with refs0 := 37 }
     let t1 := asked (.bankOpen .s) s .s 0x0E [1]
     let t2 := asked (.bankActivate .s) t1 .s 0x11 [1]
     let t3 := asked (.bankClose .s) t2 .s 0x10 [1]
     let t4 := asked (.bankActivate .s) t3 .s 0x11 [1]
     let t5 := asked (.bankOpen .s) t4 .s 0x0E [0]
     [t1, t2, t3, t4, t5].map fun t => (replies t .s).map fun r => (r.status, r.result))
      = [[(.done, .bank ⟨.bank0, some .bank1, 37, 0⟩ none)], [(.stateConflict, .bank ⟨.bank0, some .bank1, 37, 0⟩ none)],
        [(.done, .bank ⟨.bank0, none, 37, 0⟩ none)], [(.done, .bank ⟨.bank1, none, 37, 0⟩ none)],
        [(.bankInUse, .bank ⟨.bank1, none, 37, 0⟩ none)]] := by decide +kernel

/-- Chapter 6.6, tick 8502 and chapter 7.5: a phrase end with no free entry leaves the channel BOUND without a phrase. -/
theorem test_phrase_end_without_space_example :
    (let k : Treatment :=
       { bank := .bank0, pattern := 0, step := 0, state := .playing, deadline := none, loop := 1, source := .personal 14
         lastProgramme := some 2, heldSource := none }
     let s := { crowdedPart with
        calls := [(40, { waitingCall 7 0 6000 none with treatment := some k })], useCounts := [(204, 1), (240, 1)]
        highwayA := { HighwayRec.powerOn with
          channels := [(14, { state := .playing, holder := some 40, phrase := some [240, 204], segIndex := 2, offset := 0 })] } }
     let t := after (.phraseEnd .a 14) s
     (t.channel .a 14, (t.call? 40).map fun c => c.treatment.map (·.state), t.useCounts, t.linkA.listenOrder))
      = ({ state := .bound, holder := some 40, phrase := none, segIndex := 0, offset := 0 }, some (some .returning), [],
        [40, 77, 40]) := by decide +kernel

/-- Chapter 11.3, tick 5025: call 211's phrase is empty at the grant, and the channel passes to call 212. -/
theorem test_transmission_complete_passes_empty_phrase_example :
    (let k (step : Nat) : Treatment :=
       { bank := .bank0, pattern := 0, step := step, state := .awaitChannel, deadline := none, loop := 0, source := .none
         lastProgramme := none, heldSource := none }
     let s := { part with
        tick := 5025, patterns0 := [(0, [.position, .announce [330]])], queues := [(7, { enabledQueue with order := [212, 211] })]
        vocabulary := { Vocabulary.powerOn with posBefore := some 240 }, segments := [(240, { first := 0, blocks := 1, lastBytes := 9 })]
        calls := [(211, { waitingCall 7 0 0 none with owner := .b, treatment := some (k 1) }),
                  (212, { waitingCall 7 0 0 none with owner := .b, treatment := some (k 0) })]
        linkB := { openLink with outbound := List.replicate 48 (.notice (.engineRestarted 0)) }
        highwayB := { HighwayRec.powerOn with
          channels := (List.range 120).filterMap fun i => if i = 82 then none else some (i + 8, { Channel.free with state := .bound })
          deferral := [{ call := 211, deadline := 5026 }, { call := 212, deadline := 5032 }] } }
     let t := after (.transmissionComplete .b) s
     (t.channel .b 90, t.highwayB.deferral, (t.queue 7).stats.announceSkipped.value, (notices t .b).drop 47))
      = ({ state := .bound, holder := some 212, phrase := some [240], segIndex := 0, offset := 0 }, [], 0,
        [.listen 212 0x77 .b (some 90)]) := by decide +kernel

/-! ## Limits and codes that the rules state -/

/-- R19: a field the mask leaves out is not applied; R10: of two entries of a queue the first is kept, and a proficiency is
brought into 1 to 15. -/
theorem test_agent_login_normalizes_skills :
    (let t := asked (.agentLogin .b) part .b 0x04 (bytes16 1023 ++ bytes32 7 ++ [9, 1] ++ bytes16 0 ++ [3, 5, 0, 5, 9, 6, 99])
     ((replies t .b).map (·.result), (t.agent 1023).skills, (t.agent 1023).missLimit, (t.agent 1023).penalty))
      = ([.login 1023 .notReady .none 2], [{ queue := 5, proficiency := 1 }, { queue := 6, proficiency := 15 }], 7, 1) := by
  decide +kernel

/-- R32: a ring time below 10 is raised, a lower threshold above the upper one is lowered to it, and an overflow target equal to
the queue itself is stored as absent. -/
theorem test_queue_set_clamps :
    (let body : List Byte := [7] ++ bytes16 0x0384 ++ [0, 0] ++ bytes16 3 ++ bytes16 0 ++ bytes16 0 ++ bytes16 0 ++ bytes16 0
        ++ bytes16 20 ++ bytes16 30 ++ [1, 7] ++ [0] ++ bytes16 0 ++ [0, 0, 0] ++ bytes16 0
     (asked (.queueSet .s) part .s 0x0C body).queue 7)
      = { Queue.powerOn with config := { QueueConfig.powerOn with ringTime := 10, upper := 20, lower := 20 } } := by
  decide +kernel

/-- R143: a segment that would run past block 16383 is cut to the blocks that are left. -/
theorem test_segment_set_cuts_block_count :
    (let t := asked (.segmentSet .s) part .s 0x12 (bytes16 511 ++ [1] ++ bytes16 16380 ++ bytes16 1024 ++ bytes16 0)
     t.segments) = [(511, { first := 16380, blocks := 4, lastBytes := 1 })] := by decide +kernel

/-- R142: bytes go to the block from byte 0, and the store keeps its canonical form when one of them is 0. -/
theorem test_sample_write_last_block :
    (asked (.sampleWrite .s) part .s 0x13 (bytes16 16383 ++ bytes16 3 ++ [0x11, 0x00, 0x22])).store
      = [(16383 * 256, 0x11), (16383 * 256 + 2, 0x22)] := by decide +kernel

/-- R181: a PORT_SET after which no link would hold CONFIG is refused. -/
theorem test_port_set_keeps_a_config_link :
    (let t := asked (.portSet .s) { part with linkA := .powerOnSwitching, linkB := .powerOnSwitching } .s 0x18 [2, 8, 0]
     ((replies t .s).map (·.status), t.linkS.permissions.config)) = ([.stateConflict], true) := by decide +kernel

/-- R184: the tick count wraps from FFFFFFFFh to 0, and a deadline set before the wrap is reached after it. -/
theorem test_tick_wraps :
    ((after .tick { part with tick := 0xFFFFFFFF }).tick, Tick.reached 5 0xFFFFFFF0, Tick.reached 0xFFFFFFF0 5)
      = (0, true, false) := by decide +kernel

/-- R184: a penalty deadline at the tick that ends, which no command has given, is taken in that tick and not in the next. -/
theorem test_tick_takes_due_expiry :
    (let s := { part with
        tick := 10, agents := [(3, { availableAgent 5 2 with state := .inferredAbsent, penaltyDeadline := some 10 })] }
     ((after .tick s).tick, (after .tick s).available, ((after .tick s).agent 3).availSince,
      (after .tick { s with tick := 9 }).available))
      = (11, [3], 10, []) := by decide +kernel

/-- R185, R157: the 256th frame marks a boundary, and its event comes before the next frame although no command has given it. -/
theorem test_playout_frame_takes_marked_boundary :
    (let s := { part with frameCount := 255, highwayA := { HighwayRec.powerOn with channels := [(8, Channel.draining)] } }
     let t := after .playoutFrame s
     ((t.channel .a 8).state, t.boundaryDue, ((after .playoutFrame t).channel .a 8).state, (after .playoutFrame t).boundaryDue))
      = (.draining, true, .free, false) := by decide +kernel

/-- R145, R149, R158: a frame places the byte at the cursor; the last byte of a track of 2 bytes moves the counter on. -/
theorem test_playout_frame_places_bytes :
    (let p : Programme := { tracks := [1, 2], order := .linear, start := 1, state := .running, counter := 0, offset := 1 }
     let s := { part with
        frameCount := 255, segments := [(1, { first := 0, blocks := 1, lastBytes := 4 }), (2, { first := 9, blocks := 1, lastBytes := 2 })]
        store := [(2304, 0x31), (2305, 0x32)], programmes := [(6, p)] }
     let t := after .playoutFrame s
     (t.highwayB.output[6]?, t.highwayA.output[5]?, (t.programme 6).counter, (t.programme 6).offset, t.boundaryDue))
      = (some 0x32, some 0xFF, 1, 0, true) := by decide +kernel

/-- R175: bytes before the delimiter are passed over, and a frame whose check does not agree is counted. -/
theorem test_frame_received_bad_check :
    (let t := after (.frameReceived .a ([0x00, 0x01] ++ [0xA5, 0, 2, 9, 0x19, 0, 0xFF])) part
     (t.linkA.inbound, t.linkA.faultCount, t.linkA.receiving)) = ([], 1, []) := by decide +kernel

/-- R177, R188: an unknown kind is answered MALFORMED with kind FFh. -/
theorem test_unknown_kind_reply :
    (replies (asked (.unknownKindRequest .a) part .a 0x20 [1]) .a) = [{ tag := 7, kind := 0xFF, status := .malformed, result := .bare }] := by
  decide +kernel

/-- R188, chapter 10.3: a CALL_EXIT with reason REDIRECT_LIMIT, summed by hand to 217, and a CALL_ENTER reply, summed to 679. -/
theorem test_outbound_frames :
    ((OutEntry.notice (.callExit 5 0x77 16)).frame,
      (OutEntry.reply { tag := 7, kind := 0x81, status := .done, result := .entered 11 9 3 65535 }).frame)
      = ([0xA5, 0, 9, 0, 0x44, 0, 5, 0, 0, 0, 0x77, 0x10, 0, 0xD9],
        [0xA5, 0, 10, 7, 0x81, 0, 0, 11, 9, 0, 3, 0xFF, 0xFF, 0x02, 0xA7]) := by decide +kernel

/-- R161, R183: channels that a loss left DRAINING are FREE when the link comes UP, before any block boundary. -/
theorem test_link_up_frees_channels :
    (let s := { part with
        highwayA := { HighwayRec.powerOn with
          channels := [(8, { state := .playing, holder := some 6, phrase := some [5], segIndex := 0, offset := 0 })] }
        useCounts := [(5, 1)] }
     let t := after (.linkDown .a) s
     ((t.channel .a 8).state, ((after (.linkUp .a) t).channel .a 8).state, (after (.linkUp .a) t).useCounts))
      = (.draining, .free, []) := by decide +kernel

end Sys2Proof.Tests
end

