-- ==== Sys2Proof/Tests/Witnesses.lean ====
section
/-!
SUPPORT. For every statement of Sys2Proof/Certificates/Slice0/Obligations.lean that has hypotheses: small states and operands that
meet all of them together, for each of its clauses and at the ends of the ranges where clauses meet.
-/
namespace Sys2Proof.Tests

open Sys2Proof Sys2Proof.Machine

-- One proof at a time: each kernel evaluation otherwise takes a thread, and its stack, of its own.
set_option Elab.async false

/-! ## Requests that are taken -/

/-- The request that `asking` puts into a link's FIFO is taken next. -/
theorem taking_asking (s : State) (l : Link) (kind : Byte) (body : List Byte) :
    (asking s l kind body).Taking l (ask kind body) := by
  have h : ((asking s l kind body).link l).replyCount = 0 := by
    cases l <;> simp [asking, State.link, State.setLink, LinkRec.replyCount, List.countP_eq_zero]
  constructor
  · cases l <;> rfl
  · omega
  · cases l <;> rfl

/-- The request that `asking` puts into a link's FIFO is taken next, and its class is held. -/
theorem served_asking (s : State) (l : Link) (kind : Byte) (body : List Byte) (cls : RequestClass) :
    (asking s l kind body).Served l (ask kind body) kind cls where
  toTaking := taking_asking s l kind body
  isKind := rfl
  permitted := by cases l <;> cases cls <;> rfl

/-! ## The block as a whole -/

theorem witness_StepRunsFrontCommand : State.reset.pending = [] := rfl

/-- An AVAILABLE agent and a waiting call, with a command at the front of the queue. -/
def keptPart : State :=
  { part with pending := [.tick], agents := [(3, availableAgent 5 10)], available := [3], recent := [{ key := 1, agent := 3 }]
              queues := [(5, { enabledQueue with order := [0], weight := 16 })], calls := [(0, waitingCall 5 7 4 none)]
              openBank := some .bank1, store := [(256, 0x80)] }

theorem agent_one (s : State) (x y : Nat) (a : Agent) (h : s.agents = [(x, a)]) :
    s.agent y = if x = y then a else Agent.reset := by
  unfold State.agent Assoc.get
  rw [h]
  simp only [Assoc.find]
  split <;> rfl

theorem call_one (s : State) (x y : Nat) (c : Call) (h : s.calls = [(x, c)]) :
    s.call? y = if x = y then some c else none := by
  unfold State.call?
  rw [h]
  simp only [Assoc.find]

theorem queue_one (s : State) (q p : Nat) (r : Queue) (h : s.queues = [(q, r)]) :
    s.queue p = if q = p then r else Queue.powerOn := by
  unfold State.queue Assoc.get
  rw [h]
  simp only [Assoc.find]
  split <;> rfl

/-- A state with an agent, a call, audio and a command waiting meets these promises, and its step answers a next state: for
TablesStayCanonical, AvailableListKept, BankCountsKept, RecentListKept, LinkBoundsKept, RedirectsAndHandleTimesInRange and
StaffingWeightsKept. -/
theorem witness_promises : keptPart.StoreCanonical ∧ keptPart.TablesRising ∧ keptPart.AvailableExact ∧ keptPart.OpenBankIdle
    ∧ keptPart.RecentSound ∧ keptPart.LinksBounded ∧ keptPart.RedirectsBounded ∧ keptPart.WeightsExact
    ∧ keptPart.HandleInRange ∧ ∃ t, step keptPart = .next t := by
  have agents := fun y => agent_one keptPart 3 y _ rfl
  have queues := fun q => queue_one keptPart 5 q _ rfl
  refine ⟨rfl, ⟨rfl, rfl, rfl, rfl, rfl, rfl, rfl, rfl, fun h => by cases h <;> rfl⟩, ⟨fun y => ?_, by decide⟩, ?_,
    ⟨by decide, by decide, ?_⟩, fun l => by cases l <;> exact ⟨⟨by decide, by decide⟩, by decide, by decide, by decide⟩,
    fun y c h => ?_, ⟨rfl, fun y => ?_, fun q => ?_⟩,
    fun q => ?_, _, rfl⟩
  · rw [agents]
    split
    · subst y; decide
    · rename_i h
      have : Agent.reset.state ≠ .available := by decide
      simp [keptPart, this, Ne.symm h]
  · intro b h
    cases b
    · exact absurd h (by decide)
    · decide
  · intro r h
    obtain rfl : r = { key := 1, agent := 3 } := by simpa [keptPart] using h
    decide
  · rw [call_one keptPart 0 y _ rfl] at h
    split at h
    · cases h; decide
    · cases h
  · rw [agents]
    split <;> decide
  · rw [queues]
    split
    · subst q; decide
    · rename_i h
      simp [Queue.powerOn, QueueConfig.emptyQueue, State.weightSum, State.contribution, State.qualified, keptPart,
        availableAgent, h]
  · rw [queues]
    split <;> (unfold Queue.HandleInRange; decide)

/-- A call of Link A's queue 63, offered to agent 3 with its ring deadline now, in treatment on timeslot 8 of Highway A. -/
def tiedOffer : Call :=
  { waitingCall 63 7 4 none with
    state := .offering, offer := some { token := 9, agent := 3, deadline := 20 }
    treatment := some { bank := .bank0, pattern := 0, step := 0, state := .playing, deadline := none, loop := 0
                        source := .personal 8, lastProgramme := none, heldSource := none } }

/-- A call of Link A that is connected to agent 4. -/
def tiedConnection : Call :=
  { waitingCall 63 3 5 none with state := .connected, agent := some 4, connectTick := some 12 }

/-- Two calls of Link A and two agents of Link B: one call offered, the other connected. -/
def tiedPart : State :=
  { part with
    pending := [.tick], tick := 20, refs0 := 1, queues := [(63, { enabledQueue with order := [0] })]
    agents := [(3, { Agent.reset with state := .reserved, home := some .b, offer := some { token := 9, call := 0 } }),
               (4, { Agent.reset with state := .busy, home := some .b, call := some 2 })]
    calls := [(0, tiedOffer), (2, tiedConnection)]
    linkA := { openLink with reserved := 1 }, linkB := { openLink with reserved := 1 }, useCounts := [(5, 1)]
    highwayA := { HighwayRec.powerOn with
      channels := [(8, { state := .playing, holder := some 0, phrase := some [5], segIndex := 0, offset := 0 })] } }

theorem call_tied {y : Nat} {c : Call} (h : tiedPart.call? y = some c) : (y = 0 ∧ c = tiedOffer) ∨ (y = 2 ∧ c = tiedConnection) := by
  simp only [State.call?, tiedPart, Assoc.find] at h
  split at h
  · cases h; exact .inl ⟨‹0 = y›.symm, rfl⟩
  · split at h
    · cases h; exact .inr ⟨‹2 = y›.symm, rfl⟩
    · cases h

theorem agent_tied (x : Nat) : x = 3 ∨ x = 4 ∨ tiedPart.agent x = Agent.reset := by
  by_cases h : 3 = x
  · exact .inl h.symm
  · by_cases k : 4 = x
    · exact .inr (.inl k.symm)
    · refine .inr (.inr ?_)
      simp only [State.agent, Assoc.get, tiedPart, Assoc.find, if_neg h, if_neg k, Option.getD]

/-- What holds of the two agents and of an agent record after power-on reset holds of every agent. -/
theorem agents_tied {p : Agent → Prop} (h3 : p (tiedPart.agent 3)) (h4 : p (tiedPart.agent 4)) (h : p Agent.reset) (x : Nat) :
    p (tiedPart.agent x) := by
  obtain rfl | rfl | e := agent_tied x
  · exact h3
  · exact h4
  · rw [e]; exact h

theorem channel_tied (h : Highway) (ts : Nat) : (h = .a ∧ ts = 8) ∨ tiedPart.channel h ts = Channel.free := by
  cases h
  · by_cases e : 8 = ts
    · exact .inl ⟨rfl, e.symm⟩
    · refine .inr ?_
      simp [tiedPart, State.channel, State.highway, Assoc.get, Assoc.find, e]
  · exact .inr rfl

theorem tiedPart_rising : tiedPart.TablesRising :=
  ⟨rfl, rfl, rfl, rfl, rfl, rfl, rfl, rfl, fun h => by cases h <;> rfl⟩

theorem tiedPart_order (q : Nat) : (tiedPart.queue q).order = if 63 = q then [0] else [] := by
  rw [queue_one tiedPart 63 q _ rfl]
  split <;> rfl

theorem tiedPart_records : tiedPart.RecordsAgree := by
  refine { available := ⟨fun x => ?_, by decide⟩, ordered := fun q y => ?_, once := fun q => ?_, offering := fun y c h => ?_
           reserved := fun x => ?_, callOffers := fun y c o h ho => ?_, agentOffers := fun x o h => ?_
           connected := fun y c h => ?_, callAgents := fun y c x h ha => ?_, agentCalls := fun x y h => ?_, busy := fun x => ?_
           answered := fun y c h hc => ?_, exiting := fun y c h hc => ?_, wrapping := fun x => ?_, penalized := fun x h => ?_
           homed := fun x => ?_, switching := ⟨fun x => ?_, fun y c h => ?_⟩ }
  · have none : (tiedPart.agent x).state ≠ .available := agents_tied (p := fun a => a.state ≠ .available) (by decide) (by decide) (by decide) x
    exact ⟨fun m => absurd (show x ∈ ([] : List Nat) from m) List.not_mem_nil, fun m => absurd m none⟩
  · rw [tiedPart_order]
    constructor
    · intro h
      split at h
      · obtain rfl : y = 0 := by simpa using h
        exact ⟨_, rfl, ‹63 = q›, by decide⟩
      · cases h
    · rintro ⟨c, h, rfl, hc⟩
      obtain ⟨rfl, rfl⟩ | ⟨rfl, rfl⟩ := call_tied h
      · decide
      · exact absurd rfl hc
  · rw [tiedPart_order]
    split <;> decide
  · obtain ⟨rfl, rfl⟩ | ⟨rfl, rfl⟩ := call_tied h <;> decide
  · exact agents_tied (p := fun a => a.state = .reserved ↔ a.offer.isSome = true) (by decide) (by decide) (by decide) x
  · obtain ⟨rfl, rfl⟩ | ⟨rfl, rfl⟩ := call_tied h <;> cases ho
    rfl
  · obtain rfl | rfl | e := agent_tied x
    · cases h; exact ⟨_, _, rfl, rfl, rfl, rfl⟩
    · cases h
    · rw [e] at h; cases h
  · obtain ⟨rfl, rfl⟩ | ⟨rfl, rfl⟩ := call_tied h <;> decide
  · obtain ⟨rfl, rfl⟩ | ⟨rfl, rfl⟩ := call_tied h <;> cases ha
    exact ⟨rfl, rfl⟩
  · obtain rfl | rfl | e := agent_tied x
    · cases h
    · cases h; exact ⟨_, rfl, rfl⟩
    · rw [e] at h; cases h
  · exact agents_tied (p := fun a => a.state = .busy ↔ a.call.isSome = true) (by decide) (by decide) (by decide) x
  · obtain ⟨rfl, rfl⟩ | ⟨rfl, rfl⟩ := call_tied h
    · cases hc
    · exact ⟨rfl, rfl, rfl⟩
  · obtain ⟨rfl, rfl⟩ | ⟨rfl, rfl⟩ := call_tied h <;> cases hc
  · exact agents_tied (p := fun a => a.state = .wrapUp ↔ a.wrap.isSome = true) (by decide) (by decide) (by decide) x
  · exact agents_tied (p := fun a => a.penaltyDeadline.isSome = true → a.state = .inferredAbsent) (by decide) (by decide) (by decide) x h
  · exact agents_tied (p := fun a => a.state = .loggedOut ↔ a.home = none) (by decide) (by decide) (by decide) x
  · exact agents_tied (p := fun a => a.home ≠ some .s) (by decide) (by decide) (by decide) x
  · obtain ⟨rfl, rfl⟩ | ⟨rfl, rfl⟩ := call_tied h <;> decide

theorem tiedPart_links : tiedPart.LinksBounded ∧ tiedPart.ReservationsExact :=
  ⟨fun l => by cases l <;> exact ⟨⟨by decide, by decide⟩, by decide, by decide, by decide⟩, fun l => by cases l <;> rfl⟩

/-- The tied state meets the promises that agents, calls, links and audio keep together, and its step answers a next state: for
BankCountsKept, RecordsAgreeKept, OrdersStaySorted, ReservationsMatchOffers and UseCountsKept. -/
theorem witness_records : tiedPart.TablesRising ∧ tiedPart.LinksBounded ∧ tiedPart.RecordsAgree ∧ tiedPart.TicksRecent
    ∧ tiedPart.OrdersSorted ∧ tiedPart.BankCountsExact ∧ tiedPart.ReservationsExact ∧ tiedPart.UseCountsExact
    ∧ ∃ t, step tiedPart = .next t := by
  refine ⟨tiedPart_rising, tiedPart_links.1, tiedPart_records, ⟨fun x h => ?_, fun y c h => ?_⟩, ⟨by decide, fun q => ?_⟩,
    fun b => by cases b <;> rfl, tiedPart_links.2, ⟨fun g => ?_, fun h ts hs => ?_⟩, _, rfl⟩
  · exact agents_tied (p := fun a => a.state = .available ∨ a.state = .reserved → (tiedPart.tick - a.availSince).toNat < 2 ^ 31)
      (by decide) (by decide) (by decide) x h
  · obtain ⟨rfl, rfl⟩ | ⟨rfl, rfl⟩ := call_tied h <;> decide
  · rw [tiedPart_order]
    split
    · exact List.pairwise_singleton ..
    · exact List.Pairwise.nil
  · by_cases e : 5 = g
    · subst e; decide
    · simp [tiedPart, part, State.reset, HighwayRec.powerOn, State.useCount, Assoc.get, Assoc.find, e, Ne.symm e]
  · obtain ⟨rfl, rfl⟩ | e := channel_tied h ts
    · exact .inr rfl
    · rw [e] at hs; cases hs

/-- The tied state, whose tick has an expiry to take, is on time: the third clause of RedirectsAndHandleTimesInRange. -/
theorem witness_RedirectsAndHandleTimesInRange_onTime : tiedPart.TablesRising ∧ tiedPart.RecordsAgree ∧ tiedPart.OnTime
    ∧ tiedPart.IsDeadline tiedPart.tick ∧ ∃ t, step tiedPart = .next t := by
  have noWrap {x : Nat} {w : WrapRecord} (h : (tiedPart.agent x).wrap = some w) : False :=
    agents_tied (p := fun a => a.wrap ≠ some w) (by simp [tiedPart, State.agent, Assoc.get, Assoc.find, Agent.reset])
      (by simp [tiedPart, State.agent, Assoc.get, Assoc.find, Agent.reset]) (by simp [Agent.reset]) x h
  have noPenalty {x : Nat} {d : Tick} (h : (tiedPart.agent x).penaltyDeadline = some d) : False :=
    agents_tied (p := fun a => a.penaltyDeadline ≠ some d) (by simp [tiedPart, State.agent, Assoc.get, Assoc.find, Agent.reset])
      (by simp [tiedPart, State.agent, Assoc.get, Assoc.find, Agent.reset]) (by simp [Agent.reset]) x h
  have noPromotion {y : Nat} {c : Call} (h : tiedPart.call? y = some c) : c.promotion = none := by
    obtain ⟨_, rfl⟩ | ⟨_, rfl⟩ := call_tied h <;> rfl
  have noDeferral (h : Highway) : (tiedPart.highway h).deferral = [] := by cases h <;> rfl
  refine ⟨tiedPart_rising, tiedPart_records, ⟨fun d h => ?_, ⟨fun q => ?_, fun x => ?_, by decide, fun b p n d h => ?_,
    fun b p d h => ?_⟩, fun x w h => (noWrap h).elim, fun y c h hp => ?_, fun y c h hc => ?_, fun h e he => ?_, fun h => by cases h⟩,
    .inl ⟨0, _, _, rfl, rfl, rfl⟩, _, rfl⟩
  · obtain ⟨y, c, o, hc, ho, rfl⟩ | ⟨y, c, hc, hp⟩ | ⟨y, c, t, hc, ht, hd⟩ | ⟨y, c, h, e, _, _, he, _⟩ | ⟨x, w, hw, _⟩ | ⟨x, hx⟩ := h
    · obtain ⟨_, rfl⟩ | ⟨_, rfl⟩ := call_tied hc <;> cases ho
      decide
    · rw [noPromotion hc] at hp; cases hp
    · obtain ⟨_, rfl⟩ | ⟨_, rfl⟩ := call_tied hc <;> cases ht
      cases hd
    · rw [noDeferral] at he; cases he
    · exact (noWrap hw).elim
    · exact (noPenalty hx).elim
  · rw [queue_one tiedPart 63 q _ rfl]
    split <;> simp [enabledQueue, Queue.powerOn, QueueConfig.emptyQueue, QueueConfig.powerOn]
  · exact agents_tied (p := fun a => a.penalty ≤ 65535) (by decide) (by decide) (by decide) x
  · cases b <;> cases h
  · cases b <;> cases h
  · rw [noPromotion h] at hp; cases hp
  · obtain ⟨_, rfl⟩ | ⟨_, rfl⟩ := call_tied h <;> cases hc
  · rw [noDeferral] at he; cases he

/-- An AVAILABLE agent and a WAITING call of its queue on one link, which has a notice entry less than an offer takes. -/
def crampedPart : State :=
  { keptPart with linkA := { openLink with outbound := List.replicate 46 (.notice (.engineRestarted 0)) } }

theorem agent_cramped (x : Nat) : crampedPart.agent x = if 3 = x then availableAgent 5 10 else Agent.reset :=
  agent_one crampedPart 3 x _ rfl

/-- What holds of the one agent and of an agent record after power-on reset holds of every agent. -/
theorem agents_cramped {p : Agent → Prop} (h3 : p (availableAgent 5 10)) (h : p Agent.reset) (x : Nat) :
    p (crampedPart.agent x) := by
  rw [agent_cramped]
  split
  · exact h3
  · exact h

theorem call_cramped {y : Nat} {c : Call} (h : crampedPart.call? y = some c) : y = 0 ∧ c = waitingCall 5 7 4 none := by
  rw [call_one crampedPart 0 y _ rfl] at h
  split at h
  · cases h; exact ⟨‹0 = y›.symm, rfl⟩
  · cases h

theorem crampedPart_order (q : Nat) : (crampedPart.queue q).order = if 5 = q then [0] else [] := by
  rw [queue_one crampedPart 5 q _ rfl]
  split <;> rfl

theorem crampedPart_records : crampedPart.RecordsAgree := by
  have waits {y : Nat} {c : Call} (h : crampedPart.call? y = some c) : c = waitingCall 5 7 4 none := (call_cramped h).2
  refine { available := ⟨fun x => ?_, by decide⟩, ordered := fun q y => ?_, once := fun q => ?_
           offering := fun y c h => by rw [waits h]; decide
           reserved := agents_cramped (p := fun a => a.state = .reserved ↔ a.offer.isSome = true) (by decide) (by decide)
           callOffers := fun y c o h ho => by rw [waits h] at ho; cases ho
           agentOffers := fun x o h => ?_
           connected := fun y c h => by rw [waits h]; decide
           callAgents := fun y c x h ha => by rw [waits h] at ha; cases ha
           agentCalls := fun x y h => ?_
           busy := agents_cramped (p := fun a => a.state = .busy ↔ a.call.isSome = true) (by decide) (by decide)
           answered := fun y c h hc => by rw [waits h] at hc; cases hc
           exiting := fun y c h _ => by rw [waits h]; rfl
           wrapping := agents_cramped (p := fun a => a.state = .wrapUp ↔ a.wrap.isSome = true) (by decide) (by decide)
           penalized := agents_cramped (p := fun a => a.penaltyDeadline.isSome = true → a.state = .inferredAbsent) (by decide)
             (by decide)
           homed := agents_cramped (p := fun a => a.state = .loggedOut ↔ a.home = none) (by decide) (by decide)
           switching := ⟨agents_cramped (p := fun a => a.home ≠ some .s) (by decide) (by decide),
             fun y c h => by rw [waits h]; decide⟩ }
  · rw [agent_cramped, show crampedPart.available = [3] from rfl]
    split
    · subst x; decide
    · have : Agent.reset.state ≠ .available := by decide
      simp [this, Ne.symm ‹¬3 = x›]
  · rw [crampedPart_order]
    constructor
    · intro h
      split at h
      · obtain rfl : y = 0 := by simpa using h
        exact ⟨_, rfl, ‹5 = q›, by decide⟩
      · cases h
    · rintro ⟨c, h, rfl, _⟩
      obtain ⟨rfl, rfl⟩ := call_cramped h
      decide
  · rw [crampedPart_order]
    split <;> decide
  · exact absurd h (agents_cramped (p := fun a => a.offer ≠ some o) (by simp [availableAgent, Agent.reset]) (by simp [Agent.reset]) x)
  · exact absurd h (agents_cramped (p := fun a => a.call ≠ some y) (by simp [availableAgent, Agent.reset]) (by simp [Agent.reset]) x)

/-- A state in which an agent and a call stand together only for want of notice space meets every premise of
ReservationsMatchOffers, and its step answers a next state. -/
theorem witness_ReservationsMatchOffers_noPairLeft : crampedPart.TablesRising ∧ crampedPart.LinksBounded ∧ crampedPart.RecordsAgree
    ∧ crampedPart.ReservationsExact ∧ crampedPart.DownLinksIdle ∧ crampedPart.NoPairLeft
    ∧ (3 ∈ crampedPart.available ∧ (crampedPart.queue 5).order = [0] ∧ crampedPart.qualified (crampedPart.agent 3) 5 = true)
    ∧ ∃ t, step crampedPart = .next t := by
  refine ⟨⟨rfl, rfl, rfl, rfl, rfl, rfl, rfl, rfl, fun h => by cases h <;> rfl⟩,
    fun l => by cases l <;> exact ⟨⟨by decide, by decide⟩, by decide, by decide, by decide⟩, crampedPart_records,
    fun l => by cases l <;> rfl, fun l h => ?_, fun q _ z hz d hd x hx hf => ?_, by decide, _, rfl⟩
  · cases l <;> cases h
  · obtain ⟨rfl, rfl⟩ := call_cramped hd.1
    obtain rfl : x = 3 := by simpa [crampedPart, keptPart] using hx
    exact absurd hf.2 (by decide)

theorem witness_OnlyItsRequestsChangeConfiguration :
    (∃ t, exec (.sampleWrite .s) part = .next t) ∧ Instr.sampleWrite .s ≠ .powerOnReset
      ∧ part.TablesRising ∧ ∀ l, Instr.sampleWrite .s ≠ .queueSet l :=
  ⟨⟨_, rfl⟩, by decide, ⟨rfl, rfl, rfl, rfl, rfl, rfl, rfl, rfl, fun h => by cases h <;> rfl⟩, fun _ h => by cases h⟩

/-- A call with an offer, a promotion deadline and a step deadline one tick ahead, and an agent with its two deadlines there. -/
def earlyPart : State :=
  let t : Treatment :=
    { bank := .bank0, pattern := 0, step := 0, state := .running, deadline := some 11, loop := 0, source := .none
      lastProgramme := none, heldSource := none }
  { part with
    tick := 10
    calls := [(2047, { waitingCall 5 0 0 (some 11) with offer := some { token := 1, agent := 3, deadline := 11 }, treatment := some t })]
    agents := [(1023, { Agent.reset with penaltyDeadline := some 11
                                         wrap := some { queue := 5, talk := 1, start := 2, deadline := 11, granted := 0 } })] }

/-- A call that waits for a channel with its deadline one tick ahead, a channel with one segment of its phrase still to play, and
work of every stage on Link A with no notice entry free. -/
def stuckPart : State :=
  { part with
    tick := 10, calls := [(0, waitingCall 5 0 0 none)]
    linkA := { openLink with outbound := List.replicate 48 (.notice (.engineRestarted 0)), exitOrder := [1], listenOrder := [2] }
    highwayA := { HighwayRec.powerOn with
      deferral := [{ call := 0, deadline := 11 }]
      channels := [(8, { state := .playing, holder := some 0, phrase := some [1, 2], segIndex := 1, offset := 0 })] } }

/-- Each kind of event that cannot arise, with the deadlines one tick ahead. -/
theorem witness_EventsThatCannotAriseChangeNothing :
    ((∃ r, (Instr.callEnter .a).takes .a r = true)
      ∧ ∀ r, (asking part .a 0x02 [0, 0]).Taking .a r → (Instr.callEnter .a).takes .a r = false)
    ∧ (∀ c o, earlyPart.call? 2047 = some c → c.offer = some o → (earlyPart.tick - o.deadline).toInt < 0)
    ∧ (∀ c d, earlyPart.call? 2047 = some c → c.promotion = some d → (earlyPart.tick - d).toInt < 0)
    ∧ (∀ c t d, earlyPart.call? 2047 = some c → c.treatment = some t → t.deadline = some d → (earlyPart.tick - d).toInt < 0)
    ∧ (∀ w, (earlyPart.agent 1023).wrap = some w → (earlyPart.tick - w.deadline).toInt < 0)
    ∧ (∀ d, (earlyPart.agent 1023).penaltyDeadline = some d → (earlyPart.tick - d).toInt < 0)
    ∧ (part.link .a).outbound = [] ∧ (State.reset.link .a).up = false ∧ (part.link .a).up = true
    ∧ (∀ c h e, stuckPart.call? 0 = some c → c.owner.highway? = some h →
        (stuckPart.highway h).deferral.find? (fun e => e.call == 0) = some e → (stuckPart.tick - e.deadline).toInt < 0)
    ∧ stuckPart.boundaryDue = false ∧ (stuckPart.channel .a 9).state ≠ .playing
    ∧ (∃ phrase, (stuckPart.channel .a 8).phrase = some phrase ∧ (stuckPart.channel .a 8).segIndex < phrase.length)
    ∧ stuckPart.freeNotices .a = 0 ∧ (stuckPart.link .a).exitOrder ≠ [] ∧ (stuckPart.link .a).listenOrder ≠ []
    ∧ ((part.link .a).exitOrder = [] ∧ (part.link .a).listenOrder = [] ∧ (part.highway .a).deferral = []) := by
  refine ⟨⟨⟨ask 0x01 [], rfl⟩, fun r h => ?_⟩, fun c o hc ho => ?_, fun c d hc hd => ?_, fun c t d hc ht hd => ?_, fun w h => ?_,
    fun d h => ?_, rfl, rfl, rfl, fun c h e hc hh he => ?_, rfl, by decide, ⟨_, rfl, by decide⟩, rfl, by decide, by decide, rfl, rfl,
    rfl⟩
  · cases h.head; rfl
  · cases hc; cases ho; decide
  · cases hc; cases hd; decide
  · cases hc; cases ht; cases hd; decide
  · cases h; decide
  · cases h; decide
  · cases hc; cases hh; cases he; decide

/-- A call heads the deferral list of Highway A, and nothing else waits. -/
def deferredPart : State := { part with highwayA := { HighwayRec.powerOn with deferral := [{ call := 0, deadline := 11 }] } }

/-- A held source change, a held return, a deferral list with every channel lent, and a grant that has its turn before the
attempts. -/
theorem witness_EventsThatCannotAriseChangeNothing_work :
    (∃ (s : State) (c : Call) (t : Treatment), (s.link .a).listenOrder = [0] ∧ s.call? 0 = some c ∧ c.treatment = some t
      ∧ t.heldSource = none)
    ∧ (∃ (s : State) (c : Call) (t : Treatment), (s.link .a).listenOrder = [0] ∧ s.call? 0 = some c ∧ c.treatment = some t
      ∧ t.heldSource ≠ none)
    ∧ (∃ s : State, (s.highway .a).deferral ≠ [] ∧ ∀ ts, 8 ≤ ts → ts < 128 → (s.channel .a ts).state ≠ .free)
    ∧ exec (.deferralGrant .a) deferredPart ≠ .next deferredPart := by
  have held (source : Option Source) : ∃ (s : State) (c : Call) (t : Treatment), (s.link .a).listenOrder = [0] ∧ s.call? 0 = some c
      ∧ c.treatment = some t ∧ t.heldSource = source :=
    ⟨{ part with
        linkA := { openLink with listenOrder := [0] }
        calls := [(0, { waitingCall 5 0 0 none with
          treatment := some { bank := .bank0, pattern := 0, step := 0, state := .returning, deadline := none, loop := 0
                              source := .none, lastProgramme := none, heldSource := source } })] },
      _, _, rfl, rfl, rfl, rfl⟩
  refine ⟨held none, ?_, ⟨{ part with highwayA := { HighwayRec.powerOn with
      deferral := [{ call := 0, deadline := 11 }]
      channels := (List.range 128).map fun ts => (ts, Channel.draining) } }, by simp [State.highway, HighwayRec.powerOn], ?_⟩,
    fun h => ?_⟩
  · obtain ⟨s, c, t, h⟩ := held (some .none)
    exact ⟨s, c, t, h.1, h.2.1, h.2.2.1, by simp [h.2.2.2]⟩
  · have all : ∀ ts : Fin 128, (State.channel { part with highwayA := { HighwayRec.powerOn with
        deferral := [{ call := 0, deadline := 11 }]
        channels := (List.range 128).map fun ts => (ts, Channel.draining) } } .a ts).state ≠ .free := by decide +kernel
    exact fun ts _ h => all ⟨ts, h⟩
  · have grants : (after (.deferralGrant .a) deferredPart).highwayA.deferral = [] := by decide +kernel
    rw [after, h] at grants
    cases grants

/-! ## Frames and requests -/

/-- The longest body, a FIFO with one place left, and the two ends of a frame's split. -/
theorem witness_FrameRoundTrip :
    (let s := part.setLink .a { openLink with inbound := List.replicate 15 (ask 2 []) }
     let body : List Byte := List.replicate 270 0xA5
     (s.link .a).up = true ∧ (s.link .a).inbound.length < 16 ∧ body.length ≤ 270
       ∧ ((s.link .a).receiving = [] ∧ ∀ b ∈ ([0x00, 0xA4] : List Byte), b ≠ 0xA5)
       ∧ (s.link .a).receiving = (frameOf 1 1 body).take 0
       ∧ ((s.setLink .a { s.link .a with receiving := (frameOf 1 1 body).dropLast }).link .a).receiving
         = (frameOf 1 1 body).take 276) := by
  decide +kernel

/-- The replies whose lists are as long as their records allow, a reply without a list, and a notice. -/
theorem witness_FrameRoundTrip_sent :
    ∀ x ∈ [OutEntry.notice (.engineRestarted 0), .reply { tag := 1, kind := 0x81, status := .done, result := .bare },
        .reply { tag := 1, kind := 0x94, status := .done, result := .programme { Programme.powerOn with tracks := List.replicate 8 511 } },
        .reply { tag := 1, kind := 0x9D, status := .done
                 result := .agentRecord { Agent.reset with skills := List.replicate 8 { queue := 63, proficiency := 15 } } none }],
      x.ListsBounded := by
  simp [OutEntry.ListsBounded]

/-- The lengths just outside 2 to 272, a check that is one off, and a FIFO that is full. -/
theorem witness_FaultyFramesCounted :
    (part.link .a).up = true ∧ (part.link .a).receiving = [] ∧ (∀ n ∈ [0, 1, 273, 65535], (n < 2 ∨ 272 < n) ∧ n < 65536)
    ∧ (List.replicate 270 (0 : Byte)).length ≤ 270 ∧ byteSum (bytes16 2 ++ (0x07 : Byte) :: 0x01 :: []) + 1 < 65536
    ∧ byteSum (bytes16 2 ++ (0x07 : Byte) :: 0x01 :: []) + 1 ≠ byteSum (bytes16 2 ++ (0x07 : Byte) :: 0x01 :: [])
    ∧ 16 ≤ ((part.setLink .a { openLink with inbound := List.replicate 16 (ask 2 []) }).link .a).inbound.length := by
  decide +kernel

/-- The largest fields that the bodies of the statement admit. -/
theorem witness_RequestBodiesRoundTrip :
    65535 < 65536 ∧ 255 < 256 ∧ (List.replicate 8 ({ queue := 255, proficiency := 255 } : Skill)).length ≤ 8
    ∧ (List.replicate 16 (PatternStep.announce [511, 0, 511, 0])).length ≤ 16
    ∧ (∀ step ∈ [PatternStep.music 7 65535, .silence 65535, .announce [511, 0, 511, 0], .position, .waitEstimate, .goto 15 255,
        .raise 1, .raise 7, .overflow 63, .exit 15], step.inRange)
    ∧ 1 ≤ [(0 : Byte)].length ∧ (List.replicate 256 (0 : Byte)).length ≤ 256 ∧ (List.replicate 8 65535).length ≤ 8
    ∧ ∀ g ∈ List.replicate 8 65535, g < 65536 := by
  refine ⟨by decide, by decide, by decide, by decide, ?_, by decide, Nat.le_of_eq List.length_replicate, by decide, ?_⟩
  · simp [PatternStep.inRange]
  · intro g hg; rw [List.eq_of_mem_replicate hg]; decide

/-- A queue configuration with the largest fields, and a vocabulary record with every segment present at its largest. -/
theorem witness_RequestBodiesRoundTrip_records :
    (∃ c : QueueConfig, c.minProficiency = 255 ∧ c.ringTime = 65535 ∧ c.wrapLimit = 65535 ∧ c.maxExtension = 65535
      ∧ c.serviceThreshold = 65535 ∧ c.agingInterval = 65535 ∧ c.upper = 65535 ∧ c.lower = 65535 ∧ c.overflowTarget = some 255
      ∧ c.maxWait = some 65535 ∧ c.pattern = 255 ∧ c.shift = 255 ∧ c.initialHandle = 65535)
    ∧ (∃ v : Vocabulary, v.base = 65535 ∧ ∀ o ∈ [v.posBefore, v.posAfter, v.waitBefore, v.waitAfter, v.waitUnknown], o = some 65535)
    ∧ 31 < 32 ∧ 511 < 512 :=
  ⟨⟨{ enabled := true, minProficiency := 255, ringTime := 65535, wrapLimit := 65535, maxExtension := 65535, serviceThreshold := 65535
      agingInterval := 65535, upper := 65535, lower := 65535, overflowTarget := some 255, maxWait := some 65535, pattern := 255
      affinity := true, shift := 255, initialHandle := 65535 }, by simp⟩,
    ⟨⟨65535, some 65535, some 65535, some 65535, some 65535, some 65535⟩, by simp⟩, by decide, by decide⟩

/-- An ordinary request, an ENGINE_RESET and one of an unknown kind. -/
theorem witness_TakenRequestGetsOneReply :
    ((Instr.queueRead .s).takes .s (ask 0x1C [63]) = true ∧ (asking part .s 0x1C [63]).Taking .s (ask 0x1C [63]))
    ∧ ((Instr.engineReset .b).takes .b (ask 0x19 []) = true ∧ (asking part .b 0x19 []).Taking .b (ask 0x19 []))
    ∧ ((Instr.unknownKindRequest .a).takes .a (ask 0x20 []) = true ∧ (asking part .a 0x20 []).Taking .a (ask 0x20 [])) :=
  ⟨⟨rfl, taking_asking ..⟩, ⟨rfl, taking_asking ..⟩, ⟨rfl, taking_asking ..⟩⟩

/-- A link without a class, a body that is one byte too short, and the first kinds that are not request kinds. -/
theorem witness_RefusedRequestsChangeNothingElse :
    ((Instr.unknownKindRequest .a).takes .a (ask 0x00 []) = true ∧ (asking part .a 0x00 []).Taking .a (ask 0x00 []))
    ∧ ((Instr.callEnter .s).takes .s (ask 0x01 []) = true ∧ (asking part .s 0x01 []).Taking .s (ask 0x01 []))
    ∧ (∃ s : State, s.Taking .a (ask 0x0E [0]) ∧ (s.link .a).permissions.holds .config = false
      ∧ (Instr.bankOpen .a).takes .a (ask 0x0E [0]) = true ∧ (Instr.bankOpen .a).requestClass = some .config)
    ∧ ((asking part .a 0x02 [0]).Taking .a (ask 0x02 [0]) ∧ ((asking part .a 0x02 [0]).link .a).permissions.holds .calls = true
      ∧ (Instr.callWithdraw .a).readsBody [0] = false ∧ (Instr.callWithdraw .a).requestClass = some .calls
      ∧ (Instr.callWithdraw .a).takes .a (ask 0x02 [0]) = true ∧ Instr.callWithdraw .a ≠ .callEnter .s) :=
  ⟨⟨rfl, taking_asking ..⟩, ⟨rfl, taking_asking ..⟩,
    ⟨{ part with linkA := { LinkRec.powerOnSwitching with up := true, inbound := [ask 0x0E [0]] } },
      ⟨rfl, by decide, rfl⟩, rfl, rfl, rfl⟩,
    taking_asking .., rfl, rfl, rfl, rfl, by decide⟩

/-! ## Configuration requests -/

/-- A VOCABULARY_SET body with a number base and five segments, all present. -/
def vocabularyBody (base segment : Nat) : List Byte := bytes16 base ++ (List.replicate 5 (1 :: bytes16 segment)).flatten

theorem witness_RecordReplacingRequests :
    ((asking part .s 0x16 (vocabularyBody 483 511)).Served .s (ask 0x16 (vocabularyBody 483 511)) 0x16 .config
      ∧ ∃ v, readVocabulary (vocabularyBody 483 511) = some v ∧ v.base ≤ 483
        ∧ ∀ o ∈ [v.posBefore, v.posAfter, v.waitBefore, v.waitAfter, v.waitUnknown], ∀ g, o = some g → g < 512)
    ∧ (∃ v, readVocabulary (vocabularyBody 484 511) = some v ∧ ¬(v.base ≤ 483
        ∧ ∀ o ∈ [v.posBefore, v.posAfter, v.waitBefore, v.waitAfter, v.waitUnknown], ∀ g, o = some g → g < 512))
    ∧ (∃ v, readVocabulary (vocabularyBody 483 512) = some v ∧ ¬(v.base ≤ 483
        ∧ ∀ o ∈ [v.posBefore, v.posAfter, v.waitBefore, v.waitAfter, v.waitUnknown], ∀ g, o = some g → g < 512))
    ∧ ((asking part .s 0x17 [0x55, 0xFF, 0xFF]).Served .s (ask 0x17 [0x55, 0xFF, 0xFF]) 0x17 .config
      ∧ readTreatmentSet [0x55, 0xFF, 0xFF] = some { silence := 0x55, deferLimit := 65535 })
    ∧ ((asking part .s 0x18 [0, 0, 0]).Served .s (ask 0x18 [0, 0, 0]) 0x18 .config
      ∧ ∃ b, readPortSet [0, 0, 0] = some b ∧ ∃ k, (((asking part .s 0x18 [0, 0, 0]).setLink b.link
          { (asking part .s 0x18 [0, 0, 0]).link b.link with permissions := b.permissions, enables := b.enables }).link
            k).permissions.config = true)
    ∧ ∃ s : State, s.Served .s (ask 0x18 [2, 0, 0]) 0x18 .config ∧ ∃ b, readPortSet [2, 0, 0] = some b
      ∧ ∀ k, ((s.setLink b.link { s.link b.link with permissions := b.permissions, enables := b.enables }).link
            k).permissions.config = false := by
  refine ⟨⟨served_asking .., _, rfl, by decide, ?_⟩, ⟨_, rfl, ?_⟩, ⟨_, rfl, ?_⟩, ⟨served_asking .., rfl⟩,
    ⟨served_asking .., _, rfl, .s, rfl⟩, asking { part with linkA := .powerOnSwitching, linkB := .powerOnSwitching } .s 0x18 [2, 0, 0],
    served_asking .., _, rfl, fun k => by cases k <;> rfl⟩
  · intro o ho g hg
    rw [hg] at ho
    revert ho
    simp [u16, u8, vocabularyBody, bytes16]
    omega
  · exact fun h => absurd h.1 (by decide)
  · intro h
    have := h.2 (some 512) (by decide) 512 rfl
    omega

/-- Each outcome of the three bank requests: out of range, open, another open, active or counted, idle and closed. -/
theorem witness_BankRequests :
    ((asking part .s 0x0E [2]).Served .s (ask 0x0E [2]) 0x0E .config ∧ readByte [2] = some 2
      ∧ (asking part .s 0x10 [2]).Served .s (ask 0x10 [2]) 0x10 .config
      ∧ (asking part .s 0x11 [2]).Served .s (ask 0x11 [2]) 0x11 .config)
    ∧ readByte [0] = some 0 ∧ readByte [1] = some 1
    ∧ (∀ o : Option Bank, (asking { part with openBank := o } .s 0x0E [1]).Served .s (ask 0x0E [1]) 0x0E .config
      ∧ (asking { part with openBank := o } .s 0x0E [1]).openBank = o
      ∧ (asking { part with openBank := o } .s 0x10 [1]).Served .s (ask 0x10 [1]) 0x10 .config
      ∧ (asking { part with openBank := o } .s 0x10 [1]).openBank = o
      ∧ (asking { part with openBank := o } .s 0x11 [1]).Served .s (ask 0x11 [1]) 0x11 .config
      ∧ (asking { part with openBank := o } .s 0x11 [1]).openBank = o)
    ∧ (∃ s : State, s.openBank = none ∧ s.activeBank = .bank0 ∧ s.refs .bank1 = 1)
    ∧ (∃ s : State, s.openBank = none ∧ s.activeBank ≠ .bank1 ∧ s.refs .bank1 = 0) :=
  ⟨⟨served_asking .., rfl, served_asking .., served_asking ..⟩, rfl, rfl,
    fun _ => ⟨served_asking .., rfl, served_asking .., rfl, served_asking .., rfl⟩,
    ⟨{ part with refs1 := 1 }, rfl, rfl, rfl⟩, ⟨part, rfl, by decide, rfl⟩⟩

/-- The outcomes of PATTERN_WRITE: out of range, a bank that is not open, and the open bank. -/
theorem witness_BankRequests_pattern :
    (∀ o : Option Bank, ∀ n p : Byte, (asking { part with openBank := o } .s 0x0F [n, p, 0]).Served .s (ask 0x0F [n, p, 0]) 0x0F .config
      ∧ (asking { part with openBank := o } .s 0x0F [n, p, 0]).openBank = o)
    ∧ readPatternWrite [2, 31, 0] = some { bank := 2, pattern := 31, steps := [] }
    ∧ readPatternWrite [1, 32, 0] = some { bank := 1, pattern := 32, steps := [] }
    ∧ readPatternWrite [1, 31, 0] = some { bank := 1, pattern := 31, steps := [] } :=
  ⟨fun _ _ _ => ⟨served_asking .., rfl⟩, rfl, rfl, rfl⟩

/-- A QUEUE_SET body that masks every field and reseeds. -/
def queueBody (queue : Nat) : List Byte := QueueConfig.bytes { enabledQueue.config with overflowTarget := some 63 } queue

theorem witness_QueueSetStoresFields :
    ((asking part .s 0x0C (queueBody 64)).Served .s (ask 0x0C (queueBody 64)) 0x0C .config
      ∧ (readQueueSet (queueBody 64)).map (·.queue) = some 64)
    ∧ ((asking part .s 0x0C (queueBody 63)).Served .s (ask 0x0C (queueBody 63)) 0x0C .config
      ∧ ((readQueueSet (queueBody 63)).map fun b => (b.queue, b.pattern, b.overflowTarget, b.minProficiency))
        = some (63, some 0, some (some 63), some 1)
      ∧ ((asking part .s 0x0C (queueBody 63)).queue 63).config.minProficiency = 1) :=
  ⟨⟨served_asking .., by decide +kernel⟩, served_asking .., by decide +kernel, by decide +kernel⟩

/-- A minimum proficiency that the QUEUE_SET of `queueBody` lowers by one, to 1. -/
theorem witness_QueueSetStoresFields_lowered :
    let s := asking { part with queues := [(63, { enabledQueue with config := { enabledQueue.config with minProficiency := 2 } })] }
      .s 0x0C (queueBody 63)
    s.Served .s (ask 0x0C (queueBody 63)) 0x0C .config
      ∧ ((readQueueSet (queueBody 63)).map fun b => (b.queue, b.pattern, b.overflowTarget, b.minProficiency))
        = some (63, some 0, some (some 63), some 1)
      ∧ max 1 (min 15 1) < (s.queue 63).config.minProficiency :=
  ⟨served_asking .., by decide +kernel, by decide +kernel⟩

theorem witness_EngineResetClearsAndKeeps :
    (asking keptPart .a 0x19 []).Served .a (ask 0x19 []) 0x19 .config ∧ (ask 0x19 []).body = []
      ∧ (asking keptPart .a 0x19 []).TablesRising :=
  ⟨served_asking .., rfl, ⟨rfl, rfl, rfl, rfl, rfl, rfl, rfl, rfl, fun h => by cases h <;> rfl⟩⟩

/-! ## Audio and read requests -/

/-- A link without CONFIG, a body that is not well formed, the blocks at the end of the range, a segment that covers a block, and
the byte counts beside the range. -/
theorem witness_SampleWriteStoresBytes :
    (∀ body, (asking part .s 0x13 body).Taking .s (ask 0x13 body) ∧ (ask 0x13 body).kind = 0x13
      ∧ ((asking part .s 0x13 body).link .s).permissions.config = true)
    ∧ (∃ s : State, s.Taking .a (ask 0x13 []) ∧ (s.link .a).permissions.config = false)
    ∧ readSampleWrite [] = none
    ∧ readSampleWrite [0x40, 0x00, 0, 1, 9] = some { block := 16384, bytes := [9] }
    ∧ readSampleWrite [0x3F, 0xFF, 0, 1, 9] = some { block := 16383, bytes := [9] }
    ∧ (∃ (s : State) (e : Segment), s.Taking .s (ask 0x13 [0x3F, 0xFF, 0, 1, 9]) ∧ s.segment? 2 = some e ∧ e.first = 16383)
    ∧ (0 < 65536 ∧ 257 < 65536 ∧ 256 < 257) :=
  ⟨fun _ => ⟨taking_asking .., rfl, rfl⟩,
    ⟨{ part with linkA := { LinkRec.powerOnSwitching with up := true, inbound := [ask 0x13 []] } }, ⟨rfl, by decide, rfl⟩, rfl⟩,
    rfl, by decide +kernel, by decide +kernel,
    ⟨asking { part with segments := [(2, { first := 16383, blocks := 1, lastBytes := 1 })] } .s 0x13 [0x3F, 0xFF, 0, 1, 9], _,
      taking_asking .., rfl, rfl⟩, by decide⟩

theorem witness_SegmentAndProgrammeSetStoreEntries :
    (∀ (s : State) (body : List Byte), (asking s .s 0x12 body).Served .s (ask 0x12 body) 0x12 .config
      ∧ (asking s .s 0x14 body).Served .s (ask 0x14 body) 0x14 .config ∧ (asking s .s 0x12 body).useCounts = s.useCounts
      ∧ (asking s .s 0x14 body).programmes = s.programmes)
    ∧ readSegmentSet [2, 0, 0, 0, 0, 0, 0, 0, 0] = some { segment := 512, entry := none }
    ∧ readSegmentSet [1, 0xFF, 1, 0x40, 0, 0, 0, 0, 0] = some { segment := 511, entry := some (16384, 0, 0) }
    ∧ readSegmentSet [1, 0xFF, 1, 0x3F, 0xFF, 0, 0, 0, 0] = some { segment := 511, entry := some (16383, 0, 0) }
    ∧ { part with useCounts := [(511, 1)] }.useCount 511 = 1 ∧ part.useCount 511 = 0
    ∧ readProgrammeSet [8, 0, 0, 0] = some { programme := 8, tracks := [], order := .linear, start := 0 }
    ∧ readProgrammeSet [7, 1, 2, 0, 1, 9] = some { programme := 7, tracks := [512], order := .interleaved, start := 9 }
    ∧ readProgrammeSet [7, 1, 1, 0xFF, 1, 9] = some { programme := 7, tracks := [511], order := .interleaved, start := 9 }
    ∧ ({ part with programmes := [(7, { Programme.powerOn with state := .paused })] }.programme 7).state ≠ .stopped
    ∧ (part.programme 7).state = .stopped :=
  ⟨fun s body => ⟨served_asking .., served_asking .., rfl, rfl⟩, by decide, by decide, by decide, by decide, by decide, by decide,
    by decide, by decide, by decide, by decide⟩

theorem witness_ProgrammeControlActs :
    (∀ (s : State) (body : List Byte), (asking s .s 0x15 body).Served .s (ask 0x15 body) 0x15 .config
      ∧ (asking s .s 0x15 body).programmes = s.programmes)
    ∧ readProgrammeControl [8, 1] = some { programme := 8, action := .run }
    ∧ (readProgrammeControl [7, 2] = some { programme := 7, action := .pause } ∧ (part.programme 7).state = .stopped)
    ∧ readProgrammeControl [7, 3] = some { programme := 7, action := .stop }
    ∧ ({ part with programmes := [(7, { Programme.powerOn with state := .running })] }.programme 7).state = .running :=
  ⟨fun _ _ => ⟨served_asking .., rfl⟩, by decide, by decide, by decide, by decide⟩

theorem witness_ReadsReportRecords :
    (∀ (kind : Byte) (body : List Byte), (asking keptPart .s kind body).Served .s (ask kind body) kind .stats)
    ∧ readByte [63] = some 63 ∧ readByte [64] = some 64 ∧ readSlot [0x07, 0xFF] = some 2047 ∧ readSlot [0x08, 0x00] = some 2048
    ∧ readAgentRead [0x03, 0xFF, 1] = some { slot := 1023, clear := true }
    ∧ readAgentRead [0x04, 0x00, 0] = some { slot := 1024, clear := false } ∧ readPortRead [2] = some .s :=
  ⟨fun _ _ => served_asking .., rfl, rfl, rfl, rfl, rfl, rfl, rfl⟩

theorem witness_StatsClearZeroesNamedCounters :
    (∀ body, (asking part .s 0x1B body).Served .s (ask 0x1B body) 0x1B .stats)
    ∧ readStatsClear [64, 1, 0xFF, 1] = some { queue := 64, mask := 511, keepFlags := true }
    ∧ readStatsClear [63, 1, 0xFF, 0] = some { queue := 63, mask := 511, keepFlags := false } :=
  ⟨fun _ => served_asking .., by decide +kernel, by decide +kernel⟩

/-! ## Agents -/

/-- The part with one agent record, in slot 5. -/
def agentPart (a : Agent) : State := { part with agents := [(5, a)] }

/-- A request about any agent record at all: the record stands in slot 5, and the request is taken. -/
theorem served_agentPart (a : Agent) (l : Link) (kind : Byte) (body : List Byte) (cls : RequestClass) :
    (asking (agentPart a) l kind body).Served l (ask kind body) kind cls ∧ (asking (agentPart a) l kind body).agent 5 = a :=
  ⟨served_asking .., by cases l <;> rfl⟩

/-- Agent records of Link A in each state, none with an offer, a call or a wrap record. -/
theorem agents_in_each_state (state : AgentState) (pending : PendingChange) :
    ∃ a : Agent, a.state = state ∧ a.home = some .a ∧ a.pending = pending ∧ a.offer = none ∧ a.call = none :=
  ⟨{ Agent.reset with state := state, home := some .a, pending := pending }, rfl, rfl, rfl, rfl, rfl⟩

/-- An AGENT_LOGIN body with one skill. -/
def loginBody (slot queue : Nat) : List Byte := bytes16 slot ++ bytes32 7 ++ [3, 0] ++ bytes16 9 ++ [1, byte1 queue, 5]

theorem witness_AgentLoginMakesRecord :
    (∀ (a : Agent) (l : Link) (body : List Byte),
      (asking (agentPart a) l 0x04 body).Served l (ask 0x04 body) 0x04 .agents ∧ (asking (agentPart a) l 0x04 body).agent 5 = a)
    ∧ ((readLogin (loginBody 1024 63)).map fun b => (b.slot, b.skills.map (·.queue))) = some (1024, [63])
    ∧ ((readLogin (loginBody 5 64)).map fun b => (b.slot, b.skills.map (·.queue))) = some (5, [64])
    ∧ ((readLogin (loginBody 5 63)).map fun b => (b.slot, b.skills.map (·.queue))) = some (5, [63]) :=
  ⟨fun a l body => served_agentPart a l _ body _, by decide +kernel, by decide +kernel, by decide +kernel⟩

theorem witness_AgentRequestChecks :
    (∀ (a : Agent) (kind : Byte) (body : List Byte),
      (asking (agentPart a) .a kind body).Served .a (ask kind body) kind .agents ∧ (asking (agentPart a) .a kind body).agent 5 = a)
    ∧ readSlot [0, 5] = some 5 ∧ readSlot [4, 0] = some 1024 ∧ readNotReady [0, 5, 9] = some { slot := 5, reason := 9 }
    ∧ readExtend [0, 5, 0, 9] = some { slot := 5, requested := 9 }
    ∧ readUpdate [0, 5, 0, 2, 0, 0, 0, 0, 3, 0, 0, 0, 0]
      = some { slot := 5, skills := none, missLimit := some 3, exitType := none, penalty := none, id := none }
    ∧ (∃ a : Agent, a.state ≠ .loggedOut ∧ a.home ≠ some .a) ∧ (∃ a : Agent, a.state = .loggedOut)
    ∧ ∃ a : Agent, a.home = some .a ∧ a.state ≠ .wrapUp :=
  ⟨fun a kind body => served_agentPart a .a kind body _, rfl, rfl, rfl, rfl, by decide +kernel,
    ⟨{ availableAgent 1 0 with home := some .b }, by decide, by decide⟩, ⟨Agent.reset, rfl⟩, ⟨availableAgent 1 0, rfl, by decide⟩⟩

/-- Each action of AGENT_FORCE, for a slot just out of range and for an agent that is LOGGED_OUT. -/
theorem witness_AgentRequestChecks_force :
    (∀ body : List Byte, (asking (agentPart Agent.reset) .s 0x0D body).Served .s (ask 0x0D body) 0x0D .config
      ∧ (asking (agentPart Agent.reset) .s 0x0D body).agent 5 = Agent.reset)
    ∧ readForce [4, 0, 1, 0] = some { slot := 1024, action := .logout, reason := 0 }
    ∧ readForce [4, 0, 2, 15] = some { slot := 1024, action := .notReady, reason := 15 }
    ∧ readForce [4, 0, 3, 0] = some { slot := 1024, action := .logoutNow, reason := 0 }
    ∧ readForce [0, 5, 2, 15] = some { slot := 5, action := .notReady, reason := 15 } ∧ Agent.reset.state = .loggedOut :=
  ⟨fun body => served_agentPart Agent.reset .s _ body _, rfl, rfl, rfl, rfl, rfl⟩

theorem witness_AgentBecomesAvailable :
    (∀ (a : Agent) (body : List Byte), (asking (agentPart a) .a 0x06 body).Served .a (ask 0x06 body) 0x06 .agents
      ∧ (asking (agentPart a) .a 0x06 body).agent 5 = a)
    ∧ readSlot [0, 5] = some 5 ∧ (5 : Nat) < 1024
    ∧ (∀ state pending, ∃ a : Agent, a.state = state ∧ a.home = some .a ∧ a.pending = pending ∧ a.offer = none ∧ a.call = none)
    ∧ ∃ s : State, (s.agent 5).penaltyDeadline = some 11 ∧ 0 ≤ (s.tick - 11).toInt :=
  ⟨fun a body => served_agentPart a .a _ body _, rfl, by decide, agents_in_each_state,
    { agentPart { Agent.reset with penaltyDeadline := some 11 } with tick := 11 }, rfl, by decide⟩

theorem witness_AgentBecomesNotReady :
    (∀ (a : Agent) (body : List Byte), (asking (agentPart a) .a 0x07 body).Served .a (ask 0x07 body) 0x07 .agents
      ∧ (asking (agentPart a) .a 0x07 body).agent 5 = a)
    ∧ (∀ (a : Agent) (body : List Byte), (asking (agentPart a) .s 0x0D body).Served .s (ask 0x0D body) 0x0D .config
      ∧ (asking (agentPart a) .s 0x0D body).agent 5 = a)
    ∧ readNotReady [0, 5, 16] = some { slot := 5, reason := 16 }
    ∧ readForce [0, 5, 2, 15] = some { slot := 5, action := .notReady, reason := 15 } ∧ (5 : Nat) < 1024
    ∧ ∀ state pending, ∃ a : Agent, a.state = state ∧ a.home = some .a ∧ a.pending = pending ∧ a.offer = none ∧ a.call = none :=
  ⟨fun a body => served_agentPart a .a _ body _, fun a body => served_agentPart a .s _ body _, rfl, rfl, by decide,
    agents_in_each_state⟩

theorem witness_LogoutWithoutOffer :
    (∀ (a : Agent) (body : List Byte), (asking (agentPart a) .a 0x05 body).Served .a (ask 0x05 body) 0x05 .agents
      ∧ (asking (agentPart a) .a 0x05 body).agent 5 = a)
    ∧ (∀ (a : Agent) (body : List Byte), (asking (agentPart a) .s 0x0D body).Served .s (ask 0x0D body) 0x0D .config
      ∧ (asking (agentPart a) .s 0x0D body).agent 5 = a)
    ∧ readSlot [0, 5] = some 5 ∧ readForce [0, 5, 1, 0] = some { slot := 5, action := .logout, reason := 0 }
    ∧ readForce [0, 5, 3, 255] = some { slot := 5, action := .logoutNow, reason := 255 } ∧ (5 : Nat) < 1024
    ∧ ∀ state pending, ∃ a : Agent, a.state = state ∧ a.home = some .a ∧ a.pending = pending ∧ a.offer = none ∧ a.call = none :=
  ⟨fun a body => served_agentPart a .a _ body _, fun a body => served_agentPart a .s _ body _, rfl, rfl, rfl, by decide,
    agents_in_each_state⟩

/-- Call 6 of Link A, waiting alone in queue 1 and offered to agent 5 of Link A with token 9 and deadline 150. -/
def offerPart (a : Agent) : State :=
  { agentPart a with
    tick := 150, token := 9, linkA := { openLink with reserved := 2 }, queues := [(1, { enabledQueue with order := [6] })]
    calls := [(6, { waitingCall 1 3 10 none with state := .offering, redirects := 6, offer := some { token := 9, agent := 5, deadline := 150 } })] }

/-- The offer of `offerPart` as the call record holds it. -/
def offerOfCall : CallOffer := { token := 9, agent := 5, deadline := 150 }

/-- The call of `offerPart`. -/
def offeredCall : Call := { waitingCall 1 3 10 none with state := .offering, redirects := 6, offer := some offerOfCall }

/-- The RESERVED agent of `offerPart`. -/
def reservedAgent (pending : PendingChange) (missLimit : Nat) : Agent :=
  { availableAgent 2 0 with state := .reserved, offer := some { token := 9, call := 6 }, lastToken := 9, pending := pending
                            missLimit := missLimit }

/-- The offer's records and entries stand in `offerPart` whatever request is taken. -/
theorem offerPart_records (l : Link) (kind : Byte) (body : List Byte) (pending : PendingChange) (missLimit : Nat) :
    let s := asking (offerPart (reservedAgent pending missLimit)) l kind body
    s.agent 5 = reservedAgent pending missLimit ∧ s.call? 6 = some offeredCall ∧ s.available = [] ∧ s.tick = 150
      ∧ (s.link .a).reserved = 2 ∧ s.NothingWaits .a ∧ s.WaitsAlone 6 := by
  refine ⟨by cases l <;> rfl, by cases l <;> rfl, by cases l <;> rfl, by cases l <;> rfl, by cases l <;> rfl,
    ⟨by cases l <;> rfl, by cases l <;> rfl, fun h _ => by cases l <;> cases h <;> rfl⟩, fun q y h => ?_⟩
  rw [queue_one _ 1 q { enabledQueue with order := [6] } (by cases l <;> rfl)] at h
  split at h
  · simpa using h
  · simp [Queue.powerOn, QueueConfig.emptyQueue] at h

theorem witness_LogoutOfReservedAgent :
    (let s := asking (offerPart (reservedAgent .none 0)) .a 0x05 [0, 5]
     s.Served .a (ask 0x05 [0, 5]) 0x05 .agents ∧ readSlot [0, 5] = some 5 ∧ (5 : Nat) < 1024
      ∧ (s.agent 5).state = .reserved ∧ (s.agent 5).home = some .a ∧ (s.agent 5).call = none
      ∧ (s.agent 5).offer = some { token := offerOfCall.token, call := 6 } ∧ s.call? 6 = some offeredCall
      ∧ offeredCall.state = .offering ∧ offeredCall.offer = some offerOfCall ∧ offerOfCall.agent = 5
      ∧ (∀ t, offeredCall.treatment = some t → t.state ≠ .held) ∧ 2 ≤ (s.link .a).reserved ∧ s.available = []
      ∧ s.NothingWaits offeredCall.owner)
    ∧ (asking (offerPart (reservedAgent .none 0)) .s 0x0D [0, 5, 1, 0]).Served .s (ask 0x0D [0, 5, 1, 0]) 0x0D .config
    ∧ readForce [0, 5, 1, 0] = some { slot := 5, action := .logout, reason := 0 }
    ∧ (asking (offerPart (reservedAgent .none 0)) .s 0x0D [0, 5, 3, 0]).Served .s (ask 0x0D [0, 5, 3, 0]) 0x0D .config
    ∧ readForce [0, 5, 3, 0] = some { slot := 5, action := .logoutNow, reason := 0 } :=
  ⟨⟨served_asking .., rfl, by decide, rfl, rfl, rfl, rfl, rfl, rfl, rfl, rfl, fun t h => (by cases h), by decide, rfl,
    (offerPart_records .a _ _ _ _).2.2.2.2.2.1⟩, served_asking .., rfl, served_asking .., rfl⟩

/-- An AGENT_UPDATE body that masks every field, with one skill. -/
def updateBody (slot queue : Nat) : List Byte := bytes16 slot ++ bytes16 31 ++ bytes32 7 ++ [3, 1] ++ bytes16 0 ++ [1, byte1 queue, 5]

theorem witness_AgentUpdateAppliesFields :
    (∀ (a : Agent) (body : List Byte), (asking (agentPart a) .a 0x08 body).Served .a (ask 0x08 body) 0x08 .agents
      ∧ (asking (agentPart a) .a 0x08 body).agent 5 = a)
    ∧ ((readUpdate (updateBody 1024 63)).map (·.slot) = some 1024)
    ∧ ((readUpdate (updateBody 5 64)).map fun b => (b.slot, b.skills.map fun ks => ks.map (·.queue))) = some (5, some [64])
    ∧ ((readUpdate (updateBody 5 63)).map fun b => (b.slot, b.skills.map fun ks => ks.map (·.queue))) = some (5, some [63])
    ∧ (∃ a : Agent, a.home = some .a ∧ a.state = .available) ∧ ∃ a : Agent, a.home = some .a ∧ a.state = .reserved :=
  ⟨fun a body => served_agentPart a .a _ body _, by decide +kernel, by decide +kernel, by decide +kernel,
    ⟨availableAgent 1 0, rfl, rfl⟩, ⟨reservedAgent .none 0, rfl, rfl⟩⟩

/-- A call that entered 2^31 − 1 ticks ago. -/
theorem witness_AgentAttemptChoosesBestCall :
    ∀ y c, ({ part with tick := 0x7FFFFFFF, calls := [(6, waitingCall 1 3 0 none)] } : State).call? y = some c →
      ((0x7FFFFFFF : Tick) - c.entry).toNat < 2 ^ 31 := by
  intro y c h
  rw [call_one _ 6 y _ rfl] at h
  split at h
  · cases h; decide
  · cases h

/-- Calls 6 and 7, of equal band and entry tick, at the heads of queues 1 and 2, and an agent that lists queue 2 first. -/
def levelPart : State :=
  { part with
    calls := [(6, waitingCall 1 3 0 none), (7, waitingCall 2 3 0 none)]
    queues := [(1, { enabledQueue with order := [6] }), (2, { enabledQueue with order := [7] })] }

/-- The tie of R61 goes to the lower queue number. -/
theorem witness_AgentAttemptChoosesBestCall_tie :
    levelPart.bestCall { availableAgent 2 0 with skills := [{ queue := 2, proficiency := 4 }, { queue := 1, proficiency := 4 }] }
      = some (6, waitingCall 1 3 0 none) := by decide +kernel

/-! ## Wrap-up -/

/-- The wrap record of chapter 4.11. -/
def wrapRecord : WrapRecord := { queue := 7, talk := 1500, start := 3660, deadline := 3960, granted := 30 }

theorem witness_WrapUpEndsAndExtends :
    (let s := asking { agentPart { availableAgent 7 0 with state := .wrapUp, wrap := some wrapRecord } with tick := 3960 } .a 0x09 [0, 5]
     (s.agent 5).wrap = some wrapRecord ∧ s.Served .a (ask 0x09 [0, 5]) 0x09 .agents ∧ readSlot [0, 5] = some 5 ∧ (5 : Nat) < 1024
      ∧ (s.agent 5).home = some .a ∧ (s.agent 5).state = .wrapUp ∧ 0 ≤ (s.tick - wrapRecord.deadline).toInt)
    ∧ (let s := asking (agentPart { availableAgent 7 0 with state := .wrapUp, wrap := some wrapRecord }) .a 0x0A [0, 5, 0xFF, 0xFF]
       s.Served .a (ask 0x0A [0, 5, 0xFF, 0xFF]) 0x0A .agents ∧ readExtend [0, 5, 0xFF, 0xFF] = some { slot := 5, requested := 65535 }
        ∧ (s.agent 5).home = some .a ∧ (s.agent 5).state = .wrapUp ∧ (s.agent 5).wrap = some wrapRecord) :=
  ⟨⟨rfl, served_asking .., rfl, by decide, rfl, rfl, by decide⟩, served_asking .., rfl, rfl, rfl, rfl⟩

/-- The AHT at both ends of its range, with the smallest and the largest smoothing shift, and a QUEUE_SET that does not reseed. -/
theorem witness_AhtMovesTowardSample :
    (∀ aht shift : Nat, (aht = 1 ∨ aht = 1048560) → (shift = 1 ∨ shift = 8) → ∃ s : State, (s.queue 63).aht = aht
      ∧ (s.queue 63).config.shift = shift ∧ (s.queue 63).HandleInRange) ∧ 0 ≤ 65535 ∧ 65535 ≤ 65535
    ∧ (asking part .s 0x0C (63 :: List.replicate 28 0)).Served .s (ask 0x0C (63 :: List.replicate 28 0)) 0x0C .config
    ∧ (readQueueSet (63 :: List.replicate 28 0)).map (fun b => (b.queue, b.reseed)) = some (63, false)
    ∧ ∃ t, exec (.queueSet .s) (asking part .s 0x0C (63 :: List.replicate 28 0)) = .next t := by
  refine ⟨fun aht shift ha hk => ?_, by decide, by decide, served_asking .., by decide, _, rfl⟩
  refine ⟨{ part with queues := [(63, { enabledQueue with aht := aht, config := { enabledQueue.config with shift := shift } })] }, rfl, rfl, ?_⟩
  rcases ha with rfl | rfl <;> rcases hk with rfl | rfl <;>
    exact ⟨by decide, by decide, by decide, by decide, by decide, by decide⟩

/-! ## Calls and offers -/

/-- A table with an entry for every key of a list finds each of them. -/
theorem find_map_of_mem {α : Type} (f : Nat → α) (k : Nat) (l : List Nat) (h : k ∈ l) :
    (Assoc.find k (l.map fun i => (i, f i))).isSome = true := by
  induction l with
  | nil => cases h
  | cons i l ih =>
    simp only [List.map_cons, Assoc.find]
    split
    · rfl
    · rename_i hi
      exact ih ((List.mem_cons.1 h).resolve_left fun e => hi e.symm)

/-- An ENABLED queue with an overflow target and a closed flag. -/
def chainQueue (target : Option Nat) (closed : Bool) : Queue :=
  { enabledQueue with config := { enabledQueue.config with overflowTarget := target }, closed := closed }

/-- The part with two queues, 62 and 63. -/
def chainPart (q62 q63 : Queue) : State := { part with queues := [(62, q62), (63, q63)] }

/-- Two closed queues that overflow into each other. -/
def loopPart : State := chainPart (chainQueue (some 63) true) (chainQueue (some 62) true)

/-- A CALL_ENTER body that names a queue, with priority 3. -/
def enterBody (queue : Byte) : List Byte := [0, 0, 0, 5, queue, 3, 0, 0, 0, 1]

theorem chainPart_order (q62 q63 : Queue) (h62 : q62.order = []) (h63 : q63.order = []) (q : Nat) :
    ((chainPart q62 q63).queue q).order = [] := by
  simp only [State.queue, Assoc.get, chainPart, Assoc.find]
  split
  · exact h62
  · split
    · exact h63
    · rfl

/-- The part with its first n call slots in use. -/
def filledPart (n : Nat) : State := { part with calls := (List.range n).map fun y => (y, waitingCall 5 0 0 none) }

theorem filledPart_call (n y : Nat) (h : y < n) (body : List Byte) :
    ((asking (filledPart n) .a 0x01 body).call? y).isSome = true :=
  find_map_of_mem _ y _ (List.mem_range.2 h)

theorem witness_CallEnterAnswers :
    (Link.a ≠ .s ∧ (∀ (s : State) (q : Byte), (asking s .a 0x01 (enterBody q)).Served .a (ask 0x01 (enterBody q)) 0x01 .calls)
      ∧ ∀ q : Byte, readCallEnter (enterBody q) = some { ref := 5, queue := q.toNat, priority := 3, key := 1 })
    ∧ (∀ y, y < 2048 → ((asking (filledPart 2048) .a 0x01 (enterBody 63)).call? y).isSome = true)
    ∧ ((asking loopPart .a 0x01 (enterBody 63)).call? 0 = none ∧ ∀ z, z < 0 → ((loopPart.call? z).isSome = true))
    ∧ (64 : Byte).toNat = 64 ∧ (part.queue 63).config.enabled = false ∧ (loopPart.queue 63).config.enabled = true
    ∧ (asking (chainPart (chainQueue none true) (chainQueue (some 62) true)) .a 0x01 (enterBody 63)).arrivalChain 9 63 0 [] none
      = .queueClosed
    ∧ (asking loopPart .a 0x01 (enterBody 63)).arrivalChain 9 63 0 [] none = .redirectLimit
    ∧ (asking (chainPart (chainQueue none false) (chainQueue (some 62) true)) .a 0x01 (enterBody 63)).arrivalChain 9 63 0 [] none
      = .placed { queue := 62, redirects := 1, passed := [63] } := by
  refine ⟨⟨by decide, fun s q => served_asking .., fun q => ?_⟩, fun y hy => filledPart_call 2048 y hy _, ⟨rfl, ?_⟩, by decide,
    by decide, by decide, by decide +kernel, by decide +kernel, by decide +kernel⟩
  · simp [readCallEnter, enterBody, u32, u16, u8]
  · intro z h; omega

/-- A ladder of queues 56 to 63, each with the next as its overflow target: closed, but for queue 60, which is over-wait at every
wait short of unknown where it is not closed, and for the last, which passes where it is not closed. -/
def ladderPart (closed60 closed63 : Bool) : State :=
  { part with
    queues := (List.range 7).map (fun i =>
        (56 + i, if i = 4 then
            { chainQueue (some 61) closed60 with config := { (chainQueue (some 61) closed60).config with maxWait := some 65534 } }
          else chainQueue (some (57 + i)) true))
      ++ [(63, chainQueue none closed63)] }

/-- The overflow target of a queue, where it is enabled. -/
def targetOf (s : State) (q : Nat) : Option Nat := (s.queue q).config.overflowTarget.filter fun t => (s.queue t).config.enabled

/-- A path of n diverts, each queue before the last closed or over-wait. -/
def divertsOn (s : State) (path : Nat → Nat) (n : Nat) : Prop :=
  ∀ i, i < n → ((s.queue (path i)).closed = true
      ∨ ∃ w, (s.queue (path i)).config.maxWait = some w ∧ w < (s.queue (path i)).ewt ((s.queue (path i)).order.length + 1))
    ∧ targetOf s (path i) = some (path (i + 1))

theorem ladder_diverts (closed60 closed63 : Bool) (first n : Nat) (h : 56 ≤ first) (hn : first + n ≤ 63) :
    divertsOn (ladderPart closed60 closed63) (fun i => first + i) n := by
  intro i hi
  obtain ⟨k, hk⟩ : ∃ k, first + i = 56 + k := ⟨first + i - 56, by omega⟩
  have : k < 7 := by omega
  show ((_ : Bool) = true ∨ ∃ w, _) ∧ _
  simp only [← Nat.add_assoc, hk]
  clear hk hi hn h
  match k, this with
  | 0, _ | 1, _ | 2, _ | 3, _ | 5, _ | 6, _ =>
    exact ⟨.inl (by cases closed60 <;> cases closed63 <;> rfl), by cases closed60 <;> cases closed63 <;> rfl⟩
  | 4, _ =>
    exact ⟨.inr ⟨65534, by cases closed60 <;> cases closed63 <;> rfl, by cases closed60 <;> cases closed63 <;> decide +kernel⟩,
      by cases closed60 <;> cases closed63 <;> rfl⟩

/-- The arrival chains: seven diverts to a queue that passes; seven diverts to a closed end, with every queue closed and with an
over-wait queue on the way; and eight diverts. -/
theorem witness_ArrivalChainFollowsDiverts :
    (∀ closed60 closed63, divertsOn (ladderPart closed60 closed63) (fun i => 56 + i) 7)
    ∧ ((ladderPart true false).queue 63).closed = false ∧ ((ladderPart true false).queue 63).config.maxWait = none
    ∧ (((ladderPart false true).queue 63).closed = true ∧ targetOf (ladderPart false true) 63 = none
      ∧ ((ladderPart false true).queue 60).closed = false
      ∧ ∀ i, 60 < i → i ≤ 63 → ((ladderPart false true).queue i).closed = true)
    ∧ (∀ i, i ≤ 7 → ((ladderPart true true).queue (56 + i)).closed = true)
    ∧ divertsOn loopPart (fun i => 62 + i % 2) 8 := by
  refine ⟨fun a b => ladder_diverts a b 56 7 (by decide) (by decide), by decide +kernel, by decide +kernel,
    ⟨by decide +kernel, by decide +kernel, by decide +kernel, fun i h hi => ?_⟩, fun i hi => ?_, fun i hi => ?_⟩
  · obtain rfl | rfl | rfl : i = 61 ∨ i = 62 ∨ i = 63 := by omega
    all_goals rfl
  · match i, hi with
    | 0, _ | 1, _ | 2, _ | 3, _ | 4, _ | 5, _ | 6, _ | 7, _ => rfl
  · match i, hi with
    | 0, _ | 1, _ | 2, _ | 3, _ | 4, _ | 5, _ | 6, _ | 7, _ => exact ⟨.inl rfl, rfl⟩

/-- The moves of a call of queue 5 over the ladder from queue 57: to queue 63 with seven redirects in all, to nowhere at a closed
end, to an exit at the limit; and of a call of queue 63, to nowhere at its own queue. -/
theorem witness_ArrivalChainFollowsDiverts_moves :
    (divertsOn (ladderPart true false) (fun i => 57 + i) 6 ∧ divertsOn (ladderPart true true) (fun i => 57 + i) 6
      ∧ divertsOn (ladderPart true true) (fun i => 57 + i) 5)
    ∧ ((ladderPart true true).queue 57).config.enabled = true ∧ (∀ i, i ≤ 6 → 57 + i ≠ 5) ∧ (∀ i, i ≤ 5 → 57 + i ≠ 63)
    ∧ 0 + 1 + 6 ≤ 7 ∧ 1 + 1 + 5 = 7 ∧ 0 + 1 + 5 < 7
    ∧ targetOf (ladderPart true true) 63 = none ∧ targetOf (ladderPart true true) 62 = some 63
    ∧ ((ladderPart true true).queue 62).closed = true
    ∧ (part.queue 63).config.enabled = false :=
  ⟨⟨ladder_diverts _ _ 57 6 (by decide) (by decide), ladder_diverts _ _ 57 6 (by decide) (by decide),
      ladder_diverts _ _ 57 5 (by decide) (by decide)⟩, rfl, fun i _ => by omega, fun i _ => by omega, by decide, by decide, by decide,
    rfl, rfl, rfl, rfl⟩

/-- Call 6 of queue 5 at an OVERFLOW step to a queue, with so many redirects, on the ladder whose last queue passes. -/
def overflowPart (queue redirects : Nat) : State :=
  { ladderPart true false with
    tick := 99, patterns0 := [(0, [.music 7 0, .overflow queue, .silence 0])]
    calls := [(6, { waitingCall 5 3 0 none with
      redirects := redirects
      treatment := some { bank := .bank0, pattern := 0, step := 0, state := .running, deadline := some 99, loop := 0, source := .none
                          lastProgramme := none, heldSource := none } })] }

/-- The three outcomes of an OVERFLOW step. -/
theorem witness_ArrivalChainFollowsDiverts_step :
    (∀ q n, ∃ c t, (overflowPart q n).call? 6 = some c ∧ c.treatment = some t ∧ c.owner.highway? = some .a ∧ c.state = .waiting
      ∧ t.deadline = some 99 ∧ 0 ≤ ((overflowPart q n).tick - 99).toInt
      ∧ ((overflowPart q n).pattern t.bank t.pattern)[t.step + 1]? = some (.overflow q)
      ∧ ((overflowPart q n).pattern t.bank t.pattern)[t.step + 2]? = some (soundStep none 0)
      ∧ (∀ ts, t.source ≠ .personal ts) ∧ 0 < (overflowPart q n).freeNotices c.owner)
    ∧ ((overflowPart 5 0).call? 6).map ((overflowPart 5 0).moveChain · 5) = some .stays
    ∧ ((overflowPart 63 7).call? 6).map ((overflowPart 63 7).moveChain · 63) = some .exits
    ∧ (((overflowPart 57 0).call? 6).map ((overflowPart 57 0).moveChain · 57)
        = some (.moves { queue := 63, redirects := 7, passed := [57, 58, 59, 60, 61, 62] })
      ∧ (overflowPart 57 0).pattern (overflowPart 57 0).activeBank ((overflowPart 57 0).queue 63).config.pattern
        = .music 7 0 :: [.overflow 57, .silence 0]
      ∧ (overflowPart 57 0).heldTimeslot .a 6 = none ∧ ((overflowPart 57 0).highway .a).deferral = []
      ∧ ((overflowPart 57 0).link .a).listenOrder = []
      ∧ ∀ x, x ∈ (overflowPart 57 0).available ∨ ((overflowPart 57 0).agent x).state = .available →
        (overflowPart 57 0).qualified ((overflowPart 57 0).agent x) 63 = false) :=
  ⟨fun _ _ => ⟨_, _, rfl, rfl, rfl, rfl, rfl, (by decide : 0 ≤ ((99 : Tick) - 99).toInt), rfl, rfl, fun _ h => (by cases h),
      (by decide : 0 < part.freeNotices .a)⟩, by decide +kernel,
    by decide +kernel, by decide +kernel, rfl, rfl, rfl, rfl, fun _ _ => rfl⟩

theorem witness_CallEnterPlacesCall :
    (let s := asking { chainPart enabledQueue enabledQueue with patterns0 := [(0, [.music 7 0])] } .a 0x01 (enterBody 63)
     Link.a.highway? = some .a ∧ s.Served .a (ask 0x01 (enterBody 63)) 0x01 .calls
      ∧ (readCallEnter (enterBody 63)).map (·.queue) = some 63 ∧ s.call? 0 = none ∧ (s.queue 63).config.enabled = true
      ∧ s.arrivalChain 9 63 0 [] none = .placed { queue := 63, redirects := 0, passed := [] } ∧ (∀ q, 0 ∉ (s.queue q).order)
      ∧ s.pattern s.activeBank (s.queue 63).config.pattern = [.music 7 0] ∧ 0 < s.freeNotices .a
      ∧ ∀ x, x ∈ s.available ∨ (s.agent x).state = .available → s.qualified (s.agent x) 63 = false) := by
  refine ⟨rfl, served_asking .., rfl, rfl, rfl, by decide +kernel, fun q h => ?_, rfl, by decide, fun x h => ?_⟩
  · have : ((chainPart enabledQueue enabledQueue).queue q).order = [] := chainPart_order _ _ rfl rfl q
    exact absurd (this ▸ h : 0 ∈ ([] : List Nat)) (by simp)
  · rcases h with h | h
    · exact absurd h (by simp [asking, State.setLink, chainPart, part, State.reset])
    · exact absurd h (show AgentState.loggedOut ≠ .available by decide)

/-- An affinity queue that the caller's last agent can serve: agent 5, of Link A or of Link B. -/
def affinityPart (home : Link) : State :=
  { part with
    patterns0 := [(0, [.music 7 0])], recent := [{ key := 1, agent := 5 }], available := [5]
    agents := [(5, { availableAgent 63 0 with home := some home })]
    queues := [(63, { enabledQueue with config := { enabledQueue.config with affinity := true } })] }

theorem witness_CallEnterPlacesCall_affinity : ∀ home, home ≠ Link.s →
    let s := asking (affinityPart home) .a 0x01 (enterBody 63)
    s.Served .a (ask 0x01 (enterBody 63)) 0x01 .calls
      ∧ (readCallEnter (enterBody 63)).map (fun b => (b.queue, b.key)) = some (63, 1) ∧ s.call? 0 = none
      ∧ (s.queue 63).config.enabled = true
      ∧ s.arrivalChain 9 63 0 [] none = .placed { queue := 63, redirects := 0, passed := [] } ∧ (∀ q, (s.queue q).order = [])
      ∧ s.pattern s.activeBank (s.queue 63).config.pattern = [.music 7 0] ∧ (s.queue 63).config.affinity = true
      ∧ s.recent.find? (fun e => some (1 : Word32) == some e.key) = some { key := 1, agent := 5 } ∧ (s.agent 5).state = .available
      ∧ (s.agent 5).home = some home ∧ s.qualified (s.agent 5) 63 = true ∧ 4 ≤ s.freeNotices .a ∧ 2 ≤ s.freeNotices home := by
  intro home h
  refine ⟨served_asking .., rfl, rfl, rfl, by cases home <;> decide +kernel, fun q => ?_, rfl, rfl, rfl, rfl, rfl, rfl,
    by cases home <;> decide, by cases home <;> decide⟩
  rw [queue_one _ 63 q _ rfl]
  split <;> rfl

/-- The part with one call record, in slot 6. -/
def callPart (c : Call) : State := { part with calls := [(6, c)] }

/-- A request about any call record at all: the record stands in slot 6, and the request is taken. -/
theorem served_callPart (c : Call) (l : Link) (kind : Byte) (body : List Byte) (cls : RequestClass) :
    (asking (callPart c) l kind body).Served l (ask kind body) kind cls ∧ (asking (callPart c) l kind body).call? 6 = some c :=
  ⟨served_asking .., by cases l <;> rfl⟩

theorem witness_CallWithdrawRemovesCall :
    (∀ (c : Call) (body : List Byte), (asking (callPart c) .a 0x02 body).Served .a (ask 0x02 body) 0x02 .calls
      ∧ (asking (callPart c) .a 0x02 body).call? 6 = some c)
    ∧ readSlot [8, 0] = some 2048 ∧ readSlot [7, 0xFF] = some 2047 ∧ (callPart offeredCall).call? 2047 = none ∧ readSlot [0, 6] = some 6
    ∧ { offeredCall with owner := .b }.owner ≠ .a ∧ offeredCall.owner = .a ∧ offeredCall.state = .offering
    ∧ (waitingCall 1 0 0 none).state = .waiting
    ∧ (let s := asking (offerPart (reservedAgent (.notReady 15) 0)) .a 0x02 [0, 6]
       s.Served .a (ask 0x02 [0, 6]) 0x02 .calls ∧ s.call? 6 = some offeredCall ∧ offeredCall.offer = some offerOfCall
        ∧ (s.agent offerOfCall.agent).state = .reserved ∧ (s.agent offerOfCall.agent).home = some .a ∧ s.WaitsAlone 6
        ∧ s.NothingWaits .a ∧ 2 ≤ (s.link .a).reserved ∧ (s.agent offerOfCall.agent).pending = .notReady 15)
    ∧ ∃ s : State, s.Served .a (ask 0x02 [0, 6]) 0x02 .calls ∧ s.call? 6 = some offeredCall ∧ s.WaitsAlone 6
        ∧ s.NothingWaits .a ∧ 2 ≤ (s.link .a).reserved ∧ (s.agent offerOfCall.agent).pending = .none :=
  ⟨fun c body => served_callPart c .a _ body _, rfl, rfl, rfl, rfl, by decide, rfl, rfl, rfl,
    ⟨served_asking .., rfl, rfl, rfl, rfl, (offerPart_records .a _ _ _ _).2.2.2.2.2.2,
      (offerPart_records .a _ _ _ _).2.2.2.2.2.1, by decide, rfl⟩,
    asking (offerPart (reservedAgent .none 0)) .a 0x02 [0, 6], served_asking .., rfl, (offerPart_records .a _ _ _ _).2.2.2.2.2.2,
    (offerPart_records .a _ _ _ _).2.2.2.2.2.1, by decide, rfl⟩

theorem witness_CallReleaseStartsWrapUp :
    (∀ (c : Call) (body : List Byte), (asking (callPart c) .a 0x03 body).Served .a (ask 0x03 body) 0x03 .calls
      ∧ (asking (callPart c) .a 0x03 body).call? 6 = some c)
    ∧ readSlot [8, 0] = some 2048 ∧ readSlot [0, 6] = some 6 ∧ { offeredCall with owner := .b }.owner ≠ .a
    ∧ (offeredCall.owner = .a ∧ offeredCall.state ≠ .connected)
    ∧ (∃ c : Call, c.owner = .a ∧ c.state = .connected ∧ c.agent = none)
    ∧ ∃ c : Call, c.owner = .a ∧ c.state = .connected ∧ c.agent = some 5 ∧ c.connectTick = some 9 :=
  ⟨fun c body => served_callPart c .a _ body _, rfl, rfl, by decide, ⟨rfl, by decide⟩,
    ⟨{ offeredCall with state := .connected }, rfl, rfl, rfl⟩,
    ⟨{ offeredCall with state := .connected, agent := some 5, connectTick := some 9 }, rfl, rfl, rfl, rfl⟩⟩

theorem witness_AcceptConnectsCall :
    (let s := asking (offerPart (reservedAgent .logout 0)) .a 0x0B [0, 5, 0, 9, 1]
     s.Served .a (ask 0x0B [0, 5, 0, 9, 1]) 0x0B .agents
      ∧ readOfferReply [0, 5, 0, 9, 1] = some { slot := 5, token := 9, accepts := true } ∧ (s.agent 5).home = some .a
      ∧ (s.agent 5).state = .reserved ∧ (s.agent 5).offer = some { token := 9, call := 6 } ∧ s.call? 6 = some offeredCall
      ∧ offeredCall.offer = some offerOfCall ∧ offerOfCall.token = 9 ∧ s.WaitsAlone 6 ∧ s.NothingWaits .a
      ∧ offeredCall.owner = .a ∧ 2 ≤ (s.link .a).reserved) :=
  ⟨served_asking .., rfl, rfl, rfl, rfl, rfl, rfl, rfl, (offerPart_records .a _ _ _ _).2.2.2.2.2.2,
    (offerPart_records .a _ _ _ _).2.2.2.2.2.1, rfl, by decide⟩

/-- The three ways an offer's failure settles the agent: at its miss limit, by a pending change, and AVAILABLE with no skill. -/
theorem witness_FailedOfferSettlesCallAndAgent :
    (∀ a : Agent, a = reservedAgent .none 1 ∨ a = reservedAgent (.notReady 15) 0 ∨ a = { reservedAgent .none 0 with skills := [] } →
      let s := asking (offerPart a) .a 0x0B [0, 5, 0, 9, 2]
      s.agent 5 = a ∧ a.home = some .a ∧ a.state = .reserved ∧ a.offer = some { token := offerOfCall.token, call := 6 }
        ∧ s.call? 6 = some offeredCall ∧ offeredCall.state = .offering ∧ offeredCall.offer = some offerOfCall
        ∧ offerOfCall.agent = 5 ∧ offeredCall.redirects < 7 ∧ (∀ t, offeredCall.treatment = some t → t.state ≠ .held)
        ∧ s.available = [] ∧ s.NothingWaits .a ∧ offeredCall.owner = .a ∧ 2 ≤ (s.link .a).reserved
        ∧ s.Served .a (ask 0x0B [0, 5, 0, 9, 2]) 0x0B .agents
        ∧ readOfferReply [0, 5, 0, 9, 2] = some { slot := 5, token := offerOfCall.token, accepts := false }
        ∧ 0 ≤ (s.tick - offerOfCall.deadline).toInt
        ∧ (a.missLimit = 0 ∧ a.pending = .none → ∀ q, s.qualified a q = false)) := by
  intro a ha
  have h : a.home = some .a ∧ a.state = .reserved ∧ a.offer = some { token := offerOfCall.token, call := 6 } := by
    rcases ha with rfl | rfl | rfl <;> exact ⟨rfl, rfl, rfl⟩
  refine ⟨rfl, h.1, h.2.1, h.2.2, rfl, rfl, rfl, rfl, by decide, fun t ht => (by cases ht), rfl,
    ⟨rfl, rfl, fun h e => by cases e; rfl⟩, rfl, Nat.le_refl 2, served_asking .., rfl,
    (by decide : 0 ≤ ((150 : Tick) - offerOfCall.deadline).toInt), fun hn q => ?_⟩
  rcases ha with rfl | rfl | rfl
  · exact absurd hn.1 (by decide)
  · exact absurd hn.2 (by decide)
  · rfl

/-- A treatment held at step 0 of pattern 0 of bank 0. -/
def heldTreatment : Treatment :=
  { bank := .bank0, pattern := 0, step := 0, state := .held, deadline := none, loop := 0, source := .none, lastProgramme := none
    heldSource := none }

/-- An offered call that has 7 redirects, and one whose treatment is held at an EXIT step with reason 15. -/
theorem witness_FailedOfferSettlesCallAndAgent_exits :
    ∀ c : Call, c = { offeredCall with redirects := 7 } ∨ c = { offeredCall with treatment := some heldTreatment } →
      let s := asking { offerPart (reservedAgent .none 1) with calls := [(6, c)], patterns0 := [(0, [.exit 15])] } .a 0x0B [0, 5, 0, 9, 2]
      s.call? 6 = some c ∧ c.state = .offering ∧ c.offer = some offerOfCall ∧ offerOfCall.agent = 5
        ∧ s.agent 5 = reservedAgent .none 1 ∧ s.available = [] ∧ s.NothingWaits .a ∧ c.owner = .a ∧ 2 ≤ (s.link .a).reserved
        ∧ (s.link .a).up = true ∧ (s.link .a).SpaceKept
        ∧ ((c.redirects = 7 ∧ 16 = 16) ∨ (c.redirects < 7 ∧ c.exitPending = none ∧ ∃ t, c.treatment = some t ∧ t.state = .held
          ∧ (s.pattern t.bank t.pattern)[t.step]? = some (.exit 15)))
        ∧ s.Served .a (ask 0x0B [0, 5, 0, 9, 2]) 0x0B .agents
        ∧ readOfferReply [0, 5, 0, 9, 2] = some { slot := 5, token := offerOfCall.token, accepts := false }
        ∧ 0 ≤ (s.tick - offerOfCall.deadline).toInt := by
  intro c hc
  have h : c.state = .offering ∧ c.offer = some offerOfCall ∧ c.owner = .a := by
    rcases hc with rfl | rfl <;> exact ⟨rfl, rfl, rfl⟩
  refine ⟨rfl, h.1, h.2.1, rfl, rfl, rfl, ⟨rfl, rfl, fun h e => by cases e; rfl⟩, h.2.2, Nat.le_refl 2, rfl,
    (show ((asking (offerPart (reservedAgent .none 1)) .a 0x0B [0, 5, 0, 9, 2]).link .a).SpaceKept from ⟨by decide, by decide⟩), ?_,
    served_asking .., rfl, (by decide : 0 ≤ ((150 : Tick) - offerOfCall.deadline).toInt)⟩
  rcases hc with rfl | rfl
  · exact .inl ⟨rfl, rfl⟩
  · exact .inr ⟨by decide, rfl, _, rfl, rfl, rfl⟩

theorem witness_LateOfferReplyChangesNothing :
    (∀ (a : Agent) (body : List Byte), (asking (agentPart a) .a 0x0B body).Served .a (ask 0x0B body) 0x0B .agents
      ∧ (asking (agentPart a) .a 0x0B body).agent 5 = a)
    ∧ readOfferReply [4, 0, 0, 9, 1] = some { slot := 1024, token := 9, accepts := true }
    ∧ readOfferReply [0, 5, 0, 9, 2] = some { slot := 5, token := 9, accepts := false }
    ∧ (∃ a : Agent, a.state ≠ .loggedOut ∧ a.home ≠ some .a)
    ∧ (∃ a : Agent, a.state = .loggedOut ∧ a.lastOutcome = some .withdrawn ∧ a.lastToken ≠ 0 ∧ a.lastToken = 9)
    ∧ (∃ a : Agent, a.home = some .a ∧ a.state = .reserved ∧ (∀ f, a.offer = some f → f.token ≠ 9) ∧ a.lastToken ≠ 9)
    ∧ ∃ a : Agent, a.home = some .a ∧ a.state ≠ .reserved ∧ a.lastOutcome = none :=
  ⟨fun a body => served_agentPart a .a _ body _, rfl, rfl, ⟨{ availableAgent 1 0 with home := some .b }, by decide, by decide⟩,
    ⟨{ Agent.reset with lastToken := 9, lastOutcome := some .withdrawn }, rfl, rfl, by decide, rfl⟩,
    ⟨{ availableAgent 1 0 with state := .reserved, offer := some { token := 10, call := 6 }, lastToken := 10 }, rfl, rfl,
      fun f h => (by cases h; decide), by decide⟩, ⟨availableAgent 1 0, rfl, by decide, rfl⟩⟩

/-- A call whose promotion deadline is reached. -/
theorem witness_PromotionLiftsCall :
    ∃ s : State, s.call? 6 = some (waitingCall 1 6 10 (some 99)) ∧ (waitingCall 1 6 10 (some 99)).promotion = some 99
      ∧ 0 ≤ (s.tick - 99).toInt :=
  ⟨{ callPart (waitingCall 1 6 10 (some 99)) with tick := 99 }, rfl, rfl, by decide⟩

/-! ## Treatment and playout -/

/-- A treatment of pattern 0 of bank 0 at step 0. -/
def treatmentOf (state : TreatmentState) (deadline : Option Tick) (source : Source) (held : Option Source) : Treatment :=
  { bank := .bank0, pattern := 0, step := 0, state := state, deadline := deadline, loop := 0, source := source
    lastProgramme := some 2, heldSource := held }

/-- Call 6 of Link A in treatment, with the steps of its pattern. -/
def treatedPart (t : Treatment) (steps : List PatternStep) : State :=
  { callPart { waitingCall 1 0 0 none with treatment := some t } with tick := 99, patterns0 := [(0, steps)] }

/-- A next MUSIC step with a free entry or of the programme heard already, and a pattern that has run off its end. -/
theorem witness_NextStepRuns :
    (∀ (t : Treatment) (steps : List PatternStep), ∃ c, (treatedPart t steps).call? 6 = some c ∧ c.treatment = some t
      ∧ c.owner.highway? = some .a ∧ (treatedPart t steps).pattern .bank0 0 = steps ∧ 0 < (treatedPart t steps).freeNotices c.owner)
    ∧ (treatmentOf .running (some 99) (.programme 3) none).deadline = some 99
    ∧ 0 ≤ ((treatedPart (treatmentOf .running (some 99) .none none) []).tick - 99).toInt
    ∧ ([PatternStep.silence 5, .music 3 0][0 + 1]? = some (.music 3 0) ∧ [PatternStep.silence 5].length = 0 + 1)
    ∧ ∃ (s : State) (e : Deferral), s.highwayA.deferral.find? (fun e => e.call == 6) = some e ∧ 0 ≤ (s.tick - e.deadline).toInt
      ∧ ∃ c t, s.call? 6 = some c ∧ c.treatment = some t ∧ t.deadline = none
        ∧ (s.pattern t.bank t.pattern)[t.step + 1]? = some (.music 3 0) := by
  refine ⟨fun t steps => ⟨_, rfl, rfl, rfl, rfl, (by decide : 0 < part.freeNotices .a)⟩, rfl, by decide, ⟨rfl, rfl⟩,
    { treatedPart (treatmentOf .awaitChannel none .none none) [.position, .music 3 0] with
      highwayA := { HighwayRec.powerOn with deferral := [{ call := 6, deadline := 99 }] } }, _, rfl, by decide,
    _, _, rfl, rfl, rfl, rfl⟩

/-- The timeless steps: a GOTO that loops for ever, one whose count is used up, one past the end; a RAISE; chains of one, of sixteen
and of more than sixteen GOTO steps; and the EXIT and OVERFLOW steps of an OFFERING call. -/
theorem witness_NextStepRuns_timeless :
    (∀ (t : Treatment) (steps : List PatternStep), ∃ c, (treatedPart t steps).call? 6 = some c ∧ c.treatment = some t
      ∧ c.owner.highway? = some .a ∧ c.state = .waiting ∧ (treatedPart t steps).pattern .bank0 0 = steps)
    ∧ (let steps : List PatternStep := [.silence 5, .goto 2 0, .silence 9]
       steps[0 + 1]? = some (.goto 2 0) ∧ steps[2]? = some (soundStep none 9))
    ∧ (let steps : List PatternStep := [.silence 5, .goto 0 255, .music 3 0]
       steps[0 + 1]? = some (.goto 0 255) ∧ ¬((255 : Nat) = 0 ∨ 255 < 255) ∧ steps[1 + 1]? = some (soundStep (some 3) 0))
    ∧ (let steps : List PatternStep := [.silence 5, .goto 15 1]
       steps[0 + 1]? = some (.goto 15 1) ∧ steps.length ≤ 15)
    ∧ (let steps : List PatternStep := [.silence 5, .raise 7, .silence 0]
       steps[0 + 1]? = some (.raise 7) ∧ steps[1 + 1]? = some (soundStep none 0))
    ∧ (let steps : List PatternStep := .silence 5 :: (List.range 14).map (fun i => .goto (i + 2) 0) ++ [.goto 0 0]
       let path (i : Nat) : Nat := if i < 15 then i + 1 else 0
       (∀ k, k < 1 → steps[path k]? = some (.goto (path (k + 1)) 0)) ∧ ∀ k, k < 15 → steps[path k]? = some (.goto (path (k + 1)) 0))
    ∧ (let steps : List PatternStep := [.silence 5, .goto 1 0]
       ∀ k, k ≤ 16 → steps[(fun _ => 1) k]? = some (.goto ((fun _ => 1) (k + 1)) 0))
    ∧ ∃ (s : State) (c : Call) (t : Treatment), s.call? 6 = some c ∧ c.treatment = some t ∧ c.owner.highway? = some .a
      ∧ c.state = .offering ∧ t.deadline = some 99 ∧ (s.pattern t.bank t.pattern)[t.step + 1]? = some (.exit 15) :=
  ⟨fun _ _ => ⟨_, rfl, rfl, rfl, rfl, rfl⟩, ⟨rfl, rfl⟩, ⟨rfl, by decide, rfl⟩, ⟨rfl, by decide⟩, ⟨rfl, rfl⟩, ⟨by decide, by decide⟩,
    fun _ _ => rfl,
    { callPart { offeredCall with treatment := some (treatmentOf .running (some 99) .none none) } with
      tick := 99, patterns0 := [(0, [.silence 5, .exit 15])] }, _, _, rfl, rfl, rfl, rfl, rfl, rfl⟩

/-- The numbers where the clauses of the statement meet. -/
theorem witness_NumberSpokenBySegments :
    (19 : Nat) ≤ 19 ∧ (20 = 10 * 2 ∧ 90 = 10 * 9) ∧ (∀ n ∈ [21, 99], 20 ≤ n ∧ n ≤ 99 ∧ n % 10 ≠ 0) ∧ 100 ≤ 100 := by decide

/-- Call 6 behind call 5 in queue 1, with the queue's AHT and staffing weight. -/
def spokenPart (aht weight : Nat) : State :=
  { callPart (waitingCall 1 0 0 none) with queues := [(1, { enabledQueue with order := [5, 6], aht := aht, weight := weight })] }

/-- The waits where the clauses meet: no staff, a wait just past the largest known one, and that one, which is 110 minutes. -/
theorem witness_NumberSpokenBySegments_phrases :
    (∀ aht weight, (((spokenPart aht weight).queue (waitingCall 1 0 0 none).queue).order = [5] ++ 6 :: [] ∧ 6 ∉ [5])
      ∧ ((spokenPart aht weight).queue 1).aht = aht ∧ ((spokenPart aht weight).queue 1).weight = weight)
    ∧ (65534 * 0 < (1 + 1) * 28800 ∧ 65534 * 1 < (1 + 1) * 32768)
    ∧ (0 < 1 ∧ 65534 ≤ 65534 ∧ (65534 - 1) * 1 < (1 + 1) * 32767 ∧ (1 + 1) * 32767 ≤ 65534 * 1 ∧ (110 - 1) * 600 < 65534
      ∧ 65534 ≤ 110 * 600) :=
  ⟨fun _ _ => ⟨⟨rfl, by decide⟩, rfl, rfl⟩, by decide, by decide⟩

/-- A programme of n tracks. -/
def programmeOf (n : Nat) (order : TrackOrder) (start : Nat) : Programme :=
  { tracks := List.replicate n 5, order := order, start := start, state := .running, counter := 0, offset := 255 }

theorem witness_TrackOrderVisitsEachTrack :
    (programmeOf 8 .linear 7).start < (programmeOf 8 .linear 7).tracks.length
    ∧ (programmeOf 8 .interleaved 7).start < (programmeOf 8 .interleaved 7).tracks.length
    ∧ (programmeOf 6 .interleaved 5).start < (programmeOf 6 .interleaved 5).tracks.length := by decide

/-- A state that plays: programme 7 and the channel of timeslot 127 at the last byte of segment 5. -/
def playingPart : State :=
  { part with
    segments := [(5, { first := 16383, blocks := 1, lastBytes := 256 })], programmes := [(7, programmeOf 1 .linear 0)]
    highwayA := { HighwayRec.powerOn with
      channels := [(127, { state := .playing, holder := some 6, phrase := some [5], segIndex := 0, offset := 255 })] } }

/-- The last byte of the last track, after which the track counter goes back to 0. -/
theorem witness_TrackOrderVisitsEachTrack_counter :
    (7 : Nat) < 8 ∧ playingPart.TablesRising ∧ playingPart.programme 7 = programmeOf 1 .linear 0
    ∧ (programmeOf 1 .linear 0).state = .running
    ∧ (programmeOf 1 .linear 0).tracks[(programmeOf 1 .linear 0).track (programmeOf 1 .linear 0).counter]? = some 5
    ∧ playingPart.segment? 5 = some { first := 16383, blocks := 1, lastBytes := 256 }
    ∧ (programmeOf 1 .linear 0).offset + 1 = (1 - 1) * 256 + 256 :=
  ⟨by decide, ⟨rfl, rfl, rfl, rfl, rfl, rfl, rfl, rfl, fun h => by cases h <;> rfl⟩, rfl, rfl, by decide, rfl, by decide⟩

/-- Deadlines of four kinds one tick ahead, and a phrase that is still played in the last of its segments. -/
theorem witness_ClocksCountAndPlay_nothing_due :
    (earlyPart.IsDeadline 11 ∧ ∀ d, earlyPart.IsDeadline d → (earlyPart.tick - d).toInt < 0)
    ∧ playingPart.boundaryDue = false
    ∧ ∀ h ts, (playingPart.channel h ts).state = .playing →
      ∃ phrase, (playingPart.channel h ts).phrase = some phrase ∧ (playingPart.channel h ts).segIndex < phrase.length := by
  refine ⟨⟨.inr (.inr (.inr (.inr (.inr ⟨1023, rfl⟩)))), fun d h => ?_⟩, rfl, fun h ts hp => ?_⟩
  · have call {y : Nat} {c : Call} (h : earlyPart.call? y = some c) : earlyPart.call? 2047 = some c := by
      rw [call_one earlyPart 2047 y _ rfl] at h
      split at h
      · exact h
      · cases h
    have agent (x : Nat) : earlyPart.agent x = earlyPart.agent 1023 ∨ earlyPart.agent x = Agent.reset := by
      rw [agent_one earlyPart 1023 x _ rfl]
      split
      · exact .inl rfl
      · exact .inr rfl
    obtain ⟨y, c, o, hc, ho, rfl⟩ | ⟨y, c, hc, hp⟩ | ⟨y, c, t, hc, ht, hd⟩ | ⟨y, c, h, e, _, _, he, _⟩ | ⟨x, w, hw, rfl⟩ | ⟨x, hx⟩ := h
    · cases call hc; cases ho; decide
    · cases call hc; cases hp; decide
    · cases call hc; cases ht; cases hd; decide
    · cases h <;> cases he
    · obtain e | e := agent x <;> rw [e] at hw <;> cases hw
      decide
    · obtain e | e := agent x <;> rw [e] at hx <;> cases hx
      decide
  · cases h
    · by_cases e : 127 = ts
      · subst e; exact ⟨_, rfl, by decide⟩
      · revert hp
        simp [playingPart, State.channel, State.highway, Assoc.get, Assoc.find, e, Channel.free]
    · cases (show ChannelState.free = .playing from hp)

theorem witness_ClocksCountAndPlay :
    playingPart.TablesRising
    ∧ ((playingPart.programme 0).state ≠ .running ∧ (playingPart.channel .b 8).state ≠ .playing)
    ∧ (∃ s : State, (s.programme 7).state = .running ∧ ∀ g ∈ (s.programme 7).tracks, s.segment? g = none)
    ∧ ((playingPart.programme 7).state = .running
      ∧ (playingPart.programme 7).tracks[(playingPart.programme 7).track (playingPart.programme 7).counter]? = some 5
      ∧ playingPart.segment? 5 = some { first := 16383, blocks := 1, lastBytes := 256 } ∧ 255 < (1 - 1) * 256 + 256)
    ∧ ((playingPart.channel .a 127).state = .playing ∧ (playingPart.channel .a 127).phrase = some [5]
      ∧ ([5] : List Nat)[(playingPart.channel .a 127).segIndex]? = some 5
      ∧ ∀ f ∈ [5], ∃ d, playingPart.segment? f = some d ∧ 0 < (d.blocks - 1) * 256 + d.lastBytes) := by
  refine ⟨⟨rfl, rfl, rfl, rfl, rfl, rfl, rfl, rfl, fun h => by cases h <;> rfl⟩, ⟨by decide, by decide⟩,
    ⟨{ playingPart with segments := [] }, rfl, fun g _ => rfl⟩, ⟨rfl, by decide, rfl, by decide⟩, rfl, rfl, rfl, fun f hf => ?_⟩
  obtain rfl : f = 5 := by simpa using hf
  exact ⟨_, rfl, by decide⟩

/-- A programme of eight tracks whose first seven are undefined. -/
theorem witness_ClocksCountAndPlay_undefined :
    ∃ s : State, s.TablesRising ∧ (s.programme 7).state = .running ∧ (s.programme 7).counter < (s.programme 7).tracks.length
      ∧ (s.programme 7).tracks.length = 8
      ∧ (∀ i, i < 7 → ∃ f, (s.programme 7).tracks[(s.programme 7).track (((s.programme 7).counter + i) % 8)]? = some f
        ∧ s.segment? f = none)
      ∧ (s.programme 7).tracks[(s.programme 7).track (((s.programme 7).counter + 7) % 8)]? = some 5
      ∧ s.segment? 5 = some { first := 16383, blocks := 1, lastBytes := 256 } :=
  ⟨{ playingPart with programmes := [(7, { programmeOf 8 .linear 0 with tracks := List.replicate 7 4 ++ [5] })] },
    ⟨rfl, rfl, rfl, rfl, rfl, rfl, rfl, rfl, fun h => by cases h <;> rfl⟩, rfl, by decide, rfl,
    fun i hi => ⟨4, by match i, hi with | 0, _ | 1, _ | 2, _ | 3, _ | 4, _ | 5, _ | 6, _ => rfl, rfl⟩, rfl, rfl⟩

theorem witness_BlockBoundaryMovesChannels :
    part.boundaryDue = false ∧ ∃ s : State, s.boundaryDue = true ∧ s.TablesRising ∧ (∀ h, (s.highway h).deferral = [])
      ∧ (s.channel .a 8).state = .draining ∧ (s.channel .a 9).state = .bound ∧ (s.channel .a 9).phrase ≠ none
      ∧ (s.channel .a 10).state = .bound ∧ (s.channel .a 10).phrase = none ∧ (s.channel .a 127).state = .free :=
  ⟨rfl, { part with
      boundaryDue := true
      highwayA := { HighwayRec.powerOn with
        channels := [(8, Channel.draining), (9, { Channel.free with state := .bound, holder := some 1, phrase := some [5] }),
          (10, { Channel.free with state := .bound, holder := some 2 })] } },
    rfl, ⟨rfl, rfl, rfl, rfl, rfl, rfl, rfl, rfl, fun h => by cases h <;> rfl⟩, fun h => by cases h <;> rfl, rfl, rfl, by decide,
    rfl, rfl, rfl⟩

/-- Call 6 at the end of its phrase on timeslot 8, with so many notices queued on Link A. -/
def phrasePart (queued : Nat) : State :=
  { treatedPart (treatmentOf .playing none (.personal 8) none) [.position] with
    linkA := { openLink with outbound := List.replicate queued (.notice (.engineRestarted 0)) }
    highwayA := { HighwayRec.powerOn with
      channels := [(8, { state := .playing, holder := some 6, phrase := some [5], segIndex := 1, offset := 0 })] } }

theorem witness_PhraseEndReturnsCaller :
    (∀ n, ((phrasePart n).channel .a 8).state = .playing ∧ ((phrasePart n).channel .a 8).holder = some 6
      ∧ ((phrasePart n).channel .a 8).phrase = some [5] ∧ ([5] : List Nat).length ≤ ((phrasePart n).channel .a 8).segIndex
      ∧ ∃ c t, (phrasePart n).call? 6 = some c ∧ c.treatment = some t ∧ c.owner.highway? = some .a
        ∧ ((phrasePart n).pattern t.bank t.pattern).length = t.step + 1)
    ∧ 0 < (phrasePart 47).freeNotices .a ∧ (phrasePart 48).freeNotices .a = 0 :=
  ⟨fun n => ⟨rfl, rfl, rfl, Nat.le_refl 1, _, _, rfl, rfl, rfl, rfl⟩, by decide +kernel, by decide +kernel⟩

/-! ## Links -/

/-- A notice at the head of a full switching link on which nothing waits, and on Link S. -/
theorem witness_TransmissionRemovesHead :
    (∀ l, ∃ s : State, (s.link l).up = true ∧ (s.link l).outbound = .notice (.engineRestarted 0) :: List.replicate 47 (.notice (.engineRestarted 1))
      ∧ s.NothingWaits l ∧ s.available = [])
    ∧ (∃ (s : State) (r : Reply), (s.link .a).up = true ∧ (s.link .a).outbound = [.reply r] ∧ (OutEntry.reply r).isNotice = false) :=
  ⟨fun l => ⟨part.setLink l { openLink with
      outbound := .notice (.engineRestarted 0) :: List.replicate 47 (.notice (.engineRestarted 1)) },
      by cases l <;> rfl, by cases l <;> rfl,
      ⟨by cases l <;> rfl, by cases l <;> rfl, fun h _ => by cases l <;> cases h <;> rfl⟩, by cases l <;> rfl⟩,
    part.setLink .a { openLink with outbound := [.reply { tag := 1, kind := 0x81, status := .done, result := .bare }] }, _,
    rfl, rfl, rfl⟩

/-- Link A's queue is full of notices, and a call waits for an entry: by a pending exit, a held source, a held return, or at the
head of the deferral list. -/
def fullPart (c : Call) (step : PatternStep) (exits listens : List Nat) (deferral : List Deferral) : State :=
  { callPart c with
    vocabulary := { Vocabulary.powerOn with posBefore := some 5 }, segments := [(5, { first := 0, blocks := 1, lastBytes := 1 })]
    patterns0 := [(0, [step])]
    linkA := { openLink with
      outbound := List.replicate 48 (.notice (.engineRestarted 0)), exitOrder := exits, listenOrder := listens }
    highwayA := { HighwayRec.powerOn with
      deferral := deferral, channels := [(127, { Channel.free with state := .bound, holder := some 6 })] } }

/-- The head entry of the full queue leaves one entry free, whatever waits. -/
theorem witness_TransmissionRemovesHead_freed (c : Call) (step : PatternStep) (exits listens : List Nat) (deferral : List Deferral) :
    let s := fullPart c step exits listens deferral
    let freed := s.setLink .a { s.link .a with outbound := List.replicate 47 (.notice (.engineRestarted 0)) }
    (s.link .a).up = true
      ∧ (s.link .a).outbound = .notice (.engineRestarted 0) :: List.replicate 47 (.notice (.engineRestarted 0))
      ∧ (OutEntry.notice (.engineRestarted 0)).isNotice = true ∧ Link.a.highway? = some .a ∧ freed.freeNotices .a = 1
      ∧ (s.link .a).exitOrder = exits ∧ (s.link .a).listenOrder = listens ∧ (s.highway .a).deferral = deferral ∧ s.call? 6 = some c :=
  ⟨rfl, rfl, rfl, rfl, (by decide +kernel : (part.setLink .a { openLink with
      outbound := List.replicate 47 (.notice (.engineRestarted 0)) }).freeNotices .a = 1), rfl, rfl, rfl, rfl⟩

/-- A call in the deferral list of a highway on which every channel is DRAINING. -/
def drainingPart : State :=
  { part with highwayA := { HighwayRec.powerOn with
      deferral := [{ call := 6, deadline := 99 }], channels := (List.range 120).map fun i => (8 + i, Channel.draining) } }

/-- What waits in the clauses of one unit, and the two links freed at once. -/
theorem witness_TransmissionRemovesHead_work :
    ({ waitingCall 1 0 0 none with exitPending := some 15 } : Call).exitPending = some 15
    ∧ (treatmentOf .running none .none (some (.programme 7))).heldSource ≠ none
    ∧ ((treatmentOf .returning none (.personal 127) none).state = .returning
      ∧ (fullPart { waitingCall 1 0 0 none with treatment := some (treatmentOf .returning none (.personal 127) none) } .position [] [6]
        []).heldTimeslot .a 6 ≠ none)
    ∧ (let c : Call := { waitingCall 1 0 0 none with treatment := some (treatmentOf .awaitChannel none .none none) }
       let s := fullPart c .position [] [] [{ call := 6, deadline := 99 }]
       (s.highway .a).deferral = { call := 6, deadline := 99 } :: [] ∧ (s.channel .a 8).state = .free
        ∧ (s.pattern .bank0 0)[0]? = some .position ∧ s.assemble 6 c .position ≠ [])
    ∧ (∃ s : State, (s.link .a).exitOrder = [] ∧ (s.link .a).listenOrder = [] ∧ (s.highway .a).deferral ≠ []
      ∧ ∀ ts, 8 ≤ ts → ts < 128 → (s.channel .a ts).state ≠ .free)
    ∧ (∃ e : Ev, e.freedA = true ∧ e.freedB = true) ∧ ∃ e : Ev, e.freedA = false ∧ e.freedB = false := by
  refine ⟨rfl, by decide, ⟨rfl, by decide +kernel⟩, ⟨rfl, rfl, rfl, by decide +kernel⟩,
    ⟨drainingPart, rfl, rfl, by decide, fun ts h hts => ?_⟩,
    ⟨{ st := part, freedA := true, freedB := true }, rfl, rfl⟩, ⟨{ st := part }, rfl, rfl⟩⟩
  have every : ∀ k : Fin 120, (drainingPart.channel .a (8 + k.val)).state ≠ .free := by decide +kernel
  obtain ⟨k, rfl⟩ : ∃ k, ts = 8 + k := ⟨ts - 8, by omega⟩
  exact every ⟨k, by omega⟩

/-- Link A with a waiting call in treatment on timeslot 8 and an AVAILABLE agent. -/
def losePart : State :=
  { keptPart with
    calls := [(0, { waitingCall 5 7 4 none with treatment := some (treatmentOf .playing none (.personal 8) none) })]
    highwayA := { HighwayRec.powerOn with
      channels := [(8, { state := .playing, holder := some 0, phrase := some [5], segIndex := 0, offset := 0 })] } }

theorem witness_LinkLossAndRegain :
    (losePart.link .s).up = true ∧ (losePart.link .a).up = true ∧ Link.a ≠ .s ∧ losePart.TablesRising
    ∧ (∀ y c, losePart.call? y = some c → c.owner = .a → c.state = .waiting)
    ∧ (∀ x, (losePart.agent x).home = some .a → (losePart.agent x).offer = none ∧ (losePart.agent x).call = none)
    ∧ (∀ q, (losePart.queue q).order.Nodup)
    ∧ (∀ y c, losePart.call? y = some c → c.owner = .a → y ∈ (losePart.queue c.queue).order)
    ∧ (losePart.channel .a 8).state = .playing := by
  refine ⟨rfl, rfl, by decide, ⟨rfl, rfl, rfl, rfl, rfl, rfl, rfl, rfl, fun h => by cases h <;> rfl⟩, fun y c h _ => ?_,
    fun x _ => ?_, fun q => ?_, fun y c h _ => ?_, rfl⟩
  · rw [call_one losePart 0 y _ rfl] at h
    split at h
    · cases h; rfl
    · cases h
  · rw [agent_one losePart 3 x _ rfl]
    split <;> exact ⟨rfl, rfl⟩
  · rw [queue_one losePart 5 q _ rfl]
    split <;> simp [Queue.powerOn, QueueConfig.emptyQueue]
  · rw [call_one losePart 0 y _ rfl] at h
    split at h
    · cases h; subst y; decide
    · cases h

/-- The loss of Link A takes an offer and a connected call from agents of Link B, and that of Link B takes the agents from calls of
Link A. -/
theorem witness_LinkLossAndRegain_records :
    tiedPart.TablesRising ∧ tiedPart.RecordsAgree ∧ tiedPart.LinksBounded ∧ tiedPart.ReservationsExact
    ∧ (∀ k, tiedPart.NothingWaits k ∧ (tiedPart.link k).up = true)
    ∧ (∀ y c t, tiedPart.call? y = some c → c.treatment = some t → t.state ≠ .held)
    ∧ (∀ x q, tiedPart.qualified (tiedPart.agent x) q = false)
    ∧ ((tiedPart.agent 3).home = some .b ∧ (tiedPart.agent 3).offer = some { token := 9, call := 0 })
    ∧ (tiedPart.call? 0 = some tiedOffer ∧ tiedOffer.owner = .a)
    ∧ ((tiedPart.agent 4).call = some 2 ∧ tiedPart.call? 2 = some tiedConnection ∧ tiedConnection.owner = .a
      ∧ tiedConnection.connectTick = some 12) := by
  refine ⟨tiedPart_rising, tiedPart_records, tiedPart_links.1, tiedPart_links.2,
    fun k => ⟨⟨by cases k <;> rfl, by cases k <;> rfl, fun h _ => by cases h <;> rfl⟩, by cases k <;> rfl⟩,
    fun y c t h ht => ?_, fun x q => ?_, ⟨rfl, rfl⟩, ⟨rfl, rfl⟩, rfl, rfl, rfl, rfl⟩
  · obtain ⟨rfl, rfl⟩ | ⟨rfl, rfl⟩ := call_tied h <;> cases ht
    decide
  · exact agents_tied (p := fun a => tiedPart.qualified a q = false) rfl rfl rfl x

/-- A link that is DOWN with channels of its highway still draining, and with none that holds a phrase. -/
theorem witness_LinkLossAndRegain_regain : (∀ l, (State.reset.link l).up = false)
    ∧ ∃ s : State, (s.link .a).up = false ∧ (s.channel .a 8).state = .draining ∧ ∀ h ts, (s.channel h ts).phrase = none := by
  refine ⟨fun l => by cases l <;> rfl,
    { State.reset with highwayA := { HighwayRec.powerOn with channels := [(8, Channel.draining)] } }, rfl, rfl, fun h ts => ?_⟩
  cases h
  · show (Assoc.get Channel.free ts [(8, Channel.draining)]).phrase = none
    unfold Assoc.get
    simp only [Assoc.find]
    split <;> rfl
  · rfl

/-! ## Work that waits for notice space -/

/-- A link's call 6 with its exit pending, or with a held LISTEN, and one notice entry free. -/
def workPart (c : Call) (steps : List PatternStep) (exits listens : List Nat) : State :=
  { callPart c with
    patterns0 := [(0, steps)]
    linkA := { openLink with outbound := List.replicate 47 (.notice (.engineRestarted 0)), exitOrder := exits, listenOrder := listens }
    highwayA := { HighwayRec.powerOn with channels := [(127, { Channel.free with state := .bound, holder := some 6 })] } }

theorem witness_WaitingWorkResumes :
    (∃ (s : State) (c : Call), Link.a.highway? = some .a ∧ s.call? 6 = some c ∧ c.owner = .a ∧ 0 < s.freeNotices .a
      ∧ (s.link .a).exitOrder = [6] ∧ c.exitPending = some 15 ∧ c.treatment = none)
    ∧ (∃ (s : State) (c : Call) (t : Treatment), s.call? 6 = some c ∧ c.owner = .a ∧ 0 < s.freeNotices .a
      ∧ (s.link .a).exitOrder = [] ∧ (s.link .a).listenOrder = [6] ∧ c.treatment = some t ∧ t.heldSource = some (.programme 7)
      ∧ (s.pattern t.bank t.pattern)[t.step]? = some (.music 7 0))
    ∧ ∃ (s : State) (c : Call) (t : Treatment), s.call? 6 = some c ∧ c.owner = .a ∧ 0 < s.freeNotices .a
      ∧ (s.link .a).exitOrder = [] ∧ (s.link .a).listenOrder = [6] ∧ c.treatment = some t ∧ t.heldSource = none
      ∧ t.state = .returning ∧ s.heldTimeslot .a 6 = some 127 ∧ (s.channel .a 127).phrase = none
      ∧ (s.pattern t.bank t.pattern).length = t.step + 1 :=
  ⟨⟨workPart { waitingCall 1 0 0 none with exitPending := some 15 } [] [6] [], _, rfl, rfl, rfl, by decide +kernel, rfl, rfl, rfl⟩,
    ⟨workPart { waitingCall 1 0 0 none with treatment := some (treatmentOf .running none .none (some (.programme 7))) } [.music 7 0] [] [6],
      _, _, rfl, rfl, by decide +kernel, rfl, rfl, rfl, rfl, rfl⟩,
    ⟨workPart { waitingCall 1 0 0 none with treatment := some (treatmentOf .returning none (.personal 127) none) } [.position] [] [6],
      _, _, rfl, rfl, by decide +kernel, rfl, rfl, rfl, rfl, rfl, rfl, rfl, rfl⟩⟩

/-- Call 6 at the head of Highway A's deferral list, for a POSITION step with a prefix, and every channel FREE. -/
def grantPart : State :=
  { treatedPart (treatmentOf .awaitChannel none .none none) [.position] with
    vocabulary := { Vocabulary.powerOn with posBefore := some 5 }, segments := [(5, { first := 0, blocks := 1, lastBytes := 1 })]
    highwayA := { HighwayRec.powerOn with deferral := [{ call := 6, deadline := 99 }] } }

/-- A marked boundary that meets a deferral list whose call has a phrase. -/
theorem witness_BlockBoundaryMovesChannels_grants :
    let s := { grantPart with boundaryDue := true }
    s.boundaryDue = true ∧ s.TablesRising ∧ (∀ l, l ≠ .s → (s.link l).exitOrder = [] ∧ (s.link l).listenOrder = [])
      ∧ (s.highway .a).deferral ≠ []
      ∧ ∀ h, ∀ e ∈ (s.highway h).deferral, ∃ c t step, s.call? e.call = some c ∧ c.owner.highway? = some h
        ∧ c.treatment = some t ∧ (s.pattern t.bank t.pattern)[t.step]? = some step ∧ s.assemble e.call c step ≠ [] := by
  refine ⟨rfl, ⟨rfl, rfl, rfl, rfl, rfl, rfl, rfl, rfl, fun h => by cases h <;> rfl⟩,
    fun l _ => ⟨by cases l <;> rfl, by cases l <;> rfl⟩, by decide, fun h e he => ?_⟩
  cases h
  · obtain rfl : e = { call := 6, deadline := 99 } := List.mem_singleton.1 he
    exact ⟨_, _, .position, rfl, rfl, rfl, rfl, by decide +kernel⟩
  · exact absurd he List.not_mem_nil

/-- One AVAILABLE agent and one waiting call that fit each other, with an empty deferral list. -/
def fittingPart : State :=
  { callPart (waitingCall 63 0 0 none) with
    available := [5], agents := [(5, { availableAgent 63 0 with home := some .b })], queues := [(63, { enabledQueue with order := [6] })] }

theorem witness_GrantsAndAttemptsResume :
    (∃ (c : Call) (t : Treatment), Link.a.highway? = some .a ∧ (grantPart.link .a).exitOrder = []
      ∧ (grantPart.link .a).listenOrder = [] ∧ (grantPart.highway .a).deferral = [{ call := 6, deadline := 99 }]
      ∧ 0 < grantPart.freeNotices .a ∧ (grantPart.channel .a 8).state = .free ∧ grantPart.call? 6 = some c ∧ c.owner = .a
      ∧ c.treatment = some t ∧ (grantPart.pattern t.bank t.pattern)[t.step]? = some .position
      ∧ grantPart.assemble 6 c .position ≠ [])
    ∧ ((part.highway .a).deferral = [] ∧ part.available = [])
    ∧ ∃ c : Call, (fittingPart.link .a).exitOrder = [] ∧ (fittingPart.link .a).listenOrder = []
      ∧ (fittingPart.highway .a).deferral = [] ∧ fittingPart.available = [5] ∧ (63 : Nat) < 64
      ∧ (fittingPart.queue 63).order = [6] ∧ fittingPart.WaitsAlone 6 ∧ (∀ p, p ≠ 63 → (fittingPart.queue p).order = [])
      ∧ fittingPart.call? 6 = some c ∧ c.queue = 63 ∧ c.state = .waiting ∧ c.exitPending = none
      ∧ fittingPart.qualified (fittingPart.agent 5) 63 = true ∧ fittingPart.pairable c (fittingPart.agent 5) = true
      ∧ 0 < fittingPart.freeNotices .a := by
  refine ⟨⟨_, _, rfl, rfl, rfl, rfl, by decide, rfl, rfl, rfl, rfl, rfl, by decide +kernel⟩, ⟨rfl, rfl⟩,
    ⟨_, rfl, rfl, rfl, rfl, by decide, rfl, fun q y h => ?_, fun p hp => ?_, rfl, rfl, rfl, rfl, by decide, by decide, by decide⟩⟩
  · rw [queue_one fittingPart 63 q _ rfl] at h
    split at h
    · simpa using h
    · simp [Queue.powerOn, QueueConfig.emptyQueue] at h
  · rw [queue_one fittingPart 63 p _ rfl, if_neg fun e => hp e.symm]
    rfl

/-- A step deadline that reaches a phrase step: with a channel and an entry free, and without an entry; with the smallest defer limit
and with none; and with a phrase that is empty. -/
def askPart (queued limit segment : Nat) : State :=
  { treatedPart (treatmentOf .running (some 99) .none none) [.silence 5, .announce [segment], .silence 0] with
    segments := [(5, { first := 0, blocks := 1, lastBytes := 1 })], deferLimit := limit
    linkA := { openLink with outbound := List.replicate queued (.notice (.engineRestarted 0)) } }

theorem witness_GrantsAndAttemptsResume_phrases :
    (∀ queued limit segment, ∃ c t, (askPart queued limit segment).call? 6 = some c ∧ c.treatment = some t
      ∧ c.owner.highway? = some .a ∧ t.deadline = some 99 ∧ 0 ≤ ((askPart queued limit segment).tick - 99).toInt
      ∧ ((askPart queued limit segment).pattern t.bank t.pattern)[t.step + 1]? = some (.announce [segment])
      ∧ ((askPart queued limit segment).pattern t.bank t.pattern)[t.step + 2]? = some (soundStep none 0)
      ∧ ((askPart queued limit segment).highway .a).deferral = [] ∧ (askPart queued limit segment).deferLimit = limit
      ∧ ((askPart queued limit segment).channel .a 8).state = .free)
    ∧ (0 < (askPart 47 1 5).freeNotices .a ∧ (askPart 48 1 5).freeNotices .a = 0)
    ∧ ((askPart 47 1 5).call? 6).map ((askPart 47 1 5).assemble 6 · (.announce [5])) = some [5]
    ∧ ((askPart 47 1 4).call? 6).map ((askPart 47 1 4).assemble 6 · (.announce [4])) = some [] :=
  ⟨fun _ _ _ => ⟨_, _, rfl, rfl, rfl, rfl, (by decide : 0 ≤ ((99 : Tick) - 99).toInt), rfl, rfl, rfl, rfl, rfl⟩,
    ⟨by decide +kernel, by decide +kernel⟩, by decide +kernel, by decide +kernel⟩

end Sys2Proof.Tests
end

section
/-!
PROOF. The records that agents, calls and waiting orders are made of (`State.SameRecords`): which operations leave all of them as
they are, and what the others change of them. The invariants of chapter 1 speak of these records alone.
-/
namespace Sys2Proof.Machine

open Sys2Proof

/-- The agents, the available list, the calls, the waiting orders and the tick count are as they were. -/
structure State.SameRecords (s t : State) : Prop where
  agent : ∀ x, t.agent x = s.agent x
  available : t.available = s.available
  call : ∀ y, t.call? y = s.call? y
  order : ∀ q, (t.queue q).order = (s.queue q).order
  tick : t.tick = s.tick

namespace State.SameRecords

theorem refl (s : State) : s.SameRecords s := ⟨fun _ => rfl, rfl, fun _ => rfl, fun _ => rfl, rfl⟩

theorem trans {s t u : State} (h : s.SameRecords t) (k : t.SameRecords u) : s.SameRecords u :=
  ⟨fun x => (k.agent x).trans (h.agent x), k.available.trans h.available, fun y => (k.call y).trans (h.call y),
    fun q => (k.order q).trans (h.order q), k.tick.trans h.tick⟩

/-- Every table and list of the records is literally the one it was. -/
theorem of_eq {s t : State} (agents : t.agents = s.agents) (available : t.available = s.available)
    (calls : t.calls = s.calls) (queues : t.queues = s.queues) (tick : t.tick = s.tick) : s.SameRecords t :=
  ⟨fun x => by simp only [State.agent, agents], available, fun y => by simp only [State.call?, calls],
    fun q => by simp only [State.queue, queues], tick⟩

theorem setQueue (s : State) (q : Nat) (r : Queue) (h : r.order = (s.queue q).order) : s.SameRecords (s.setQueue q r) :=
  ⟨by simp, by simp, by simp, fun p => by
    rw [State.queue_setQueue]
    split
    · rename_i hq; subst hq; exact h
    · rfl, by simp⟩

theorem setLink (s : State) (l : Link) (r : LinkRec) : s.SameRecords (s.setLink l r) :=
  of_eq (by simp) (by simp) (by simp) (by simp) (by simp)

theorem setHighway (s : State) (h : Highway) (r : HighwayRec) : s.SameRecords (s.setHighway h r) :=
  of_eq (by simp) (by simp) (by simp) (by simp) (by simp)

theorem setChannel (s : State) (h : Highway) (t : Nat) (c : Channel) : s.SameRecords (s.setChannel h t c) :=
  setHighway _ _ _

theorem updUseCounts (s : State) (gs : List Nat) (f : Nat → Nat) : s.SameRecords (s.updUseCounts gs f) :=
  of_eq rfl rfl rfl rfl rfl

theorem updRefs (s : State) (b : Bank) (f : Nat → Nat) : s.SameRecords (s.updRefs b f) :=
  of_eq (by simp) (by simp) (by simp) (by simp) (by simp)

theorem setPattern (s : State) (b : Bank) (p : Nat) (steps : List PatternStep) : s.SameRecords (s.setPattern b p steps) :=
  of_eq (by simp) (by simp) (by simp) (by simp) (by simp)

theorem setProgramme (s : State) (p : Nat) (r : Programme) : s.SameRecords (s.setProgramme p r) :=
  of_eq rfl rfl rfl rfl rfl

/-- An update taken for each element of a list leaves the records, when each single one does. -/
theorem foldl {α : Type} {f : State → α → State} (h : ∀ (s : State) a, s.SameRecords (f s a)) (as : List α) (s : State) :
    s.SameRecords (as.foldl f s) := by
  induction as generalizing s with
  | nil => exact refl s
  | cons a as ih => exact (h s a).trans (ih _)

end State.SameRecords

/-! ## Links and notices -/

theorem Ev.updLink_same (e : Ev) (l : Link) (f : LinkRec → LinkRec) : e.st.SameRecords (e.updLink l f).st :=
  .setLink _ _ _

theorem Ev.reply_same (e : Ev) (l : Link) (r : Request) (status : Status) (result : Result) :
    e.st.SameRecords (e.reply l r status result).st := Ev.updLink_same _ _ _

theorem Ev.queueNotice_same (e : Ev) (l : Link) (n : Notice) : e.st.SameRecords (e.queueNotice l n).st := by
  unfold Ev.queueNotice
  split
  · exact Ev.updLink_same _ _ _
  · exact .refl _

theorem Ev.reserve_same (e : Ev) (l : Link) : e.st.SameRecords (e.reserve l).st := by
  unfold Ev.reserve
  split
  · exact Ev.updLink_same _ _ _
  · exact .refl _

theorem Ev.useReservation_same (e : Ev) (l : Link) (n : Notice) : e.st.SameRecords (e.useReservation l n).st := by
  unfold Ev.useReservation
  split
  · exact Ev.updLink_same _ _ _
  · exact .refl _

theorem Ev.releaseReservation_same (e : Ev) (l : Link) : e.st.SameRecords (e.releaseReservation l).st := by
  unfold Ev.releaseReservation
  split
  · rw [Ev.markFreed_st]; exact Ev.updLink_same _ _ _
  · exact .refl _

theorem Ev.cancelOffer_same (e : Ev) (o : CallOffer) (slot : Nat) (cause : CancelCause) :
    e.st.SameRecords (e.cancelOffer o slot cause).st := by
  unfold Ev.cancelOffer
  split
  · exact Ev.useReservation_same _ _ _
  · exact .refl _

theorem Ev.releaseHome_same (e : Ev) (x : Nat) : e.st.SameRecords (e.releaseHome x).st := by
  unfold Ev.releaseHome
  split
  · exact Ev.releaseReservation_same _ _
  · exact .refl _

theorem Ev.queueListen_same (e : Ev) (slot : Nat) (c : Call) (t : Option Nat) :
    e.st.SameRecords (e.queueListen slot c t).st := by
  unfold Ev.queueListen
  split
  · exact Ev.queueNotice_same _ _ _
  · exact .refl _

theorem Ev.raiseFault_same (e : Ev) (l : Link) (t : FaultType) (k : Option (Byte × Byte)) :
    e.st.SameRecords (e.raiseFault l t k).st :=
  e.updLink_same l fun r => { r with faultCount := min 65535 (r.faultCount + 1) }

theorem State.told_same (s : State) (ls : List Link) (n : Notice) : s.SameRecords (s.told ls n) :=
  .foldl (fun _ _ => .setLink _ _ _) ls s

theorem Ev.deliverOffered_same (e : Ev) : e.st.SameRecords e.deliverOffered := by
  rw [Ev.deliverOffered_st]
  exact .foldl (fun s (o : Offered) => s.told_same o.dests o.notice) _ _

theorem Ev.receive_same (l : Link) (fuel : Nat) (buffer : List Byte) (e : Ev) :
    e.st.SameRecords (Ev.receive l fuel buffer e).st := by
  induction fuel generalizing buffer e with
  | zero => exact Ev.updLink_same _ _ _
  | succ fuel ih =>
    unfold Ev.receive
    split
    · exact Ev.updLink_same _ _ _
    · exact (e.raiseFault_same _ _ _).trans (ih _ _)
    · exact (e.raiseFault_same _ _ _).trans (ih _ _)
    · split
      · exact (e.updLink_same _ _).trans (ih _ _)
      · exact (e.raiseFault_same _ _ _).trans (ih _ _)

/-! ## Counters, flags and playout -/

theorem Ev.count_same (e : Ev) (q : Nat) (n : CounterName) : e.st.SameRecords (e.count q n).st := by
  have h : e.st.SameRecords (e.st.setQueue q { e.st.queue q with
      stats := (e.st.queue q).stats.setCounter n ((e.st.queue q).stats.counter n).increment }) := .setQueue _ _ _ rfl
  unfold Ev.count
  dsimp only
  split <;> exact h

theorem Ev.countPassed_same (e : Ev) (qs : List Nat) : e.st.SameRecords (e.countPassed qs).st := by
  induction qs generalizing e with
  | nil => exact .refl _
  | cons q qs ih => exact (e.count_same q _).trans (ih _)

theorem Ev.setClosed_same (e : Ev) (q : Nat) (b : Bool) : e.st.SameRecords (e.setClosed q b).st :=
  State.SameRecords.setQueue e.st q { e.st.queue q with closed := b } rfl

theorem Ev.evalClosing_same (e : Ev) (q : Nat) : e.st.SameRecords (e.evalClosing q).st := by
  unfold Ev.evalClosing
  dsimp only
  split
  · exact e.setClosed_same q true
  · exact .refl _

theorem Ev.evalOpening_same (e : Ev) (q : Nat) : e.st.SameRecords (e.evalOpening q).st := by
  unfold Ev.evalOpening
  dsimp only
  split
  · exact e.setClosed_same q false
  · exact .refl _

theorem State.drainChannel_same (s : State) (h : Highway) (t : Nat) : s.SameRecords (s.drainChannel h t) :=
  (State.SameRecords.updUseCounts _ _ _).trans (.setChannel _ _ _ _)

theorem State.stopAudio_same (s : State) (slot : Nat) (c : Call) : s.SameRecords (s.stopAudio slot c) := by
  unfold State.stopAudio
  split
  · exact .refl s
  · dsimp only
    split
    · exact (State.SameRecords.setHighway _ _ _).trans (State.drainChannel_same _ _ _)
    · exact .setHighway _ _ _

theorem State.drainHighway_same (s : State) (h : Highway) : s.SameRecords (s.drainHighway h) := by
  unfold State.drainHighway
  dsimp only
  refine (State.SameRecords.setHighway s h { s.highway h with deferral := [] }).trans (.foldl (fun s e => ?_) _ _)
  split
  · exact s.drainChannel_same _ _
  · exact .refl _

theorem State.freeHighway_same (s : State) (h : Highway) : s.SameRecords (s.freeHighway h) :=
  (s.drainHighway_same h).trans (.setHighway _ _ _)

/-! ## Queues -/

theorem State.adjustWeights_same (s : State) (a : Agent) (f : Nat → Nat → Nat) : s.SameRecords (s.adjustWeights a f) := by
  unfold State.adjustWeights
  split
  · refine .foldl (fun s k => ?_) _ _
    dsimp only
    split
    · exact .setQueue _ _ _ rfl
    · exact .refl _
  · exact .refl s

theorem State.reweigh_same (s : State) (old new : Agent) : s.SameRecords (s.reweigh old new) := by
  unfold State.reweigh
  split
  · exact .refl s
  · exact (s.adjustWeights_same old _).trans (State.adjustWeights_same _ new _)

theorem State.updateAht_same (s : State) (q sample : Nat) : s.SameRecords (s.updateAht q sample) := .setQueue _ _ _ rfl

/-! ## One agent's record replaced -/

/-- The record of the agent in slot `x` is `new`; the other agents, the calls and the waiting orders are as they were. -/
structure State.AgentReplaced (s t : State) (x : Nat) (new : Agent) : Prop where
  agent : ∀ z, t.agent z = if x = z then new else s.agent z
  call : ∀ y, t.call? y = s.call? y
  order : ∀ q, (t.queue q).order = (s.queue q).order
  tick : t.tick = s.tick

theorem State.setAgent_replaced (s : State) (x : Nat) (a : Agent) : s.AgentReplaced (s.setAgent x a) x a :=
  ⟨by simp, by simp, by simp, by simp⟩

theorem State.AgentReplaced.after {s t u : State} {x : Nat} {new : Agent} (h : t.AgentReplaced u x new)
    (k : s.SameRecords t) : s.AgentReplaced u x new :=
  ⟨fun z => by rw [h.agent, k.agent], fun y => (h.call y).trans (k.call y), fun q => (h.order q).trans (k.order q),
    h.tick.trans k.tick⟩

theorem State.AgentReplaced.andThen {s t u : State} {x : Nat} {new : Agent} (h : s.AgentReplaced t x new)
    (k : t.SameRecords u) : s.AgentReplaced u x new :=
  ⟨fun z => by rw [k.agent, h.agent], fun y => (k.call y).trans (h.call y), fun q => (k.order q).trans (h.order q),
    k.tick.trans h.tick⟩

/-- The second of two changes of one agent's record is the one that counts. -/
theorem State.AgentReplaced.again {s t u : State} {x : Nat} {old new : Agent} (h : s.AgentReplaced t x old)
    (k : t.AgentReplaced u x new) : s.AgentReplaced u x new :=
  ⟨fun z => by rw [k.agent, h.agent]; split <;> rfl, fun y => (k.call y).trans (h.call y),
    fun q => (k.order q).trans (h.order q), k.tick.trans h.tick⟩

theorem Ev.putAgent_replaced (e : Ev) (slot : Nat) (new : Agent) (cause : Cause) :
    e.st.AgentReplaced (e.putAgent slot new cause).st slot new := by
  have h := (e.st.setAgent_replaced slot new).andThen ((e.st.setAgent slot new).reweigh_same (e.st.agent slot) new)
  rw [Ev.putAgent_st]
  split
  · exact h
  · exact ⟨h.agent, h.call, h.order, h.tick⟩

theorem Ev.putAgentAtTail_replaced (e : Ev) (slot : Nat) (new : Agent) (cause : Cause) :
    e.st.AgentReplaced (e.putAgentAtTail slot new cause).st slot new := by
  have h := e.putAgent_replaced slot new cause
  unfold Ev.putAgentAtTail
  dsimp only
  split
  · exact ⟨h.agent, h.call, h.order, h.tick⟩
  · exact h

theorem Ev.putAgentAtTail_available (e : Ev) (slot : Nat) (new : Agent) (cause : Cause) :
    (e.putAgentAtTail slot new cause).st.available =
      dropSlot slot e.st.available ++ if new.state = .available then [slot] else [] := by
  unfold Ev.putAgentAtTail
  dsimp only
  split
  · rename_i h
    rw [Ev.upd_st, Ev.putAgent_available, if_pos h]
  · rename_i h
    rw [Ev.putAgent_available, if_neg h, List.append_nil]

theorem Ev.completeLogout_replaced (e : Ev) (slot : Nat) (cause : Cause) :
    e.st.AgentReplaced (e.completeLogout slot cause).st slot (e.st.agent slot).loggedOut := by
  unfold Ev.completeLogout
  exact (Ev.putAgent_replaced _ _ _ _).after (.of_eq rfl rfl rfl rfl rfl)

theorem Ev.completeLogout_available (e : Ev) (slot : Nat) (cause : Cause) :
    (e.completeLogout slot cause).st.available = dropSlot slot e.st.available := by
  unfold Ev.completeLogout
  dsimp only
  rw [Ev.putAgent_available, if_neg (by simp [Agent.loggedOut])]
  rfl

end Sys2Proof.Machine
end

section
/-!
PROOF. The promise of `State.RecordsAgree`, and of `State.OrdersSorted` beside it, in the form that holds at every point inside an
event (`State.Consistent`): agents whose offer or call has just ended may stand unsettled, and calls may stand outside the waiting
orders. One lemma for each way in which an operation changes the records.
-/
namespace Sys2Proof.Machine

open Sys2Proof

/-! ## The invariant -/

/-- The parts of an agent's record agree with its state (R2, R18, R26, R83). An agent that is `loose` may be RESERVED without its
offer. -/
structure Agent.Whole (loose : Prop) (a : Agent) : Prop where
  reserved : a.state = .reserved → loose ∨ a.offer.isSome = true
  offered : a.offer.isSome = true → a.state = .reserved
  busy : a.state = .busy ↔ a.call.isSome = true
  wrapping : a.state = .wrapUp ↔ a.wrap.isSome = true
  penalized : a.penaltyDeadline.isSome = true → a.state = .inferredAbsent
  homed : a.state = .loggedOut ↔ a.home = none
  switching : a.home ≠ some .s

/-- The parts of a call's record agree with its state (R30, R39, R52). -/
structure Call.Whole (c : Call) : Prop where
  offering : c.state = .offering ↔ c.offer.isSome = true
  connected : c.state = .connected ↔ c.connectTick.isSome = true
  served : c.agent.isSome = true → c.state = .connected
  answered : c.state = .connected → c.treatment = none ∧ c.promotion = none ∧ c.exitPending = none
  exiting : c.exitPending.isSome = true → c.state = .waiting
  switching : c.owner ≠ .s

/-- The agent and call records agree inside an event. The `loose` agents have lost their offer or their call and are not settled
yet; the `unplaced` calls stand in no waiting order. Where `sorted` is asked for, the ticks are recent and the lists are in
order. -/
structure State.Consistent (sorted : Prop) (loose unplaced : Nat → Prop) (s : State) : Prop where
  available : s.AvailableExact
  agent : ∀ x, (s.agent x).Whole (loose x)
  call : ∀ y c, s.call? y = some c → c.Whole
  ordered : ∀ q y, y ∈ (s.queue q).order ↔ ¬unplaced y ∧ ∃ c, s.call? y = some c ∧ c.queue = q ∧ c.state ≠ .connected
  once : ∀ q, (s.queue q).order.Nodup
  callOffers : ∀ y c o, s.call? y = some c → c.offer = some o → (s.agent o.agent).offer = some { token := o.token, call := y }
  agentOffers : ∀ x o, (s.agent x).offer = some o →
    ∃ c k, s.call? o.call = some c ∧ c.offer = some k ∧ k.agent = x ∧ k.token = o.token
  callAgents : ∀ y c x, s.call? y = some c → c.agent = some x → (s.agent x).call = some y
  agentCalls : ∀ x y, (s.agent x).call = some y →
    (∃ c, s.call? y = some c ∧ c.agent = some x) ∨ loose x ∧ ∀ c, s.call? y = some c → c.agent = none
  recent : sorted → s.TicksRecent
  inOrder : sorted → s.OrdersSorted

/-- No agent, or no call. -/
abbrev nobody : Nat → Prop := fun _ => False

/-- Between events the invariant is `RecordsAgree`. -/
theorem State.RecordsAgree.consistent {s : State} {sorted : Prop} (h : s.RecordsAgree) (recent : sorted → s.TicksRecent)
    (inOrder : sorted → s.OrdersSorted) : s.Consistent sorted nobody nobody where
  available := h.available
  agent x :=
    { reserved := fun hr => .inr ((h.reserved x).1 hr), offered := (h.reserved x).2, busy := h.busy x
      wrapping := h.wrapping x, penalized := h.penalized x, homed := h.homed x, switching := h.switching.1 x }
  call y c hc :=
    { offering := h.offering y c hc, connected := h.connected y c hc
      served := fun ha => by
        obtain ⟨x, hx⟩ := Option.isSome_iff_exists.1 ha
        exact (h.callAgents y c x hc hx).1
      answered := h.answered y c hc, exiting := h.exiting y c hc, switching := h.switching.2 y c hc }
  ordered q y := by simp [h.ordered q y]
  once := h.once
  callOffers := h.callOffers
  agentOffers := h.agentOffers
  callAgents y c x hc hx := (h.callAgents y c x hc hx).2
  agentCalls x y hx := .inl (h.agentCalls x y hx)
  recent := recent
  inOrder := inOrder

theorem State.Consistent.recordsAgree {s : State} {sorted : Prop} (h : s.Consistent sorted nobody nobody) : s.RecordsAgree where
  available := h.available
  ordered q y := by simpa using h.ordered q y
  once := h.once
  offering y c hc := (h.call y c hc).offering
  reserved x := ⟨fun hr => ((h.agent x).reserved hr).resolve_left id, (h.agent x).offered⟩
  callOffers := h.callOffers
  agentOffers := h.agentOffers
  connected y c hc := (h.call y c hc).connected
  callAgents y c x hc hx := ⟨(h.call y c hc).served (by simp [hx]), h.callAgents y c x hc hx⟩
  agentCalls x y hx := (h.agentCalls x y hx).resolve_right fun hn => hn.1
  busy x := (h.agent x).busy
  answered y c hc := (h.call y c hc).answered
  exiting y c hc := (h.call y c hc).exiting
  wrapping x := (h.agent x).wrapping
  penalized x := (h.agent x).penalized
  homed x := (h.agent x).homed
  switching := ⟨fun x => (h.agent x).switching, fun y c hc => (h.call y c hc).switching⟩

theorem Agent.Whole.mono {P Q : Prop} {a : Agent} (h : a.Whole P) (hPQ : P → Q) : a.Whole Q :=
  { h with reserved := fun hr => (h.reserved hr).imp_left hPQ }

section
variable {sorted : Prop} {loose unplaced : Nat → Prop} {s t : State}

/-- More agents may be loose, and of the unplaced calls only those that exist and are not connected count. -/
theorem State.Consistent.mono {loose' unplaced' : Nat → Prop} (h : s.Consistent sorted loose unplaced)
    (hl : ∀ x, loose x → loose' x)
    (hu : ∀ y c, s.call? y = some c → c.state ≠ .connected → (unplaced y ↔ unplaced' y)) :
    s.Consistent sorted loose' unplaced' :=
  { h with
    agent := fun x => (h.agent x).mono (hl x)
    ordered := fun q y => by
      rw [h.ordered q y]
      constructor
      all_goals
        rintro ⟨hy, c, hc, hq, hn⟩
        have := hu y c hc hn
        exact ⟨by tauto, c, hc, hq, hn⟩
    agentCalls := fun x y hx => (h.agentCalls x y hx).imp_right fun hn => ⟨hl x hn.1, hn.2⟩ }

theorem State.Consistent.loosen {loose' : Nat → Prop} (h : s.Consistent sorted loose unplaced)
    (hl : ∀ x, loose x → loose' x) : s.Consistent sorted loose' unplaced := h.mono hl fun _ _ _ _ => Iff.rfl

theorem State.SameRecords.availableExact (k : s.SameRecords t) (h : s.AvailableExact) : t.AvailableExact := by
  simpa only [State.AvailableExact, k.available, k.agent] using h

theorem State.SameRecords.ticksRecent (k : s.SameRecords t) (h : s.TicksRecent) : t.TicksRecent := by
  simpa only [State.TicksRecent, k.agent, k.tick, k.call] using h

theorem State.SameRecords.ordersSorted (k : s.SameRecords t) (h : s.OrdersSorted) : t.OrdersSorted := by
  simpa only [State.OrdersSorted, k.available, k.agent, k.order, k.call] using h

/-- What leaves the records alone keeps them consistent. -/
theorem State.Consistent.same (h : s.Consistent sorted loose unplaced) (k : s.SameRecords t) :
    t.Consistent sorted loose unplaced where
  available := k.availableExact h.available
  agent x := by simpa only [k.agent] using h.agent x
  call y c hc := h.call y c (by rwa [k.call] at hc)
  ordered q y := by simpa only [k.order, k.call] using h.ordered q y
  once q := by simpa only [k.order] using h.once q
  callOffers := by simpa only [k.call, k.agent] using h.callOffers
  agentOffers := by simpa only [k.call, k.agent] using h.agentOffers
  callAgents := by simpa only [k.call, k.agent] using h.callAgents
  agentCalls := by simpa only [k.call, k.agent] using h.agentCalls
  recent hs := k.ticksRecent (h.recent hs)
  inOrder hs := k.ordersSorted (h.inOrder hs)

/-! ## The order of ticks (R184) -/

/-- Of two ticks less than 2^31 ticks back, the one with the smaller age is the later. -/
theorem Tick.later_iff_age {now x y : Tick} (hx : (now - x).toNat < 2 ^ 31) (hy : (now - y).toNat < 2 ^ 31) :
    0 < (x - y).toInt ↔ (now - x).toNat < (now - y).toNat := by
  have e : x - y = (now - y) - (now - x) := by
    rw [sub_sub_sub_cancel_left]
  rw [e]
  generalize now - x = a at *
  generalize now - y = b at *
  rw [BitVec.toInt_eq_toNat_cond, BitVec.toNat_sub]
  have := a.isLt
  have := b.isLt
  split <;> omega

/-! ## Places in a list -/

/-- An element put behind those that stand before it keeps a list in order. -/
theorem pairwise_place {α : Type} {R : α → α → Prop} {p : α → Bool} {y : α} {L : List α} (hL : L.Pairwise R)
    (before : ∀ a ∈ L, p a = true → R a y) (behind : ∀ a ∈ L, p a = false → R y a)
    (trans : ∀ a ∈ L, ∀ b ∈ L, R y a → R a b → R y b) : (L.takeWhile p ++ y :: L.dropWhile p).Pairwise R := by
  induction L with
  | nil => simp
  | cons a L ih =>
    obtain ⟨ha, hL⟩ := List.pairwise_cons.1 hL
    by_cases hp : p a = true
    · rw [List.takeWhile_cons_of_pos hp, List.dropWhile_cons_of_pos hp, List.cons_append, List.pairwise_cons]
      refine ⟨fun b hb => ?_, ih hL (fun b hb => before b (by simp [hb])) (fun b hb => behind b (by simp [hb]))
        fun b hb d hd => trans b (by simp [hb]) d (by simp [hd])⟩
      rcases List.mem_append.1 hb with hb | hb
      · exact ha b (List.takeWhile_subset _ hb)
      · rcases List.mem_cons.1 hb with rfl | hb
        · exact before a (by simp) hp
        · exact ha b (List.dropWhile_subset _ hb)
    · rw [List.takeWhile_cons_of_neg hp, List.dropWhile_cons_of_neg hp, List.nil_append, List.pairwise_cons]
      have hya : R y a := behind a (by simp) (by simpa using hp)
      refine ⟨fun b hb => ?_, List.pairwise_cons.2 ⟨ha, hL⟩⟩
      rcases List.mem_cons.1 hb with rfl | hb
      · exact hya
      · exact trans a (by simp) b (by simp [hb]) hya (ha b hb)

theorem mem_place {α : Type} {p : α → Bool} {y z : α} {L : List α} :
    z ∈ L.takeWhile p ++ y :: L.dropWhile p ↔ z = y ∨ z ∈ L := by
  have h : z ∈ L ↔ z ∈ L.takeWhile p ∨ z ∈ L.dropWhile p := by
    rw [← List.mem_append, List.takeWhile_append_dropWhile]
  simp only [List.mem_append, List.mem_cons, h]
  tauto

theorem nodup_place {α : Type} {p : α → Bool} {y : α} {L : List α} (hL : L.Nodup) (hy : y ∉ L) :
    (L.takeWhile p ++ y :: L.dropWhile p).Nodup := by
  rw [List.nodup_middle, List.takeWhile_append_dropWhile]
  exact List.nodup_cons.2 ⟨hy, hL⟩

/-- A restored slot stands behind the agents whose available-since is not later (R9). -/
theorem State.restoreSlot_eq (s : State) (slot : Nat) (since : Tick) (L : List Nat) :
    s.restoreSlot slot since L =
      L.takeWhile (fun x => !Tick.later (s.agent x).availSince since) ++
        slot :: L.dropWhile (fun x => !Tick.later (s.agent x).availSince since) := by
  induction L with
  | nil => rfl
  | cons x L ih =>
    unfold State.restoreSlot
    by_cases h : Tick.later (s.agent x).availSince since = true
    · simp [h]
    · simp [h, ih]

/-- A call inserted in a waiting order stands behind the calls that stand before it (R36). -/
theorem State.insertInOrder_eq (s : State) (slot band : Nat) (entry : Tick) (L : List Nat) :
    s.insertInOrder slot band entry L =
      L.takeWhile (s.standsBefore band entry) ++ slot :: L.dropWhile (s.standsBefore band entry) := by
  induction L with
  | nil => rfl
  | cons x L ih =>
    unfold State.insertInOrder
    by_cases h : s.standsBefore band entry x = true
    · simp [h, ih]
    · simp [h]

/-! ## An agent's record replaced -/

/-- Every agent's change keeps the parts of the order of waiting calls. -/
theorem State.AgentReplaced.ordersKept {x : Nat} {new : Agent} (k : s.AgentReplaced t x new) (recent : s.TicksRecent)
    (inOrder : s.OrdersSorted)
    (since : new.state = .available ∨ new.state = .reserved → (s.tick - new.availSince).toNat < 2 ^ 31)
    (avail : t.available.Pairwise fun a b => ¬0 < ((t.agent a).availSince - (t.agent b).availSince).toInt) :
    t.TicksRecent ∧ t.OrdersSorted := by
  refine ⟨⟨fun z hz => ?_, fun y c hc => ?_⟩, avail, fun q => ?_⟩
  · rw [k.agent, k.tick] at *
    split at hz
    · simpa [*] using since hz
    · simpa [*] using recent.1 z hz
  · rw [k.tick]
    exact recent.2 y c (by rwa [k.call] at hc)
  · simpa only [k.order, k.call] using inOrder.2 q

/-- An agent's record is replaced by one that keeps its offer, and that keeps its call or drops it when no call names the agent. -/
theorem State.Consistent.replaceAgent {loose' : Nat → Prop} {x : Nat} {new : Agent}
    (h : s.Consistent sorted loose unplaced) (k : s.AgentReplaced t x new) (available : t.AvailableExact)
    (whole : new.Whole (loose' x)) (offer : new.offer = (s.agent x).offer)
    (call : new.call = (s.agent x).call ∧ (loose x → loose' x)
      ∨ new.call = none ∧ ∀ y c, s.call? y = some c → c.agent ≠ some x)
    (others : ∀ z, z ≠ x → loose z → loose' z)
    (since : sorted → new.state = .available ∨ new.state = .reserved → (s.tick - new.availSince).toNat < 2 ^ 31)
    (avail : sorted → t.available.Pairwise fun a b => ¬0 < ((t.agent a).availSince - (t.agent b).availSince).toInt) :
    t.Consistent sorted loose' unplaced := by
  have offerEq : ∀ z, (t.agent z).offer = (s.agent z).offer := fun z => by
    rw [k.agent]
    split
    · rename_i hz; rw [← hz, offer]
    · rfl
  have sound : sorted → t.TicksRecent ∧ t.OrdersSorted := fun hs =>
    k.ordersKept (h.recent hs) (h.inOrder hs) (since hs) (avail hs)
  refine
    { available := available
      agent := fun z => ?_
      call := fun y c hc => h.call y c (by rwa [k.call] at hc)
      ordered := fun q y => by simpa only [k.order, k.call] using h.ordered q y
      once := fun q => by simpa only [k.order] using h.once q
      callOffers := by simpa only [k.call, offerEq] using h.callOffers
      agentOffers := by simpa only [k.call, offerEq] using h.agentOffers
      callAgents := fun y c z hc hz => ?_
      agentCalls := fun z y hy => ?_
      recent := fun hs => (sound hs).1
      inOrder := fun hs => (sound hs).2 }
  · rw [k.agent]
    split
    · rename_i hz; subst hz; exact whole
    · rename_i hz; exact (h.agent z).mono (others z (Ne.symm hz))
  · rw [k.call] at hc
    have hold := h.callAgents y c z hc hz
    rw [k.agent]
    split
    · rename_i hx; subst hx
      rcases call with ⟨hcall, -⟩ | ⟨-, hno⟩
      · rw [hcall, hold]
      · exact absurd hz (hno y c hc)
    · exact hold
  · rw [k.agent] at hy
    simp only [k.call]
    split at hy
    · rename_i hx; subst hx
      rcases call with ⟨hcall, hl⟩ | ⟨hcall, -⟩
      · exact (h.agentCalls x y (hcall ▸ hy)).imp_right fun hn => ⟨hl hn.1, hn.2⟩
      · rw [hcall] at hy; cases hy
    · rename_i hx
      exact (h.agentCalls z y hy).imp_right fun hn => ⟨others z (Ne.symm hx) hn.1, hn.2⟩

/-- An agent that names no call, or one that names no agent, is named by no call. -/
theorem State.Consistent.unnamed {x : Nat} (h : s.Consistent sorted loose unplaced)
    (hx : ∀ y c, (s.agent x).call = some y → s.call? y = some c → c.agent = none) (y : Nat) (c : Call)
    (hc : s.call? y = some c) : c.agent ≠ some x := fun ha => by
  have := hx y c (h.callAgents y c x hc ha) hc
  simp [this] at ha

/-! ## A call's record replaced -/

/-- The record of the call in slot `y` is `new`; the other calls, the agents and the waiting orders are as they were. -/
structure State.CallReplaced (s t : State) (y : Nat) (new : Call) : Prop where
  agent : ∀ x, t.agent x = s.agent x
  available : t.available = s.available
  call : ∀ z, t.call? z = if y = z then some new else s.call? z
  order : ∀ q, (t.queue q).order = (s.queue q).order
  tick : t.tick = s.tick

theorem State.setCall_replaced (s : State) (y : Nat) (c : Call) : s.CallReplaced (s.setCall y c) y c :=
  ⟨by simp, by simp, by simp, by simp, by simp⟩

/-- The place of a call is that of its queue, its band and its queue entry tick; a connected call has none. -/
structure Call.SamePlace (c d : Call) : Prop where
  queue : d.queue = c.queue
  connected : d.state = .connected ↔ c.state = .connected
  band : d.band = c.band
  entry : d.entry = c.entry

/-- Orders stay sorted where the calls that stand in them keep their bands and entries. -/
theorem State.OrdersSorted.queues_of_places (inOrder : s.OrdersSorted)
    (order : ∀ q, ((t.queue q).order).Sublist (s.queue q).order)
    (call : ∀ q, ∀ y ∈ (t.queue q).order, ∀ d, t.call? y = some d → ∃ c, s.call? y = some c ∧ d.band = c.band ∧ d.entry = c.entry)
    (q : Nat) : (t.queue q).order.Pairwise fun a b => ∀ c d, t.call? a = some c → t.call? b = some d →
      d.band < c.band ∨ (d.band = c.band ∧ ¬ 0 < (c.entry - d.entry).toInt) := by
  refine ((inOrder.2 q).sublist (order q)).imp_of_mem fun {a b} ha hb hab c d hc hd => ?_
  obtain ⟨c', hc', hband, hentry⟩ := call q a ha c hc
  obtain ⟨d', hd', hband', hentry'⟩ := call q b hb d hd
  simpa only [hband, hband', hentry, hentry'] using hab c' d' hc' hd'

theorem State.OrdersSorted.of_places (inOrder : s.OrdersSorted) (available : t.available = s.available)
    (agent : ∀ x, t.agent x = s.agent x) (order : ∀ q, ((t.queue q).order).Sublist (s.queue q).order)
    (call : ∀ q, ∀ y ∈ (t.queue q).order, ∀ d, t.call? y = some d → ∃ c, s.call? y = some c ∧ d.band = c.band ∧ d.entry = c.entry) :
    t.OrdersSorted := ⟨by simpa only [available, agent] using inOrder.1, inOrder.queues_of_places order call⟩

/-- A call's record is replaced by one with the same offer and agent, or without its agent when that is loose, at the same place or
out of every order. -/
theorem State.Consistent.replaceCall {y : Nat} {new : Call} (h : s.Consistent sorted loose unplaced)
    (k : s.CallReplaced t y new) (whole : new.Whole)
    (parts : (∃ c, s.call? y = some c ∧ new.offer = c.offer
        ∧ (new.agent = c.agent ∨ new.agent = none ∧ ∀ x, c.agent = some x → loose x))
      ∨ s.call? y = none ∧ new.offer = none ∧ new.agent = none)
    (place : unplaced y ∨ ∃ c, s.call? y = some c ∧ c.SamePlace new)
    (since : sorted → (s.tick - new.entry).toNat < 2 ^ 31) : t.Consistent sorted loose unplaced := by
  have other : ∀ {z}, y ≠ z → t.call? z = s.call? z := fun hz => by rw [k.call, if_neg hz]
  have self : t.call? y = some new := by rw [k.call, if_pos rfl]
  refine
    { available := by simpa only [State.AvailableExact, k.available, k.agent] using h.available
      agent := fun x => by simpa only [k.agent] using h.agent x
      call := fun z c hc => ?_
      ordered := fun q z => ?_
      once := fun q => by simpa only [k.order] using h.once q
      callOffers := fun z c o hc ho => ?_
      agentOffers := fun x o ho => ?_
      callAgents := fun z c x hc hx => ?_
      agentCalls := fun x z hz => ?_
      recent := fun hs => ⟨by simpa only [k.agent, k.tick] using (h.recent hs).1, fun z c hc => ?_⟩
      inOrder := fun hs => ?_ }
  · by_cases hz : y = z
    · subst hz; rw [self] at hc; cases hc; exact whole
    · exact h.call z c (other hz ▸ hc)
  · rw [k.order, h.ordered]
    by_cases hz : y = z
    · subst hz
      rcases place with hu | ⟨c, hc, hp⟩
      · simp [hu]
      · simp [self, hc, hp.queue, hp.connected]
    · rw [other hz]
  · simp only [k.agent]
    by_cases hz : y = z
    · subst hz; rw [self] at hc; cases hc
      rcases parts with ⟨c, hc, hoffer, -⟩ | ⟨-, hoffer, -⟩
      · exact h.callOffers y c o hc (hoffer ▸ ho)
      · rw [hoffer] at ho; cases ho
    · exact h.callOffers z c o (other hz ▸ hc) ho
  · rw [k.agent] at ho
    obtain ⟨c, j, hc, hj, hx⟩ := h.agentOffers x o ho
    by_cases hz : y = o.call
    · subst hz
      rcases parts with ⟨d, hd, hoffer, -⟩ | ⟨hnone, -⟩
      · rw [hd] at hc; cases hc
        exact ⟨new, j, self, hoffer.trans hj, hx⟩
      · rw [hnone] at hc; cases hc
    · exact ⟨c, j, (other hz).trans hc, hj, hx⟩
  · rw [k.agent]
    by_cases hz : y = z
    · subst hz; rw [self] at hc; cases hc
      rcases parts with ⟨c, hc, -, hagent | ⟨hagent, -⟩⟩ | ⟨-, -, hagent⟩
      · exact h.callAgents y c x hc (hagent ▸ hx)
      · rw [hagent] at hx; cases hx
      · rw [hagent] at hx; cases hx
    · exact h.callAgents z c x (other hz ▸ hc) hx
  · rw [k.agent] at hz
    have old := h.agentCalls x z hz
    by_cases hy : y = z
    · subst hy
      simp only [self, Option.some.injEq, forall_eq', exists_eq_left']
      rcases parts with ⟨c, hc, -, hagent | ⟨hagent, hl⟩⟩ | ⟨hnone, -, hagent⟩
      · simpa [hc, hagent] using old
      · simp only [hc, Option.some.injEq, forall_eq', exists_eq_left'] at old
        exact .inr ⟨old.elim (hl x) And.left, hagent⟩
      · simp only [hnone] at old
        simp only [hagent, and_true]
        simpa using old
    · simpa only [other hy] using old
  · rw [k.tick]
    by_cases hz : y = z
    · subst hz; rw [self] at hc; cases hc; exact since hs
    · exact (h.recent hs).2 z c (other hz ▸ hc)
  · refine (h.inOrder hs).of_places k.available k.agent (fun q => by rw [k.order]) fun q z hz d hd => ?_
    by_cases hy : y = z
    · subst hy; rw [self] at hd; cases hd
      rcases place with hu | ⟨c, hc, hp⟩
      · rw [k.order, h.ordered] at hz
        exact absurd hu hz.1
      · exact ⟨c, hc, hp.band, hp.entry⟩
    · exact ⟨d, other hy ▸ hd, rfl, rfl⟩

/-- A call's record is edited in parts that nothing else names. -/
theorem State.Consistent.editCall {y : Nat} {c new : Call} (h : s.Consistent sorted loose unplaced)
    (k : s.CallReplaced t y new) (hc : s.call? y = some c) (whole : new.Whole) (offer : new.offer = c.offer)
    (agent : new.agent = c.agent) (place : c.SamePlace new) : t.Consistent sorted loose unplaced :=
  h.replaceCall k whole (.inl ⟨c, hc, offer, .inl agent⟩) (.inr ⟨c, hc, place⟩)
    fun hs => by rw [place.entry]; exact (h.recent hs).2 y c hc

/-! ## Places in the waiting orders -/

/-- A call is taken out of the order of its queue. -/
theorem State.Consistent.unplace {y : Nat} {c : Call} (h : s.Consistent sorted loose unplaced) (hc : s.call? y = some c)
    (agent : ∀ x, t.agent x = s.agent x) (available : t.available = s.available) (call : ∀ z, t.call? z = s.call? z)
    (order : ∀ q, (t.queue q).order = if c.queue = q then (s.queue q).order.filter (· != y) else (s.queue q).order)
    (tick : t.tick = s.tick) : t.Consistent sorted loose fun z => unplaced z ∨ z = y := by
  have sub : ∀ q, ((t.queue q).order).Sublist (s.queue q).order := fun q => by
    rw [order]
    split
    · exact List.filter_sublist
    · exact List.Sublist.refl _
  exact
    { available := by simpa only [State.AvailableExact, available, agent] using h.available
      agent := fun x => by simpa only [agent] using h.agent x
      call := fun z d hd => h.call z d (by rwa [call] at hd)
      ordered := fun q z => by
        have := h.ordered q z
        rw [order, call]
        by_cases hq : c.queue = q
        · simp only [hq, if_true, List.mem_filter, this, bne_iff_ne]; tauto
        · rw [if_neg hq, this]
          constructor
          · rintro ⟨hz, d, hd, hdq⟩
            refine ⟨?_, d, hd, hdq⟩
            rintro (hu | rfl)
            · exact hz hu
            · rw [hc] at hd; cases hd; exact hq hdq.1
          · rintro ⟨hz, hd⟩
            exact ⟨fun hu => hz (.inl hu), hd⟩
      once := fun q => (h.once q).sublist (sub q)
      callOffers := by simpa only [call, agent] using h.callOffers
      agentOffers := by simpa only [call, agent] using h.agentOffers
      callAgents := by simpa only [call, agent] using h.callAgents
      agentCalls := by simpa only [call, agent] using h.agentCalls
      recent := fun hs => by simpa only [State.TicksRecent, agent, tick, call] using h.recent hs
      inOrder := fun hs => (h.inOrder hs).of_places available agent sub
        fun q z _ d hd => ⟨d, by rwa [call] at hd, rfl, rfl⟩ }

/-- A call that is not connected is put in the order of its queue, by its band and entry. -/
theorem State.Consistent.place {y : Nat} {c : Call} (h : s.Consistent sorted loose unplaced) (hu : unplaced y)
    (hc : s.call? y = some c) (hn : c.state ≠ .connected)
    (agent : ∀ x, t.agent x = s.agent x) (available : t.available = s.available) (call : ∀ z, t.call? z = s.call? z)
    (order : ∀ q, (t.queue q).order =
      if c.queue = q then s.insertInOrder y c.band c.entry (s.queue q).order else (s.queue q).order)
    (tick : t.tick = s.tick) : t.Consistent sorted loose fun z => unplaced z ∧ z ≠ y := by
  have out : ∀ q, y ∉ (s.queue q).order := fun q hy => ((h.ordered q y).1 hy).1 hu
  exact
    { available := by simpa only [State.AvailableExact, available, agent] using h.available
      agent := fun x => by simpa only [agent] using h.agent x
      call := fun z d hd => h.call z d (by rwa [call] at hd)
      ordered := fun q z => by
        have old := h.ordered q z
        rw [order, call]
        by_cases hz : z = y
        · subst hz
          by_cases hq : c.queue = q
          · simp [hq, State.insertInOrder_eq, hc, hn]
          · simp [hq, out, hc]
        · by_cases hq : c.queue = q
          · simp only [hq, if_true, State.insertInOrder_eq, mem_place, hz, false_or, old, ne_eq, not_false_eq_true, and_true]
          · simp only [hq, if_false, old, hz, ne_eq, not_false_eq_true, and_true]
      once := fun q => by
        rw [order]
        split
        · rw [State.insertInOrder_eq]; exact nodup_place (h.once q) (out q)
        · exact h.once q
      callOffers := by simpa only [call, agent] using h.callOffers
      agentOffers := by simpa only [call, agent] using h.agentOffers
      callAgents := by simpa only [call, agent] using h.callAgents
      agentCalls := by simpa only [call, agent] using h.agentCalls
      recent := fun hs => by simpa only [State.TicksRecent, agent, tick, call] using h.recent hs
      inOrder := fun hs => by
        refine ⟨by simpa only [available, agent] using (h.inOrder hs).1, fun q => ?_⟩
        simp only [order, call]
        split
        · rename_i hq
          have age := (h.recent hs).2
          have hy := age y c hc
          rw [State.insertInOrder_eq]
          refine pairwise_place ((h.inOrder hs).2 q) (fun a ha hp d e hd he => ?_) (fun a ha hp d e hd he => ?_)
            fun a ha b hb hya hab d e hd he => ?_
          · rw [hc] at he; cases he
            have hd' := age a d hd
            simp only [State.standsBefore, hd, Tick.later, Bool.or_eq_true, decide_eq_true_eq, Bool.and_eq_true,
              Bool.not_eq_true', decide_eq_false_iff_not] at hp
            rcases hp with hp | ⟨hb, hl⟩
            · exact .inl hp
            · exact .inr ⟨hb.symm, hl⟩
          · rw [hc] at hd; cases hd
            have he' := age a e he
            simp only [State.standsBefore, he, Tick.later, Bool.or_eq_false_iff, decide_eq_false_iff_not,
              Bool.and_eq_false_iff, Bool.not_eq_false', decide_eq_true_eq] at hp
            rw [Tick.later_iff_age he' hy] at hp
            rw [Tick.later_iff_age hy he']
            omega
          · rw [hc] at hd; cases hd
            obtain ⟨-, f, hf, -⟩ := (h.ordered q a).1 ha
            have h1 := hya c f hc hf
            have h2 := hab f e hf he
            rw [Tick.later_iff_age hy (age a f hf)] at h1
            rw [Tick.later_iff_age (age a f hf) (age b e he)] at h2
            rw [Tick.later_iff_age hy (age b e he)]
            omega
        · exact (h.inOrder hs).2 q }

/-- A call without an offer that stands in no order is freed; an agent that it names becomes loose. -/
theorem State.Consistent.freeCall {y : Nat} {c : Call} (h : s.Consistent sorted loose unplaced) (hc : s.call? y = some c)
    (offer : c.offer = none) (out : unplaced y ∨ c.state = .connected) :
    (s.freeCall y).Consistent sorted (fun x => loose x ∨ c.agent = some x) unplaced := by
  have keep : ∀ {z d}, (s.freeCall y).call? z = some d → y ≠ z ∧ s.call? z = some d := fun {z d} hd => by
    rw [State.call?_freeCall] at hd
    split at hd
    · cases hd
    · exact ⟨‹_›, hd⟩
  exact
    { available := by simpa [State.AvailableExact] using h.available
      agent := fun x => by simpa using (h.agent x).mono .inl
      call := fun z d hd => h.call z d (keep hd).2
      ordered := fun q z => by
        rw [State.freeCall_queue, h.ordered, State.call?_freeCall]
        by_cases hz : y = z
        · subst hz
          simp only [hc, if_true, reduceCtorEq, false_and, exists_false, and_false, iff_false]
          rintro ⟨hu, d, hd, -, hn⟩
          cases hd
          exact out.elim hu hn
        · simp [hz]
      once := by simpa using h.once
      callOffers := fun z d o hd ho => by simpa using h.callOffers z d o (keep hd).2 ho
      agentOffers := fun x o ho => by
        obtain ⟨d, k, hd, hk, hx⟩ := h.agentOffers x o (by simpa using ho)
        have hz : y ≠ o.call := by
          rintro rfl
          rw [hc] at hd; cases hd
          rw [offer] at hk; cases hk
        exact ⟨d, k, by simp [hz, hd], hk, hx⟩
      callAgents := fun z d x hd hx => by simpa using h.callAgents z d x (keep hd).2 hx
      agentCalls := fun x z hz => by
        rw [State.freeCall_agent] at hz
        by_cases hy : y = z
        · subst hy
          rcases h.agentCalls x y hz with ⟨d, hd, hx⟩ | ⟨hl, -⟩
          · rw [hc] at hd; cases hd
            exact .inr ⟨.inr hx, by simp⟩
          · exact .inr ⟨.inl hl, by simp⟩
        · simpa [hy, or_and_right] using (h.agentCalls x z hz).imp_right fun hn => Or.inl hn
      recent := fun hs => ⟨by simpa using (h.recent hs).1, fun z d hd => by simpa using (h.recent hs).2 z d (keep hd).2⟩
      inOrder := fun hs => (h.inOrder hs).of_places (by simp) (by simp) (fun q => by simp) fun q z hz d hd =>
        ⟨d, (keep hd).2, rfl, rfl⟩ }

/-! ## Offers and connections -/

/-- A call and an agent change together. -/
structure State.PairReplaced (s t : State) (y : Nat) (c : Call) (x : Nat) (a : Agent) : Prop where
  agent : ∀ z, t.agent z = if x = z then a else s.agent z
  call : ∀ z, t.call? z = if y = z then some c else s.call? z
  order : ∀ q, (t.queue q).order = (s.queue q).order
  tick : t.tick = s.tick

/-- What a pair of a call and an agent may become: each whole, at the same place or out of every order, and naming each other or
nobody. -/
structure State.PairFits (s : State) (sorted : Prop) (unplaced : Nat → Prop) (y : Nat) (c c' : Call) (x : Nat) (a' : Agent) :
    Prop where
  whole : c'.Whole
  place : unplaced y ∨ c.SamePlace c'
  entry : c'.entry = c.entry
  oldOffer : ∀ o, c.offer = some o → o.agent = x
  oldCall : ∀ o, (s.agent x).offer = some o → o.call = y
  oldAgent : ∀ z, c.agent = some z → z = x
  oldConnection : ∀ z, (s.agent x).call = some z → z = y
  offer : a'.offer = c'.offer.map fun o => { token := o.token, call := y }
  offeredTo : ∀ o, c'.offer = some o → o.agent = x
  connection : c'.agent = none ∧ a'.call = none
    ∨ c'.agent = some x ∧ a'.call = some y ∧ ∀ z, (s.agent z).call ≠ some y

/-- A call and an agent that name each other, or nobody, may come to name each other or nobody. -/
theorem State.Consistent.replacePair {loose' : Nat → Prop} {y : Nat} {c c' : Call} {x : Nat} {a' : Agent}
    (h : s.Consistent sorted loose unplaced) (k : s.PairReplaced t y c' x a') (hc : s.call? y = some c)
    (fits : s.PairFits sorted unplaced y c c' x a') (available : t.AvailableExact) (agentWhole : a'.Whole (loose' x))
    (others : ∀ z, z ≠ x → loose z → loose' z)
    (since : sorted → a'.state = .available ∨ a'.state = .reserved → (s.tick - a'.availSince).toNat < 2 ^ 31)
    (avail : sorted → t.available.Pairwise fun a b => ¬0 < ((t.agent a).availSince - (t.agent b).availSince).toInt) :
    t.Consistent sorted loose' unplaced := by
  have other : ∀ {z}, y ≠ z → t.call? z = s.call? z := fun hz => by rw [k.call, if_neg hz]
  have self : t.call? y = some c' := by rw [k.call, if_pos rfl]
  have otherAgent : ∀ {z}, x ≠ z → t.agent z = s.agent z := fun hz => by rw [k.agent, if_neg hz]
  have selfAgent : t.agent x = a' := by rw [k.agent, if_pos rfl]
  refine
    { available := available
      agent := fun z => ?_
      call := fun z d hd => ?_
      ordered := fun q z => ?_
      once := fun q => by simpa only [k.order] using h.once q
      callOffers := fun z d o hd ho => ?_
      agentOffers := fun z o ho => ?_
      callAgents := fun z d w hd hw => ?_
      agentCalls := fun z w hw => ?_
      recent := fun hs => ⟨fun z hz => ?_, fun z d hd => ?_⟩
      inOrder := fun hs => ⟨avail hs, ?_⟩ }
  · by_cases hz : x = z
    · subst hz; rw [selfAgent]; exact agentWhole
    · rw [otherAgent hz]; exact (h.agent z).mono (others z (Ne.symm hz))
  · by_cases hz : y = z
    · subst hz; rw [self] at hd; cases hd; exact fits.whole
    · exact h.call z d (other hz ▸ hd)
  · rw [k.order, h.ordered]
    by_cases hz : y = z
    · subst hz
      rcases fits.place with hu | hp
      · simp [hu]
      · simp [self, hc, hp.queue, hp.connected]
    · rw [other hz]
  · by_cases hz : y = z
    · subst hz; rw [self] at hd; cases hd
      rw [fits.offeredTo o ho, selfAgent, fits.offer, ho]; rfl
    · have old := h.callOffers z d o (other hz ▸ hd) ho
      by_cases hx : x = o.agent
      · rw [← hx] at old
        exact absurd (fits.oldCall _ old).symm hz
      · rw [otherAgent hx]; exact old
  · by_cases hz : x = z
    · subst hz
      rw [selfAgent, fits.offer, Option.map_eq_some_iff] at ho
      obtain ⟨j, hj, rfl⟩ := ho
      exact ⟨c', j, self, hj, fits.offeredTo j hj, rfl⟩
    · rw [otherAgent hz] at ho
      obtain ⟨d, j, hd, hj, hzj, ht⟩ := h.agentOffers z o ho
      have hy : y ≠ o.call := by
        rintro rfl
        rw [hc] at hd; cases hd
        exact hz ((fits.oldOffer j hj).symm.trans hzj)
      exact ⟨d, j, (other hy).trans hd, hj, hzj, ht⟩
  · by_cases hz : y = z
    · subst hz; rw [self] at hd; cases hd
      rcases fits.connection with ⟨hn, -⟩ | ⟨hn, ha, -⟩
      · rw [hn] at hw; cases hw
      · rw [hn] at hw; cases hw; rw [selfAgent, ha]
    · have old := h.callAgents z d w (other hz ▸ hd) hw
      by_cases hx : x = w
      · subst hx
        exact absurd (fits.oldConnection z old).symm hz
      · rw [otherAgent hx]; exact old
  · by_cases hz : x = z
    · subst hz
      rw [selfAgent] at hw
      rcases fits.connection with ⟨-, hn⟩ | ⟨hn, ha, -⟩
      · rw [hn] at hw; cases hw
      · rw [ha] at hw; cases hw
        exact .inl ⟨c', self, hn⟩
    · rw [otherAgent hz] at hw
      have old := (h.agentCalls z w hw).imp_right fun hn => (⟨others z (Ne.symm hz) hn.1, hn.2⟩ : loose' z ∧ _)
      by_cases hy : y = w
      · subst hy
        simp only [self, Option.some.injEq, forall_eq', exists_eq_left', hc] at old ⊢
        rcases old with ha | ⟨hl, hn⟩
        · exact absurd (fits.oldAgent z ha).symm hz
        · rcases fits.connection with ⟨ha, -⟩ | ⟨-, -, hno⟩
          · exact .inr ⟨hl, ha⟩
          · exact absurd hw (hno z)
      · simpa only [other hy] using old
  · rw [k.tick]
    by_cases hx : x = z
    · subst hx; rw [selfAgent] at hz ⊢; exact since hs hz
    · rw [otherAgent hx] at hz ⊢; exact (h.recent hs).1 z hz
  · rw [k.tick]
    by_cases hz : y = z
    · subst hz; rw [self] at hd; cases hd; rw [fits.entry]; exact (h.recent hs).2 y c hc
    · exact (h.recent hs).2 z d (other hz ▸ hd)
  · refine (h.inOrder hs).queues_of_places (fun q => by rw [k.order]) fun q z hz d hd => ?_
    by_cases hy : y = z
    · subst hy; rw [self] at hd; cases hd
      rcases fits.place with hu | hp
      · rw [k.order, h.ordered] at hz
        exact absurd hu hz.1
      · exact ⟨c, hc, hp.band, hp.entry⟩
    · exact ⟨d, other hy ▸ hd, rfl, rfl⟩

end

end Sys2Proof.Machine
end

section
/-!
PROOF. The operations of calls, treatments and waiting work keep the records consistent.
-/
namespace Sys2Proof.Machine

open Sys2Proof

section
variable {sorted : Prop} {loose unplaced : Nat → Prop} {s t : State} {e : Ev}

/-! ## Edits of a call's record -/

/-- A call's record edited in its treatment, its promotion deadline, its redirects or its pending exit. -/
structure Call.Edited (c d : Call) : Prop where
  state : d.state = c.state
  owner : d.owner = c.owner
  queue : d.queue = c.queue
  band : d.band = c.band
  entry : d.entry = c.entry
  offer : d.offer = c.offer
  agent : d.agent = c.agent
  connectTick : d.connectTick = c.connectTick
  answered : c.state = .connected → d.treatment = none ∧ d.promotion = none ∧ d.exitPending = none
  exiting : d.exitPending.isSome = true → c.state = .waiting

theorem Call.Edited.whole {c d : Call} (k : c.Edited d) (h : c.Whole) : d.Whole where
  offering := by rw [k.state, k.offer]; exact h.offering
  connected := by rw [k.state, k.connectTick]; exact h.connected
  served := by rw [k.state, k.agent]; exact h.served
  answered := by rw [k.state]; exact k.answered
  exiting := by rw [k.state]; exact k.exiting
  switching := by rw [k.owner]; exact h.switching

theorem Call.Edited.samePlace {c d : Call} (k : c.Edited d) : c.SamePlace d :=
  ⟨k.queue, by rw [k.state], k.band, k.entry⟩

theorem State.Consistent.edit {y : Nat} {c d : Call} (h : s.Consistent sorted loose unplaced) (k : s.CallReplaced t y d)
    (hc : s.call? y = some c) (he : c.Edited d) : t.Consistent sorted loose unplaced :=
  h.editCall k hc (he.whole (h.call y c hc)) he.offer he.agent he.samePlace

/-- A treatment part is changed, made absent, or made for a call that is not connected. -/
theorem Call.Whole.withTreatment {c : Call} (h : c.Whole) (t : Option Treatment)
    (ht : c.treatment = none → c.state = .connected → t = none) : c.Edited { c with treatment := t } where
  state := rfl
  owner := rfl
  queue := rfl
  band := rfl
  entry := rfl
  offer := rfl
  agent := rfl
  connectTick := rfl
  answered hs := ⟨ht (h.answered hs).1 hs, (h.answered hs).2⟩
  exiting := h.exiting

theorem State.Consistent.updTreatment (h : s.Consistent sorted loose unplaced) (y : Nat) (f : Treatment → Treatment) :
    (s.updTreatment y f).Consistent sorted loose unplaced := by
  unfold State.updTreatment State.updCall
  split
  · rename_i c hc
    exact h.edit (s.setCall_replaced _ _) hc ((h.call y c hc).withTreatment _ fun hn _ => by simp [hn])
  · exact h

theorem State.Consistent.changeSource (h : e.st.Consistent sorted loose unplaced) (y : Nat) (c : Call) (source : Source) :
    (e.changeSource y c source).1.st.Consistent sorted loose unplaced := by
  unfold Ev.changeSource
  split
  · exact (h.same (e.queueListen_same _ _ _)).updTreatment _ _
  · dsimp only
    refine State.Consistent.same ?_ (Ev.updLink_same _ _ _)
    exact h.updTreatment _ _

theorem State.Consistent.finishTreatment (h : e.st.Consistent sorted loose unplaced) (y : Nat) :
    (e.finishTreatment y).st.Consistent sorted loose unplaced := h.updTreatment _ _

theorem State.Consistent.advanceStep (h : e.st.Consistent sorted loose unplaced) (y : Nat) :
    (e.advanceStep y).st.Consistent sorted loose unplaced := h.updTreatment _ _

theorem State.Consistent.holdStep (h : e.st.Consistent sorted loose unplaced) (y : Nat) :
    (e.holdStep y).st.Consistent sorted loose unplaced := h.updTreatment _ _

theorem State.Consistent.sourceStep (h : e.st.Consistent sorted loose unplaced) (y : Nat) (c : Call) (t : Treatment)
    (p : Option Nat) (source : Source) (d : Nat) : (e.sourceStep y c t p source d).st.Consistent sorted loose unplaced := by
  unfold Ev.sourceStep
  dsimp only
  have h1 := h.updTreatment y fun t => { t with lastProgramme := p }
  split
  · exact h1.updTreatment _ _
  · split
    · exact (State.Consistent.changeSource (e := e.upd _) h1 y c source).updTreatment _ _
    · exact State.Consistent.changeSource (e := e.upd _) h1 y c source

theorem State.Consistent.runOff (h : e.st.Consistent sorted loose unplaced) (y : Nat) (c : Call) (t : Treatment)
    (length : Nat) : (e.runOff y c t length).st.Consistent sorted loose unplaced := by
  unfold Ev.runOff
  split
  · dsimp only
    split
    · exact (h.changeSource y c .none).finishTreatment y
    · exact h.changeSource y c .none
  · exact State.Consistent.finishTreatment (e := e.upd _) (h.updTreatment _ _) y

theorem State.Consistent.bindChannel (h : e.st.Consistent sorted loose unplaced) (w : Highway) (ts y : Nat) (c : Call)
    (phrase : List Nat) : (e.bindChannel w ts y c phrase).st.Consistent sorted loose unplaced := by
  unfold Ev.bindChannel
  dsimp only
  refine (State.Consistent.same ?_ (Ev.queueListen_same _ _ _ _)).updTreatment _ _
  exact h.same ((State.SameRecords.updUseCounts _ _ _).trans (.setChannel _ _ _ _))

/-! ## Stopping a treatment and leaving an order (R138, R39) -/

/-- A call without its treatment. -/
def Call.untreated (c : Call) : Call := { c with treatment := none }

/-- A stopped treatment is gone from the call's record, and the other records are as they were. -/
theorem State.stopTreatment_replaced {y : Nat} {c : Call} (hc : s.call? y = some c) :
    s.CallReplaced (s.stopTreatment y) y c.untreated := by
  unfold State.stopTreatment
  simp only [hc]
  split
  · rename_i hn
    have : c.untreated = c := by rw [Call.untreated, ← hn]
    exact ⟨by simp, rfl, fun z => by rw [this]; split <;> simp_all, by simp, rfl⟩
  · rename_i t ht
    have k : s.SameRecords ((s.updRefs t.bank (· - 1)).stopAudio y c) :=
      (State.SameRecords.updRefs _ _ _).trans (State.stopAudio_same _ _ _)
    generalize (s.updRefs t.bank (· - 1)).stopAudio y c = u at k
    exact ⟨by simpa using k.agent, by simpa using k.available, fun z => by simp [k.call, Call.untreated],
      by simpa using k.order, by simpa using k.tick⟩

/-- A call as it leaves its waiting order (R39, R138). -/
def Call.outOfOrder (c : Call) : Call := { c with treatment := none, promotion := none }

/-- What the leaving of a waiting order changes of the records. -/
structure State.OrderLeft (s t : State) (y : Nat) (c : Call) : Prop where
  agent : ∀ x, t.agent x = s.agent x
  available : t.available = s.available
  call : ∀ z, t.call? z = if y = z then some c.outOfOrder else s.call? z
  order : ∀ q, (t.queue q).order = if c.queue = q then (s.queue q).order.filter (· != y) else (s.queue q).order
  tick : t.tick = s.tick

theorem Ev.leaveOrder_left {y : Nat} {c : Call} (hc : e.st.call? y = some c) :
    e.st.OrderLeft (e.leaveOrder y c).st y c := by
  unfold Ev.leaveOrder
  dsimp only
  have k := State.stopTreatment_replaced hc
  have m := fun d : Ev => d.evalOpening_same c.queue
  refine ⟨fun x => ?_, ?_, fun z => ?_, fun q => ?_, ?_⟩
  · rw [(m _).agent, Ev.upd_st]; simp [k.agent]
  · rw [(m _).available, Ev.upd_st]; simp [k.available]
  · rw [(m _).call, Ev.upd_st]
    by_cases hz : y = z
    · subst hz; simp [k.call, Call.untreated, Call.outOfOrder]
    · simp [hz, k.call]
  · rw [(m _).order, Ev.upd_st]
    by_cases hq : c.queue = q
    · subst hq; simp [k.order]
    · simp [hq, k.order]
  · rw [(m _).tick, Ev.upd_st]; simp [k.tick]

theorem Call.Whole.outOfOrder_edited {c : Call} (h : c.Whole) : c.Edited c.outOfOrder where
  state := rfl
  owner := rfl
  queue := rfl
  band := rfl
  entry := rfl
  offer := rfl
  agent := rfl
  connectTick := rfl
  answered hs := ⟨rfl, rfl, (h.answered hs).2.2⟩
  exiting := h.exiting

theorem State.Consistent.orderLeft {y : Nat} {c : Call} (h : s.Consistent sorted loose unplaced) (hc : s.call? y = some c)
    (k : s.OrderLeft t y c) : t.Consistent sorted loose fun z => unplaced z ∨ z = y := by
  have h1 := h.edit (s.setCall_replaced y c.outOfOrder) hc (h.call y c hc).outOfOrder_edited
  exact h1.unplace (c := c.outOfOrder) (by simp) (by simpa using k.agent) (by simpa using k.available) (by simpa using k.call)
    (by simpa [Call.outOfOrder] using k.order) (by simpa using k.tick)

/-! ## Removal and exit (R49, R51, R52) -/

/-- The removal of a call that is not connected and has no offer (R49, R51, R53). -/
theorem State.Consistent.removeCall {y : Nat} {c : Call} (h : e.st.Consistent sorted loose nobody)
    (hc : e.st.call? y = some c) (hw : c.state = .waiting) (n : CounterName) :
    (e.removeCall y c n).st.Consistent sorted loose nobody := by
  have whole := h.call y c hc
  have left := Ev.leaveOrder_left hc
  have h1 := h.orderLeft hc left
  have hoffer : c.offer = none := by
    have := whole.offering
    rw [hw] at this
    simpa using this
  have hagent : c.agent = none := by
    have := whole.served
    rw [hw] at this
    simpa using this
  unfold Ev.removeCall
  dsimp only
  have k : (e.leaveOrder y c).st.SameRecords
      (((e.leaveOrder y c).count c.queue n).updLink c.owner fun r => { r with exitOrder := r.exitOrder.filter (· != y) }).st :=
    (Ev.count_same _ _ _).trans (Ev.updLink_same _ _ _)
  have h2 := h1.same k
  refine State.Consistent.mono (h2.freeCall (y := y) (c := c.outOfOrder) ?_ hoffer (.inl (.inr rfl))) (fun x => ?_) fun z d hz _ => ?_
  · rw [k.call, left.call, if_pos rfl]
  · simp [Call.outOfOrder, hagent]
  · have : z ≠ y := by
      rintro rfl
      rw [Ev.upd_st, State.call?_freeCall, if_pos rfl] at hz
      cases hz
    simp [this]

/-- The exit of a WAITING call, at once or pending (R51, R52). -/
theorem State.Consistent.exitCall {y : Nat} {c : Call} (h : e.st.Consistent sorted loose nobody)
    (hc : e.st.call? y = some c) (hw : c.state = .waiting) (reason : Nat) :
    (e.exitCall y c reason).st.Consistent sorted loose nobody := by
  unfold Ev.exitCall
  split
  · have k := e.queueNotice_same c.owner (.callExit y c.ref reason)
    exact (h.same k).removeCall (by rw [k.call, hc]) hw _
  · dsimp only
    refine State.Consistent.same ?_ (Ev.updLink_same _ _ _)
    rw [Ev.upd_st]
    have k := State.stopTreatment_replaced hc
    refine h.edit (d := { c with treatment := none, exitPending := some reason, promotion := none })
      ⟨by simp [k.agent], by simp [k.available], fun z => ?_, by simp [k.order], by simp [k.tick]⟩ hc ?_
    · simp only [State.call?_updCall, k.call]
      split <;> rfl
    · exact ⟨rfl, rfl, rfl, rfl, rfl, rfl, rfl, rfl, fun hs => by simp [hw] at hs, fun _ => hw⟩

theorem State.Consistent.chargeRedirect {y : Nat} {c : Call} (h : e.st.Consistent sorted loose nobody)
    (hc : e.st.call? y = some c) (hw : c.state = .waiting) :
    (e.chargeRedirect y).st.Consistent sorted loose nobody := by
  unfold Ev.chargeRedirect
  simp only [hc]
  split
  · have whole := h.call y c hc
    exact h.edit (e.st.setCall_replaced y _) hc ⟨rfl, rfl, rfl, rfl, rfl, rfl, rfl, rfl, whole.answered, whole.exiting⟩
  · exact h.exitCall hc hw _

/-! ## Aging and RAISE (R41, R42) -/

/-- A call that stands in its queue is re-inserted with another band. -/
theorem State.Consistent.reband {y : Nat} {c d : Call} (h : s.Consistent sorted loose nobody) (hc : s.call? y = some c)
    (hn : c.state ≠ .connected) (whole : d.Whole) (queue : d.queue = c.queue) (state : d.state = c.state)
    (entry : d.entry = c.entry) (offer : d.offer = c.offer) (agent : d.agent = c.agent) :
    ((s.setCall y d).reinsert y d).Consistent sorted loose nobody := by
  have h1 : (s.setQueue c.queue { s.queue c.queue with order := (s.queue c.queue).order.filter (· != y) }).Consistent
      sorted loose fun z => nobody z ∨ z = y :=
    h.unplace hc (by simp) (by simp) (by simp) (fun q => by
      rw [State.queue_setQueue]
      split
      · rename_i hq; subst hq; rfl
      · rfl) (by simp)
  generalize hu : s.setQueue c.queue { s.queue c.queue with order := (s.queue c.queue).order.filter (· != y) } = u at h1
  have hcall : u.call? y = some c := by rw [← hu]; simpa using hc
  have h2 := h1.replaceCall (u.setCall_replaced y d) whole (.inl ⟨c, hcall, offer, .inl agent⟩) (.inl (.inr rfl))
    fun hs => by rw [entry]; exact (h1.recent hs).2 y c hcall
  refine State.Consistent.mono (loose := loose) (unplaced := fun z => (nobody z ∨ z = y) ∧ z ≠ y) (h2.place (c := d) (.inr rfl) (by simp)
    (by rw [state]; exact hn) ?_ ?_ ?_ ?_ ?_) (fun _ => id) fun z _ _ _ => by simp
  all_goals subst hu
  · simp [State.reinsert]
  · simp [State.reinsert]
  · simp [State.reinsert]
  · intro q
    have ins : ∀ L : List Nat, (s.setCall y d).insertInOrder y d.band d.entry L
        = ((s.setQueue c.queue { s.queue c.queue with order := (s.queue c.queue).order.filter (· != y) }).setCall y d).insertInOrder
            y d.band d.entry L := fun L => by
      rw [State.insertInOrder_eq, State.insertInOrder_eq]
      rfl
    simp only [State.reinsert, State.queue_setQueue, State.setCall_queue, queue, ins]
    split
    · rename_i hq; subst hq; rfl
    · rfl
  · simp [State.reinsert]

end

end Sys2Proof.Machine
end

section
/-!
PROOF. Joining a waiting order, starting a treatment and making offers keep the records consistent; so do the steps of a treatment
and the work that waits for notice space.
-/
namespace Sys2Proof.Machine

open Sys2Proof

section
variable {sorted : Prop} {loose unplaced : Nat → Prop} {s t : State} {e : Ev}

/-! ## Joining an order (R39), starting a treatment (R126), moving (R48) -/

theorem Call.Whole.unnamed {c : Call} (h : c.Whole) (hw : c.state = .waiting) : c.offer = none ∧ c.agent = none := by
  have ho := h.offering
  have ha := h.served
  rw [hw] at ho ha
  simp only [reduceCtorEq, false_iff, Bool.not_eq_true, Option.isSome_eq_false_iff, Option.isNone_iff_eq_none, imp_false] at ho ha
  exact ⟨ho, ha⟩

theorem State.Consistent.joinOrder {y : Nat} {c : Call} (h : e.st.Consistent sorted loose unplaced) (hu : unplaced y)
    (hc : e.st.call? y = some c) (hn : c.state ≠ .connected) :
    (e.joinOrder y c).st.Consistent sorted loose fun z => unplaced z ∧ z ≠ y := by
  unfold Ev.joinOrder
  dsimp only
  refine State.Consistent.same ?_ (Ev.evalClosing_same _ _)
  rw [Ev.upd_st]
  refine h.place hu hc hn (by simp) (by simp) (by simp) (fun q => ?_) (by simp)
  rw [State.queue_setQueue]
  split
  · rename_i hq; subst hq; rfl
  · rfl

theorem Ev.joinOrder_call (e : Ev) (y : Nat) (c : Call) (z : Nat) : (e.joinOrder y c).st.call? z = e.st.call? z := by
  unfold Ev.joinOrder
  dsimp only
  rw [(Ev.evalClosing_same _ _).call, Ev.upd_st]
  simp

theorem State.Consistent.startTreatment {y : Nat} {c : Call} (h : e.st.Consistent sorted loose unplaced)
    (hc : e.st.call? y = some c) (hn : c.state ≠ .connected) (source : Source) (last : Option Nat) :
    (e.startTreatment y c source last).1.st.Consistent sorted loose unplaced := by
  have base : ∀ t, (e.upd fun s => (s.setCall y { c with treatment := t }).updRefs e.st.activeBank (· + 1)).st.Consistent
      sorted loose unplaced := fun t => by
    rw [Ev.upd_st]
    exact (h.edit (e.st.setCall_replaced y _) hc ((h.call y c hc).withTreatment t fun _ hs => absurd hs hn)).same
      (.updRefs _ _ _)
  unfold Ev.startTreatment
  dsimp only
  split
  · exact (base _).changeSource y c _
  · exact base _
  · exact base _

/-- An overflow move of a WAITING call (R48). -/
theorem State.Consistent.moveCall {y : Nat} {c : Call} (h : e.st.Consistent sorted loose nobody) (hc : e.st.call? y = some c)
    (hw : c.state = .waiting) (t : Treatment) (p : Placement) :
    (e.moveCall y c t p).1.st.Consistent sorted loose nobody := by
  have whole := h.call y c hc
  obtain ⟨hoffer, hagent⟩ := whole.unnamed hw
  have left := Ev.leaveOrder_left hc
  have h1 := h.orderLeft hc left
  unfold Ev.moveCall
  dsimp only
  generalize hd : ({ c with
    queue := p.queue, entry := e.st.tick, redirects := p.redirects, treatment := none
    promotion := ((e.leaveOrder y c).st.queue p.queue).config.firstPromotion c.band e.st.tick } : Call) = d
  have dw : d.state = .waiting := by rw [← hd]; exact hw
  have d_whole : d.Whole := by
    subst hd
    exact ⟨whole.offering, whole.connected, whole.served, fun hs => by simp [hw] at hs, whole.exiting, whole.switching⟩
  have h2 : ((e.leaveOrder y c).upd fun s => s.setCall y d).st.Consistent sorted loose fun z => nobody z ∨ z = y := by
    refine h1.replaceCall (State.setCall_replaced _ y d) d_whole
      (.inl ⟨c.outOfOrder, by rw [left.call, if_pos rfl], by rw [← hd]; rfl, .inl (by rw [← hd]; rfl)⟩) (.inl (.inr rfl))
      fun _ => ?_
    rw [left.tick, ← hd]
    simp
  have call2 : ((e.leaveOrder y c).upd fun s => s.setCall y d).st.call? y = some d := by simp [Ev.upd_st]
  have h3 := (h2.joinOrder (.inr rfl) call2 (by simp [dw])).mono (loose' := loose) (unplaced' := nobody) (fun _ => id)
    fun z _ _ _ => by simp
  generalize hf : ((e.leaveOrder y c).upd fun s => s.setCall y d).joinOrder y d = f at h3
  have call3 : f.st.call? y = some d := by rw [← hf, Ev.joinOrder_call, call2]
  have k : f.st.SameRecords (((f.count c.queue .overflowedOut).countPassed p.passed).count p.queue .offered).st :=
    ((f.count_same _ _).trans (Ev.countPassed_same _ _)).trans (Ev.count_same _ _ _)
  exact (h3.same k).startTreatment (by rw [k.call, call3]) (by simp [dw]) _ _

/-! ## Making an offer (R68) -/

/-- A call that is offered. -/
def Call.offeredTo (c : Call) (o : CallOffer) : Call := { c with state := .offering, offer := some o }

/-- An agent that is offered a call. -/
def Agent.offered (a : Agent) (token : Token) (y : Nat) : Agent :=
  { a with state := .reserved, offer := some { token := token, call := y }, lastToken := token, lastOutcome := none }

/-- The call's side of the offer that `makeOffer` makes. -/
def State.newOffer (s : State) (c : Call) (x : Nat) : CallOffer :=
  { token := nextToken s.token, agent := x, deadline := Tick.plus s.tick (s.queue c.queue).config.ringTime }

/-- The state of an event that makes an offer, up to the entries that the offer takes on the links. -/
theorem Ev.makeOffer_records (e : Ev) (y : Nat) (c : Call) (x : Nat) :
    e.st.PairReplaced (e.makeOffer y c x).st y (c.offeredTo (e.st.newOffer c x)) x
        ((e.st.agent x).offered (nextToken e.st.token) y)
      ∧ (e.makeOffer y c x).st.available = dropSlot x e.st.available := by
  generalize ha : (e.st.agent x).offered (nextToken e.st.token) y = a
  generalize hd : (e.upd fun s => { s with token := nextToken e.st.token }).putAgent x a .offer = d
  have k : e.st.AgentReplaced d.st x a := by
    rw [← hd]
    exact (Ev.putAgent_replaced _ x a .offer).after (.of_eq rfl rfl rfl rfl rfl)
  have av : d.st.available = dropSlot x e.st.available := by
    rw [← hd, Ev.putAgent_available, if_neg (by rw [← ha]; simp [Agent.offered])]
    rfl
  have config : (d.st.queue c.queue).config = (e.st.queue c.queue).config := by
    rw [← hd]
    exact (Ev.putAgent_apart _ x a .offer).1.config c.queue
  have tick : d.st.tick = e.st.tick := k.tick
  have base : e.st.PairReplaced (d.st.setCall y (c.offeredTo (e.st.newOffer c x))) y (c.offeredTo (e.st.newOffer c x)) x a :=
    ⟨fun z => by simpa using k.agent z, fun z => by simp [k.call], fun q => by simpa using k.order q, by simpa using tick⟩
  have step : ∃ f : Ev, f.st = d.st.setCall y (c.offeredTo (e.st.newOffer c x)) ∧ f.st.SameRecords (e.makeOffer y c x).st := by
    have hm : e.makeOffer y c x = match (e.st.agent x).home with
        | none => d.upd fun s => s.setCall y (c.offeredTo (e.st.newOffer c x))
        | some h => (((d.upd fun s => s.setCall y (c.offeredTo (e.st.newOffer c x))).queueNotice h
            (.offer (nextToken e.st.token) x (e.st.agent x).id y c.queue (c.key.getD 0) c.owner c.ref)).reserve h).reserve
              c.owner := by
      unfold Ev.makeOffer State.newOffer
      rw [← config, ← tick, ← hd, ← ha]
      rfl
    refine ⟨d.upd fun s => s.setCall y (c.offeredTo (e.st.newOffer c x)), rfl, ?_⟩
    rw [hm]
    split
    · exact .refl _
    · exact ((Ev.queueNotice_same _ _ _).trans (Ev.reserve_same _ _)).trans (Ev.reserve_same _ _)
  obtain ⟨f, hf, m⟩ := step
  rw [hf] at m
  exact ⟨⟨fun z => by rw [m.agent, base.agent], fun z => by rw [m.call, base.call], fun q => by rw [m.order, base.order],
    by rw [m.tick, base.tick]⟩, by rw [m.available]; simpa using av⟩

/-- A list of available agents stays in order when agents leave it. -/
theorem State.OrdersSorted.available_sublist (h : s.OrdersSorted) (sub : t.available.Sublist s.available)
    (since : ∀ z ∈ t.available, (t.agent z).availSince = (s.agent z).availSince) :
    t.available.Pairwise fun a b => ¬0 < ((t.agent a).availSince - (t.agent b).availSince).toInt :=
  (h.1.sublist sub).imp_of_mem fun ha hb hab => by rw [since _ ha, since _ hb]; exact hab

/-- An AVAILABLE agent holds nothing. -/
theorem Agent.Whole.idle {P : Prop} {a : Agent} (h : a.Whole P) (hs : a.state = .available) :
    a.offer = none ∧ a.call = none ∧ a.wrap = none ∧ a.penaltyDeadline = none := by
  have h1 := h.offered
  have h2 := h.busy
  have h3 := h.wrapping
  have h4 := h.penalized
  rw [hs] at h1 h2 h3 h4
  simpa using And.intro h1 (And.intro h2 (And.intro h3 h4))

/-- An offer of a WAITING call to an AVAILABLE agent. -/
theorem State.Consistent.makeOffer {y x : Nat} {c : Call} (h : e.st.Consistent sorted loose nobody)
    (hc : e.st.call? y = some c) (hw : c.state = .waiting) (hp : c.exitPending = none)
    (hx : (e.st.agent x).state = .available) : (e.makeOffer y c x).st.Consistent sorted loose nobody := by
  obtain ⟨k, av⟩ := e.makeOffer_records y c x
  have whole := h.call y c hc
  obtain ⟨hoffer, hagent⟩ := whole.unnamed hw
  obtain ⟨xoffer, xcall, xwrap, xpen⟩ := (h.agent x).idle hx
  have xhome := (h.agent x).homed
  refine h.replacePair k hc ?_ ((e.makeOffer_engine y c x fun hb => hb y c hc).available h.available) ?_ (fun _ _ => id)
    (fun hs _ => by simpa [Agent.offered] using (h.recent hs).1 x (.inl hx)) fun hs => ?_
  · exact
      { whole := ⟨by simp [Call.offeredTo], by simpa [Call.offeredTo, hw] using whole.connected,
          by simp [Call.offeredTo, hagent], by simp [Call.offeredTo], by simp [Call.offeredTo, hp],
          whole.switching⟩
        place := .inr ⟨rfl, by simp [Call.offeredTo, hw], rfl, rfl⟩
        entry := rfl
        oldOffer := by simp [hoffer]
        oldCall := by simp [xoffer]
        oldAgent := by simp [hagent]
        oldConnection := by simp [xcall]
        offer := rfl
        offeredTo := by simp [Call.offeredTo, State.newOffer]
        connection := .inl ⟨hagent, xcall⟩ }
  · rw [hx] at xhome
    exact ⟨by simp [Agent.offered], by simp [Agent.offered], by simp [Agent.offered, xcall], by simp [Agent.offered, xwrap],
      by simp [Agent.offered, xpen], by simpa [Agent.offered] using xhome, (h.agent x).switching⟩
  · refine (h.inOrder hs).available_sublist (by rw [av]; exact List.filter_sublist) fun z _ => ?_
    rw [k.agent]
    split
    · rename_i hz; subst hz; rfl
    · rfl

theorem State.candidate_waiting {c : Call} (h : s.candidate c = true) : c.state = .waiting ∧ c.exitPending = none := by
  simp only [State.candidate, Bool.and_eq_true, decide_eq_true_eq, Option.isNone_iff_eq_none] at h
  exact h.1

theorem State.agentFor_available {q : Nat} {c : Call} {x : Nat} (h : s.agentFor q c = some x) : x ∈ s.available :=
  List.mem_of_find?_eq_some h

theorem State.Consistent.attemptLoop (h : e.st.Consistent sorted loose nobody) (q fuel : Nat) :
    (Ev.attemptLoop q fuel e).st.Consistent sorted loose nobody := by
  induction fuel generalizing e with
  | zero => exact h
  | succ fuel ih =>
    unfold Ev.attemptLoop
    split
    · rename_i y c x hp
      obtain ⟨hc, hcand, hx⟩ := e.st.pairIn_call q _ hp
      obtain ⟨hw, hpend⟩ := State.candidate_waiting hcand
      exact ih (h.makeOffer hc hw hpend ((h.available.1 x).1 (State.agentFor_available hx)))
    · exact h

theorem State.Consistent.queueAttempts (h : e.st.Consistent sorted loose nobody) (q : Nat) :
    (e.queueAttempts q).st.Consistent sorted loose nobody := h.attemptLoop _ _

theorem State.Consistent.agentAttempt (h : e.st.Consistent sorted loose nobody) (x : Nat) :
    (e.agentAttempt x).st.Consistent sorted loose nobody := by
  unfold Ev.agentAttempt
  dsimp only
  split
  · rename_i hx
    split
    · rename_i y c hb
      obtain ⟨hc, hcand, -⟩ := e.st.bestCall_call _ hb
      obtain ⟨hw, hpend⟩ := State.candidate_waiting hcand
      exact h.makeOffer hc hw hpend hx
    · exact h
  · exact h

theorem State.affinityAgent_available {q : Nat} {c : Call} {x : Nat} (h : s.affinityAgent q c = some x) :
    (s.agent x).state = .available := by
  unfold State.affinityAgent at h
  split at h
  · split at h
    · cases h
    · split at h
      · cases h
      · dsimp only at h
        split at h
        · rename_i ha; cases h; exact ha.1
        · cases h
  · cases h

theorem State.Consistent.affinityOffer (h : e.st.Consistent sorted loose nobody) (y q : Nat) :
    (e.affinityOffer y q).st.Consistent sorted loose nobody := by
  unfold Ev.affinityOffer
  split
  · exact h
  · rename_i c hc
    split
    · rename_i hw
      split
      · rename_i x hx
        exact h.makeOffer hc hw.1 hw.2.1 (State.affinityAgent_available hx)
      · exact h
    · exact h

/-! ## The steps of a treatment (R127 to R137) -/

/-- A phrase step asks for a channel. -/
theorem State.Consistent.requestChannel (h : e.st.Consistent sorted loose nobody) (count y : Nat) (c : Call)
    (phrase : List Nat) : (e.requestChannel count y c phrase).ev.st.Consistent sorted loose nobody := by
  unfold Ev.requestChannel
  split
  · exact h
  · dsimp only
    split
    · exact h.bindChannel _ _ _ _ _
    · split
      · exact (h.same (e.count_same _ _)).advanceStep y
      · exact State.Consistent.updTreatment (h.same (.setHighway _ _ _)) _ _

theorem State.Consistent.timeless (h : e.st.Consistent sorted loose nobody) {done : Ev}
    (hd : done.st.Consistent sorted loose nobody) (count y : Nat) :
    (timeless count y e done).ev.st.Consistent sorted loose nobody := by
  unfold Sys2Proof.Machine.timeless
  split
  · exact hd
  · exact h.finishTreatment y

theorem State.Consistent.raiseCall {y : Nat} {c : Call} (h : s.Consistent sorted loose nobody) (hc : s.call? y = some c)
    (hn : c.state ≠ .connected) (n : Nat) : (s.raiseCall y c n).Consistent sorted loose nobody := by
  unfold State.raiseCall
  split
  · exact h
  · have whole := h.call y c hc
    exact h.reband hc hn ⟨whole.offering, whole.connected, whole.served, fun hs => absurd hs hn, whole.exiting, whole.switching⟩
      rfl rfl rfl rfl rfl

/-- A call whose treatment is running is not connected. -/
theorem Call.Whole.treated {c : Call} (h : c.Whole) {t : Treatment} (ht : c.treatment = some t) : c.state ≠ .connected :=
  fun hs => by simp [(h.answered hs).1] at ht

theorem State.Consistent.runStep {y : Nat} {c : Call} {t : Treatment} (h : e.st.Consistent sorted loose nobody)
    (hc : e.st.call? y = some c) (ht : c.treatment = some t) (count : Nat) :
    (e.runStep count y c t).ev.st.Consistent sorted loose nobody := by
  have hn := (h.call y c hc).treated ht
  have waiting : c.state ≠ .offering → c.state = .waiting := fun ho => by
    cases hs : c.state <;> simp_all
  unfold Ev.runStep
  dsimp only
  split
  · exact h.runOff _ _ _ _
  · split
    · exact h.sourceStep _ _ _ _ _ _
    · exact h.sourceStep _ _ _ _ _ _
    iterate 3
      split
      · exact h.timeless (h.advanceStep y) _ _
      · exact h.requestChannel _ _ _ _
    · exact h.timeless (h.updTreatment _ _) _ _
    · exact h.timeless (State.Consistent.advanceStep (e := e.upd _) (h.raiseCall hc hn _) y) _ _
    · split
      · exact h.holdStep y
      · rename_i ho
        split
        · exact h.timeless (h.advanceStep y) _ _
        · exact h.exitCall hc (waiting ho) _
        · exact h.moveCall hc (waiting ho) t _
    · split
      · exact h.holdStep y
      · rename_i ho
        exact h.exitCall hc (waiting ho) _

theorem State.Consistent.runSteps (h : e.st.Consistent sorted loose nobody) (fuel count y : Nat) :
    (Ev.runSteps fuel count y e).st.Consistent sorted loose nobody := by
  induction fuel generalizing count e with
  | zero => exact h
  | succ fuel ih =>
    unfold Ev.runSteps
    split
    · exact h
    · rename_i c hc
      split
      · exact h
      · rename_i t ht
        have hr := h.runStep hc ht count
        split
        · rename_i e' he; rw [he] at hr; exact hr
        · rename_i n e' he; rw [he] at hr; exact ih hr _
        · rename_i q runs e' he
          rw [he] at hr
          refine State.Consistent.queueAttempts ?_ q
          split
          · exact ih hr _
          · exact hr

theorem State.Consistent.treatmentEvent (h : e.st.Consistent sorted loose nobody) (y : Nat) :
    (e.treatmentEvent y).st.Consistent sorted loose nobody := h.runSteps _ _ _

theorem State.Consistent.completePhrase (h : e.st.Consistent sorted loose nobody) (y : Nat) :
    (e.completePhrase y).st.Consistent sorted loose nobody := (h.advanceStep y).treatmentEvent y

theorem State.Consistent.runHeldStep (h : e.st.Consistent sorted loose nobody) (y : Nat) :
    (e.runHeldStep y).st.Consistent sorted loose nobody := by
  unfold Ev.runHeldStep
  split
  · exact h
  · split
    · split
      · exact h.treatmentEvent y
      · exact h
    · exact h

theorem State.Consistent.queueReturn (h : e.st.Consistent sorted loose nobody) (y : Nat) (c : Call) (t : Treatment)
    (w : Highway) (ts : Nat) : (e.queueReturn y c t w ts).st.Consistent sorted loose nobody := by
  unfold Ev.queueReturn
  dsimp only
  refine State.Consistent.completePhrase ?_ y
  refine State.Consistent.updTreatment ?_ _ _
  exact (h.same (e.queueListen_same _ _ _)).same (State.drainChannel_same _ _ _)

theorem State.Consistent.endPhrase (h : e.st.Consistent sorted loose nobody) (w : Highway) (ts y : Nat) (c : Call)
    (t : Treatment) : (e.endPhrase w ts y c t).st.Consistent sorted loose nobody := by
  have base : ∀ gs f ch, ((e.upd fun s => s.updUseCounts gs f).upd fun s => s.setChannel w ts ch).st.Consistent sorted loose
      nobody := fun gs f ch => h.same ((State.SameRecords.updUseCounts _ _ _).trans (.setChannel _ _ _ _))
  unfold Ev.endPhrase
  dsimp only
  split
  · exact (base _ _ _).queueReturn _ _ _ _ _
  · refine State.Consistent.same ?_ (Ev.updLink_same _ _ _)
    exact (base _ _ _).updTreatment _ _

theorem State.Consistent.grantHead (h : e.st.Consistent sorted loose nobody) (w : Highway) (d : Ev)
    (hd : e.grantHead w = some d) : d.st.Consistent sorted loose nobody := by
  have base : ∀ y, (e.upd fun s => s.leaveDeferral w y).st.Consistent sorted loose nobody := fun y =>
    h.same (.setHighway _ _ _)
  unfold Ev.grantHead at hd
  split at hd
  · split at hd
    · dsimp only at hd
      split at hd
      · cases hd; exact base _
      · split at hd
        · cases hd; exact base _
        · split at hd
          all_goals
            split at hd
            · cases hd; exact (base _).completePhrase _
            · cases hd; exact (base _).bindChannel _ _ _ _ _
    · cases hd
  · cases hd

theorem State.Consistent.grants (h : e.st.Consistent sorted loose nobody) (w : Highway) :
    (e.grants w).st.Consistent sorted loose nobody := by
  have loop : ∀ (fuel : Nat) (e : Ev), e.st.Consistent sorted loose nobody →
      (Ev.grantLoop w fuel e).st.Consistent sorted loose nobody := by
    intro fuel
    induction fuel with
    | zero => exact fun e h => h
    | succ fuel ih =>
      intro e h
      unfold Ev.grantLoop
      split
      · rename_i d hd; exact ih d (h.grantHead w d hd)
      · exact h
  exact loop _ _ h

/-! ## The work that waits for notice space, and the end of an event (R180) -/

theorem State.Consistent.completeExit (h : e.st.Consistent sorted loose nobody) (l : Link) (y : Nat) :
    (e.completeExit l y).st.Consistent sorted loose nobody := by
  have h1 := h.same (e.updLink_same l fun r => { r with exitOrder := r.exitOrder.filter (· != y) })
  unfold Ev.completeExit
  dsimp only
  split
  · exact h1
  · rename_i c hc
    split
    · exact h1
    · rename_i reason hp
      have k := (e.updLink l fun r => { r with exitOrder := r.exitOrder.filter (· != y) }).queueNotice_same l
        (.callExit y c.ref reason)
      exact (h1.same k).removeCall (by rw [k.call, hc]) ((h1.call y c hc).exiting (by simp [hp])) _

theorem State.Consistent.exitStage (h : e.st.Consistent sorted loose nobody) (l : Link) (fuel : Nat) :
    (Ev.exitStage l fuel e).st.Consistent sorted loose nobody := by
  induction fuel generalizing e with
  | zero => exact h
  | succ fuel ih =>
    unfold Ev.exitStage
    split
    · exact h
    · split
      · exact ih (h.completeExit l _)
      · exact h

theorem State.Consistent.takeHeldListen (h : e.st.Consistent sorted loose nobody) (l : Link) (y : Nat) :
    (e.takeHeldListen l y).st.Consistent sorted loose nobody := by
  have h1 := h.same (e.updLink_same l fun r => { r with listenOrder := r.listenOrder.filter (· != y) })
  unfold Ev.takeHeldListen
  dsimp only
  split
  · exact h1
  · split
    · exact h1
    · unfold Ev.queueHeldListen
      split
      · exact (h1.changeSource _ _ _).treatmentEvent _
      · exact h1.queueReturn _ _ _ _ _
      · exact h1

theorem State.Consistent.listenStage (h : e.st.Consistent sorted loose nobody) (l : Link) (fuel : Nat) :
    (Ev.listenStage l fuel e).st.Consistent sorted loose nobody := by
  induction fuel generalizing e with
  | zero => exact h
  | succ fuel ih =>
    unfold Ev.listenStage
    split
    · exact h
    · split
      · exact ih (h.takeHeldListen l _)
      · exact h

/-- What each event of a list keeps, all of them keep. -/
theorem State.Consistent.foldl {α : Type} {f : Ev → α → Ev}
    (keeps : ∀ e a, e.st.Consistent sorted loose unplaced → (f e a).st.Consistent sorted loose unplaced) (as : List α) {e : Ev}
    (h : e.st.Consistent sorted loose unplaced) : (as.foldl f e).st.Consistent sorted loose unplaced := by
  induction as generalizing e with
  | nil => exact h
  | cons a as ih => exact ih (keeps e a h)

theorem State.Consistent.attemptStage (h : e.st.Consistent sorted loose nobody) (l : Link) :
    (e.attemptStage l).st.Consistent sorted loose nobody :=
  State.Consistent.foldl (fun e q h => by
    split
    · exact h.queueAttempts q
    · exact h) _ h

theorem State.Consistent.resumeWork (h : e.st.Consistent sorted loose nobody) (l : Link) :
    (e.resumeWork l).st.Consistent sorted loose nobody := by
  unfold Ev.resumeWork
  split
  · exact h
  · exact (((h.exitStage l _).listenStage l _).grants _).attemptStage l

theorem State.Consistent.finish (h : e.st.Consistent sorted loose nobody) : e.finish.Consistent sorted loose nobody := by
  have resumed : ∀ (b : Bool) (l : Link) (e : Ev), e.st.Consistent sorted loose nobody →
      (if b then e.resumeWork l else e).st.Consistent sorted loose nobody := fun b l e h => by
    split
    · exact h.resumeWork l
    · exact h
  exact (resumed _ .b _ (resumed _ .a e h)).same (Ev.deliverOffered_same _)

end

end Sys2Proof.Machine
end

section
/-!
PROOF. The operations that settle agents and end offers keep the records consistent.
-/
namespace Sys2Proof.Machine

open Sys2Proof

section
variable {sorted : Prop} {loose loose' unplaced : Nat → Prop} {s t : State} {e : Ev}

/-! ## An agent's record put in place -/

/-- What a new record does to an agent's call: it keeps it, or it drops it and no call names the agent. -/
def State.CallSettled (s : State) (loose loose' : Nat → Prop) (x : Nat) (new : Agent) : Prop :=
  new.call = (s.agent x).call ∧ (loose x → loose' x) ∨ new.call = none ∧ ∀ y c, s.call? y = some c → c.agent ≠ some x

/-- An agent's record is replaced by one of another state than AVAILABLE and RESERVED, or of the state and the available-since
that the agent has. -/
theorem State.Consistent.putAgent {x : Nat} {new : Agent} (h : e.st.Consistent sorted loose unplaced) (cause : Cause)
    (whole : new.Whole (loose' x)) (logged : new.state ≠ .loggedOut) (offer : new.offer = (e.st.agent x).offer)
    (call : e.st.CallSettled loose loose' x new) (others : ∀ z, z ≠ x → loose z → loose' z)
    (stays : new.state = .available ∨ new.state = .reserved →
      (e.st.agent x).state = new.state ∧ new.availSince = (e.st.agent x).availSince) :
    (e.putAgent x new cause).st.Consistent sorted loose' unplaced := by
  have k := e.putAgent_replaced x new cause
  refine h.replaceAgent k ((e.putAgent_engine x new cause logged fun hs => ?_).available h.available) whole offer call others
    (fun hs hn => ?_) fun hs => (h.inOrder hs).available_sublist ?_ fun z hz => ?_
  · exact (stays (.inl hs)).1.trans hs
  · obtain ⟨hstate, hsince⟩ := stays hn
    rw [hsince]
    exact (h.recent hs).1 x (by rwa [hstate])
  · rw [Ev.putAgent_available]
    split
    · exact List.Sublist.refl _
    · exact List.filter_sublist
  · rw [k.agent]
    split
    · rename_i hx; subst hx
      rw [Ev.putAgent_available] at hz
      split at hz
      · rename_i hn; exact (stays (.inl hn)).2
      · simp [mem_dropSlot] at hz
    · rfl

/-- The available list stays in order when an agent that becomes AVAILABLE now joins its tail. -/
theorem State.Consistent.tailInOrder {x : Nat} {new : Agent} (h : s.Consistent sorted loose unplaced) (hs : sorted)
    (k : s.AgentReplaced t x new) (av : t.available = dropSlot x s.available ++ if new.state = .available then [x] else [])
    (since : new.state = .available → new.availSince = s.tick) :
    t.available.Pairwise fun a b => ¬0 < ((t.agent a).availSince - (t.agent b).availSince).toInt := by
  have others : ∀ z ∈ dropSlot x s.available, t.agent z = s.agent z := fun z hz => by
    rw [k.agent, if_neg (Ne.symm (mem_dropSlot.1 hz).2)]
  have front : (dropSlot x s.available).Pairwise fun a b => ¬0 < ((t.agent a).availSince - (t.agent b).availSince).toInt :=
    ((h.inOrder hs).1.sublist List.filter_sublist).imp_of_mem fun ha hb hab => by rwa [others _ ha, others _ hb]
  rw [av]
  split
  · rename_i hn
    refine List.pairwise_append.2 ⟨front, List.pairwise_singleton _ _, fun a ha b hb => ?_⟩
    rw [List.mem_singleton.1 hb, others a ha, k.agent, if_pos rfl, since hn]
    have age := (h.recent hs).1 a (.inl ((h.available.1 a).1 (mem_dropSlot.1 ha).1))
    rw [Tick.later_iff_age age (by simp)]
    simp
  · simpa using front

/-- An agent's record is replaced, where an agent that becomes AVAILABLE joins the tail of the available list now. -/
theorem State.Consistent.putAgentAtTail {x : Nat} {new : Agent} (h : e.st.Consistent sorted loose unplaced) (cause : Cause)
    (whole : new.Whole (loose' x)) (logged : new.state ≠ .loggedOut) (offer : new.offer = (e.st.agent x).offer)
    (call : e.st.CallSettled loose loose' x new) (others : ∀ z, z ≠ x → loose z → loose' z)
    (reserved : new.state ≠ .reserved) (since : new.state = .available → new.availSince = e.st.tick) :
    (e.putAgentAtTail x new cause).st.Consistent sorted loose' unplaced := by
  have k := e.putAgentAtTail_replaced x new cause
  refine h.replaceAgent k ((e.putAgentAtTail_engine x new cause logged).available h.available) whole offer call others
    (fun hs hn => ?_) fun hs => h.tailInOrder hs k (e.putAgentAtTail_available x new cause) since
  rw [since (hn.resolve_right reserved)]
  simp

/-- An agent's record is edited in place, in parts that its state and the available list do not depend on. -/
theorem State.Consistent.setAgent {x : Nat} {new : Agent} (h : s.Consistent sorted loose unplaced)
    (whole : new.Whole (loose x)) (state : new.state = (s.agent x).state) (offer : new.offer = (s.agent x).offer)
    (call : new.call = (s.agent x).call) (since : new.availSince = (s.agent x).availSince) :
    (s.setAgent x new).Consistent sorted loose unplaced := by
  refine h.replaceAgent (s.setAgent_replaced x new) ((s.setAgent_engine x new state).available h.available) whole offer
    (.inl ⟨call, id⟩) (fun _ _ => id) (fun hs hn => ?_) fun hs =>
      (h.inOrder hs).available_sublist (List.Sublist.refl _) fun z _ => ?_
  · rw [since]
    exact (h.recent hs).1 x (by rwa [state] at hn)
  · rw [State.agent_setAgent]
    split
    · rename_i hz; subst hz; exact since
    · rfl

/-- A logout is completed for an agent without an offer that no call names (R18). -/
theorem State.Consistent.completeLogout {x : Nat} (h : e.st.Consistent sorted loose unplaced) (cause : Cause)
    (offer : (e.st.agent x).offer = none) (unnamed : ∀ y c, e.st.call? y = some c → c.agent ≠ some x)
    (others : ∀ z, z ≠ x → loose z → loose' z) : (e.completeLogout x cause).st.Consistent sorted loose' unplaced := by
  have k := e.completeLogout_replaced x cause
  refine h.replaceAgent k ((e.completeLogout_engine x cause).available h.available) ?_ (by simp [Agent.loggedOut, offer])
    (.inr ⟨rfl, unnamed⟩) others (by simp [Agent.loggedOut]) fun hs => (h.inOrder hs).available_sublist ?_ fun z hz => ?_
  · constructor <;> simp [Agent.loggedOut]
  · rw [Ev.completeLogout_available]; exact List.filter_sublist
  · rw [Ev.completeLogout_available, mem_dropSlot] at hz
    rw [k.agent, if_neg (Ne.symm hz.2)]

/-! ## The end of an offer (R55, R74 to R78) -/

/-- A call whose offer has ended. -/
def Call.offerEnded (c : Call) : Call := { c with state := .waiting, offer := none }

/-- An agent whose offer has ended, before it is settled. -/
def Agent.offerEnded (a : Agent) (o : OfferOutcome) : Agent := { a with offer := none, lastOutcome := some o }

theorem State.endOffer_replaced {y : Nat} {c : Call} (hc : s.call? y = some c) (x : Nat) (o : OfferOutcome) :
    s.PairReplaced (s.endOffer y x o) y c.offerEnded x ((s.agent x).offerEnded o) := by
  have hu : s.updCall y (fun c => { c with state := .waiting, offer := none }) = s.setCall y c.offerEnded := by
    unfold State.updCall
    simp only [hc]
    rfl
  unfold State.endOffer
  dsimp only
  rw [hu]
  exact ⟨by simp [Agent.offerEnded], by simp, by simp, by simp⟩

theorem State.endOffer_available (s : State) (y x : Nat) (o : OfferOutcome) : (s.endOffer y x o).available = s.available := by
  simp [State.endOffer]

/-- The call and the agent of an offer name each other, and no one else. -/
theorem State.Consistent.offerPair {y : Nat} {c : Call} {o : CallOffer} (h : s.Consistent sorted loose unplaced)
    (hc : s.call? y = some c) (ho : c.offer = some o) :
    c.state = .offering ∧ c.agent = none ∧ (s.agent o.agent).state = .reserved ∧ (s.agent o.agent).call = none
      ∧ (s.agent o.agent).offer = some { token := o.token, call := y } := by
  have hs : c.state = .offering := (h.call y c hc).offering.2 (by simp [ho])
  have ha := h.callOffers y c o hc ho
  have hr := (h.agent o.agent).offered (by simp [ha])
  have served := (h.call y c hc).served
  have busy := (h.agent o.agent).busy
  rw [hs] at served
  rw [hr] at busy
  simp at served busy
  exact ⟨hs, served, hr, busy, ha⟩

/-- An offer ends: the call waits in its place, and the agent is RESERVED without its offer until it is settled. -/
theorem State.Consistent.endOffer {y : Nat} {c : Call} {o : CallOffer} (h : s.Consistent sorted loose nobody)
    (hc : s.call? y = some c) (ho : c.offer = some o) (out : OfferOutcome) :
    (s.endOffer y o.agent out).Consistent sorted (fun z => loose z ∨ z = o.agent) nobody := by
  obtain ⟨hs, hagent, hr, hcall, ha⟩ := h.offerPair hc ho
  have whole := h.call y c hc
  have aw := h.agent o.agent
  have k := State.endOffer_replaced hc o.agent out
  refine h.replacePair k hc ?_ ((s.endOffer_engine y o.agent out).available h.available) ?_ (fun z _ => .inl)
    (fun hso _ => (h.recent hso).1 _ (.inr hr)) fun hso => (h.inOrder hso).available_sublist ?_ fun z _ => ?_
  · exact
      { whole := ⟨by simp [Call.offerEnded], by simpa [Call.offerEnded, hs] using whole.connected,
          by simp [Call.offerEnded, hagent], by simp [Call.offerEnded], fun _ => rfl, whole.switching⟩
        place := .inr ⟨rfl, by simp [Call.offerEnded, hs], rfl, rfl⟩
        entry := rfl
        oldOffer := by simp [ho]
        oldCall := by simp [ha]
        oldAgent := by simp [hagent]
        oldConnection := by simp [hcall]
        offer := rfl
        offeredTo := by simp [Call.offerEnded]
        connection := .inl ⟨hagent, hcall⟩ }
  · exact ⟨fun _ => .inl (.inr rfl), by simp [Agent.offerEnded], aw.busy, aw.wrapping, aw.penalized, aw.homed, aw.switching⟩
  · rw [State.endOffer_available]
  · rw [k.agent]
    split
    · rename_i hz; subst hz; rfl
    · rfl

/-- An agent whose offer has ended holds nothing, and no call names it. -/
structure State.Unsettled (s : State) (x : Nat) : Prop where
  reserved : (s.agent x).state = .reserved
  offer : (s.agent x).offer = none
  call : (s.agent x).call = none

theorem State.Unsettled.same {x : Nat} (h : s.Unsettled x) (k : s.SameRecords t) : t.Unsettled x := by
  constructor <;> rw [k.agent]
  · exact h.reserved
  · exact h.offer
  · exact h.call

theorem State.Consistent.endOffer_unsettled {y : Nat} {c : Call} {o : CallOffer} (h : s.Consistent sorted loose unplaced)
    (hc : s.call? y = some c) (ho : c.offer = some o) (out : OfferOutcome) :
    (s.endOffer y o.agent out).Unsettled o.agent := by
  obtain ⟨-, -, hr, hcall, -⟩ := h.offerPair hc ho
  have k := State.endOffer_replaced hc o.agent out
  constructor <;> rw [k.agent, if_pos rfl]
  · exact hr
  · rfl
  · exact hcall

/-- The parts of an unsettled agent's record. -/
theorem Agent.Whole.unsettled {P : Prop} {a : Agent} (h : a.Whole P) (hr : a.state = .reserved) :
    a.wrap = none ∧ a.penaltyDeadline = none ∧ a.home ≠ none := by
  have h1 := h.wrapping
  have h2 := h.penalized
  have h3 := h.homed
  rw [hr] at h1 h2 h3
  simp at h1 h2 h3
  exact ⟨h1, h2, h3⟩

/-- The agent of a failed offer is settled (R25, R26). -/
theorem State.Consistent.settleFailed {x : Nat} (h : e.st.Consistent sorted loose unplaced) (hu : e.st.Unsettled x)
    (others : ∀ z, z ≠ x → loose z → loose' z) (cause : Cause) :
    (e.settleFailed x cause).st.Consistent sorted loose' unplaced := by
  obtain ⟨hwrap, hpen, hhome⟩ := (h.agent x).unsettled hu.reserved
  have hoffer := hu.offer
  have hcall := hu.call
  have hswitch := (h.agent x).switching
  have unnamed := h.unnamed (x := x) (by simp [hcall])
  unfold Ev.settleFailed
  refine h.putAgentAtTail cause ?_ (Agent.failedOffer_state _ _) ?_ (.inr ⟨?_, unnamed⟩) others ?_ ?_
  all_goals
    generalize e.st.agent x = a at *
    unfold Agent.failedOffer
    dsimp only
  · split
    · constructor <;> simp [hcall, hwrap, hhome, hswitch]
    · split <;> constructor <;> simp [Agent.madeNotReady, Agent.madeAvailable, hcall, hwrap, hhome, hswitch, hpen]
  · split
    · simp [hoffer]
    · split <;> simp [Agent.madeNotReady, Agent.madeAvailable, hoffer]
  · split
    · simp [hcall]
    · split <;> simp [Agent.madeNotReady, Agent.madeAvailable, hcall]
  · split
    · simp
    · split <;> simp [Agent.madeNotReady, Agent.madeAvailable]
  · split
    · simp
    · split <;> simp [Agent.madeNotReady, Agent.madeAvailable]

/-- An agent's record as a withdrawal from the call side restores it to the available list (R9, R24). -/
def Agent.restored (a : Agent) : Agent := { a with state := .available, pending := .none }

theorem Ev.settleWithdrawn_eq (e : Ev) (x : Nat) (cause : Cause) :
    e.settleWithdrawn x cause = match (e.st.agent x).pending with
      | .notReady reason => e.putAgent x ((e.st.agent x).madeNotReady reason) cause
      | .none | .logout => (e.putAgent x (e.st.agent x).restored cause).upd fun s =>
          { s with available := s.restoreSlot x (e.st.agent x).availSince (dropSlot x s.available) } := rfl

/-- An agent's record as a withdrawal from the call side settles it (R24). -/
def Agent.withdrawn (a : Agent) : Agent :=
  match a.pending with
  | .notReady reason => a.madeNotReady reason
  | .none | .logout => a.restored

theorem Ev.settleWithdrawn_replaced (e : Ev) (x : Nat) (cause : Cause) :
    e.st.AgentReplaced (e.settleWithdrawn x cause).st x (e.st.agent x).withdrawn := by
  rw [Ev.settleWithdrawn_eq]
  cases hp : (e.st.agent x).pending with
  | notReady reason =>
    have hw : (e.st.agent x).withdrawn = (e.st.agent x).madeNotReady reason := by simp [Agent.withdrawn, hp]
    rw [hw]
    exact e.putAgent_replaced x _ cause
  | none =>
    have hw : (e.st.agent x).withdrawn = (e.st.agent x).restored := by simp [Agent.withdrawn, hp]
    have k := e.putAgent_replaced x (e.st.agent x).restored cause
    rw [hw]
    exact ⟨k.agent, k.call, k.order, k.tick⟩
  | logout =>
    have hw : (e.st.agent x).withdrawn = (e.st.agent x).restored := by simp [Agent.withdrawn, hp]
    have k := e.putAgent_replaced x (e.st.agent x).restored cause
    rw [hw]
    exact ⟨k.agent, k.call, k.order, k.tick⟩

theorem State.restoreSlot_congr (since : ∀ z, (t.agent z).availSince = (s.agent z).availSince) (x : Nat) (tick : Tick)
    (L : List Nat) : t.restoreSlot x tick L = s.restoreSlot x tick L := by
  simp only [State.restoreSlot_eq, since]

/-- A restored slot keeps the available list in order (R9). -/
theorem State.Consistent.restoredInOrder {x : Nat} (h : s.Consistent sorted loose unplaced) (hs : sorted)
    (hu : (s.agent x).state = .reserved) (agent : ∀ z, t.agent z = if x = z then (s.agent x).restored else s.agent z)
    (av : t.available = s.restoreSlot x (s.agent x).availSince (dropSlot x s.available)) :
    t.available.Pairwise fun a b => ¬0 < ((t.agent a).availSince - (t.agent b).availSince).toInt := by
  have since : ∀ z, (t.agent z).availSince = (s.agent z).availSince := fun z => by
    rw [agent]
    split
    · rename_i hz; subst hz; rfl
    · rfl
  have age : ∀ z ∈ dropSlot x s.available, (s.tick - (s.agent z).availSince).toNat < 2 ^ 31 := fun z hz =>
    (h.recent hs).1 z (.inl ((h.available.1 z).1 (mem_dropSlot.1 hz).1))
  have own : (s.tick - (s.agent x).availSince).toNat < 2 ^ 31 := (h.recent hs).1 x (.inr hu)
  rw [av, State.restoreSlot_eq]
  simp only [since]
  refine pairwise_place ((h.inOrder hs).1.sublist List.filter_sublist) (fun a ha hp => ?_) (fun a ha hp => ?_)
    fun a ha b hb hxa hab => ?_
  · simpa [Tick.later] using hp
  · simp only [Tick.later, Bool.not_eq_false', decide_eq_true_eq] at hp
    rw [Tick.later_iff_age (age a ha) own] at hp
    rw [Tick.later_iff_age own (age a ha)]
    omega
  · rw [Tick.later_iff_age own (age a ha)] at hxa
    rw [Tick.later_iff_age (age a ha) (age b hb)] at hab
    rw [Tick.later_iff_age own (age b hb)]
    omega

/-- The agent of an offer withdrawn from the call side is settled (R9, R24). -/
theorem State.Consistent.settleWithdrawn {x : Nat} (h : e.st.Consistent sorted loose unplaced) (hu : e.st.Unsettled x)
    (others : ∀ z, z ≠ x → loose z → loose' z) (cause : Cause) :
    (e.settleWithdrawn x cause).st.Consistent sorted loose' unplaced := by
  obtain ⟨hwrap, hpen, hhome⟩ := (h.agent x).unsettled hu.reserved
  have hoffer := hu.offer
  have hcall := hu.call
  have hswitch := (h.agent x).switching
  have unnamed := h.unnamed (x := x) (by simp [hcall])
  have exact' := (e.settleWithdrawn_engine x cause).available h.available
  rw [Ev.settleWithdrawn_eq] at exact' ⊢
  split
  · refine h.putAgent cause ?_ (by simp [Agent.madeNotReady]) rfl (.inr ⟨hcall, unnamed⟩) others (by simp [Agent.madeNotReady])
    constructor <;> simp [Agent.madeNotReady, hcall, hwrap, hpen, hhome, hswitch, hoffer]
  all_goals
    rename_i hp
    simp only [hp] at exact'
    have k := e.putAgent_replaced x (e.st.agent x).restored cause
    have av := e.putAgent_available x (e.st.agent x).restored cause
    rw [if_pos (by rfl)] at av
    refine h.replaceAgent ⟨k.agent, k.call, k.order, k.tick⟩ exact' ?_ rfl (.inr ⟨hcall, unnamed⟩) others
      (fun hs _ => (h.recent hs).1 x (.inr hu.reserved)) fun hs =>
        h.restoredInOrder hs hu.reserved k.agent (by
          rw [Ev.upd_st, av]
          refine State.restoreSlot_congr (fun z => ?_) _ _ _
          rw [k.agent]
          split
          · rename_i hz; subst hz; rfl
          · rfl)
    constructor <;> simp [Agent.restored, hcall, hwrap, hpen, hhome, hswitch, hoffer]

/-- A withdrawal from the call side changes the records of its call and its agent. -/
theorem Ev.withdrawFromCall_replaced {y : Nat} {c : Call} (hc : e.st.call? y = some c) (o : CallOffer) (cause : Cause) :
    e.st.PairReplaced (e.withdrawFromCall y c o cause).st y c.offerEnded o.agent
      ((e.st.agent o.agent).offerEnded .withdrawn).withdrawn := by
  have pair := State.endOffer_replaced hc o.agent .withdrawn
  have k := ((e.upd fun s => s.endOffer y o.agent .withdrawn).cancelOffer_same o y .callWithdrawn).trans
    (Ev.releaseReservation_same _ c.owner)
  unfold Ev.withdrawFromCall
  dsimp only
  generalize (((e.upd fun s => s.endOffer y o.agent .withdrawn).cancelOffer o y .callWithdrawn).releaseReservation c.owner) = d at k
  have m := d.settleWithdrawn_replaced o.agent cause
  rw [show d.st.agent o.agent = (e.st.agent o.agent).offerEnded .withdrawn by
    rw [k.agent, Ev.upd_st, pair.agent, if_pos rfl]] at m
  refine ⟨fun z => ?_, fun z => by rw [m.call, k.call, Ev.upd_st, pair.call],
    fun q => by rw [m.order, k.order, Ev.upd_st, pair.order], by rw [m.tick, k.tick, Ev.upd_st, pair.tick]⟩
  rw [m.agent, k.agent, Ev.upd_st, pair.agent]
  split <;> rfl

/-- An offer is withdrawn from the call side (R77). -/
theorem State.Consistent.withdrawFromCall {y : Nat} {c : Call} {o : CallOffer} (h : e.st.Consistent sorted loose nobody)
    (hc : e.st.call? y = some c) (ho : c.offer = some o) (cause : Cause) :
    (e.withdrawFromCall y c o cause).st.Consistent sorted loose nobody := by
  unfold Ev.withdrawFromCall
  dsimp only
  have h1 : (e.upd fun s => s.endOffer y o.agent .withdrawn).st.Consistent sorted (fun z => loose z ∨ z = o.agent) nobody :=
    h.endOffer hc ho .withdrawn
  have u1 : (e.upd fun s => s.endOffer y o.agent .withdrawn).st.Unsettled o.agent := h.endOffer_unsettled hc ho .withdrawn
  have k := ((e.upd fun s => s.endOffer y o.agent .withdrawn).cancelOffer_same o y .callWithdrawn).trans
    (Ev.releaseReservation_same _ c.owner)
  exact (h1.same k).settleWithdrawn (u1.same k) (fun z hz hl => hl.resolve_right hz) cause

end

end Sys2Proof.Machine
end

section
/-!
PROOF. Logouts, wrap-up, connections, failed offers and the loss of a link keep the records consistent.
-/
namespace Sys2Proof.Machine

open Sys2Proof

section
variable {sorted : Prop} {loose loose' unplaced : Nat → Prop} {s t : State} {e : Ev}

/-! ## Parts that an agent's state rules out -/

theorem Agent.Whole.offer_none {P : Prop} {a : Agent} (h : a.Whole P) (hs : a.state ≠ .reserved) : a.offer = none := by
  have := mt h.offered hs
  simpa using this

theorem Agent.Whole.call_none {P : Prop} {a : Agent} (h : a.Whole P) (hs : a.state ≠ .busy) : a.call = none := by
  have := mt h.busy.2 hs
  simpa using this

theorem Agent.Whole.wrap_none {P : Prop} {a : Agent} (h : a.Whole P) (hs : a.state ≠ .wrapUp) : a.wrap = none := by
  have := mt h.wrapping.2 hs
  simpa using this

theorem Agent.Whole.penalty_none {P : Prop} {a : Agent} (h : a.Whole P) (hs : a.state ≠ .inferredAbsent) :
    a.penaltyDeadline = none := by
  have := mt h.penalized hs
  simpa using this

/-! ## The leave rule and wrap-up (R84 to R94) -/

/-- An agent's record as the leave rule settles it (R94). -/
def Agent.left (a : Agent) (now : Tick) : Agent :=
  match a.pending with
  | .logout => a.loggedOut
  | .notReady reason => ({ a with wrap := none, call := none } : Agent).madeNotReady reason
  | .none => ({ a with wrap := none, call := none } : Agent).madeAvailable now

theorem Ev.leave_replaced (e : Ev) (x : Nat) (cause : Cause) :
    e.st.AgentReplaced (e.leave x cause).st x ((e.st.agent x).left e.st.tick)
      ∧ (e.leave x cause).st.available = dropSlot x e.st.available
        ++ if ((e.st.agent x).left e.st.tick).state = .available then [x] else [] := by
  unfold Ev.leave
  dsimp only
  split
  · rename_i hp
    have hl : (e.st.agent x).left e.st.tick = (e.st.agent x).loggedOut := by simp [Agent.left, hp]
    rw [hl]
    exact ⟨e.completeLogout_replaced x cause, by rw [Ev.completeLogout_available]; simp [Agent.loggedOut]⟩
  · rename_i reason hp
    have hl : (e.st.agent x).left e.st.tick
        = ({ e.st.agent x with wrap := none, call := none } : Agent).madeNotReady reason := by simp [Agent.left, hp]
    rw [hl]
    exact ⟨e.putAgent_replaced x _ cause, by rw [Ev.putAgent_available]; simp [Agent.madeNotReady]⟩
  · rename_i hp
    have hl : (e.st.agent x).left e.st.tick
        = ({ e.st.agent x with wrap := none, call := none } : Agent).madeAvailable e.st.tick := by simp [Agent.left, hp]
    rw [hl]
    exact ⟨e.putAgentAtTail_replaced x _ cause, e.putAgentAtTail_available x _ cause⟩

theorem Agent.left_since (a : Agent) (now : Tick) (hs : (a.left now).state = .available ∨ (a.left now).state = .reserved) :
    (a.left now).availSince = now := by
  unfold Agent.left at *
  split at hs <;> simp_all [Agent.loggedOut, Agent.madeNotReady, Agent.madeAvailable]

/-- The leave rule leaves a whole record of an agent that is logged in, with no offer and no penalty. -/
theorem Agent.left_whole {a : Agent} (now : Tick) (offer : a.offer = none) (penalty : a.penaltyDeadline = none)
    (home : a.home ≠ none) (switching : a.home ≠ some .s) (P : Prop) : (a.left now).Whole P := by
  unfold Agent.left
  split <;> constructor <;> simp [Agent.loggedOut, Agent.madeNotReady, Agent.madeAvailable, offer, penalty, home, switching]

theorem Agent.left_offer {a : Agent} (now : Tick) (offer : a.offer = none) : (a.left now).offer = none := by
  unfold Agent.left
  split <;> simp [Agent.loggedOut, Agent.madeNotReady, Agent.madeAvailable, offer]

theorem Agent.left_call (a : Agent) (now : Tick) : (a.left now).call = none := by
  unfold Agent.left
  split <;> simp [Agent.loggedOut, Agent.madeNotReady, Agent.madeAvailable]

/-- An agent in BUSY or WRAP_UP, without a call that names it, leaves by the rule of R94 with a record that has been added to. -/
theorem State.Consistent.leave {x : Nat} {a : Agent} (h : e.st.Consistent sorted loose unplaced) {d : Ev}
    (k : e.st.AgentReplaced d.st x a) (av : d.st.available = e.st.available) (exact' : d.st.AvailableExact)
    (offer : (e.st.agent x).offer = none) (same : a.offer = none) (penalty : a.penaltyDeadline = none)
    (home : a.home ≠ none) (switching : a.home ≠ some .s)
    (unnamed : ∀ y c, e.st.call? y = some c → c.agent ≠ some x) (others : ∀ z, z ≠ x → loose z → loose' z) (cause : Cause) :
    (d.leave x cause).st.Consistent sorted loose' unplaced := by
  obtain ⟨m, mav⟩ := d.leave_replaced x cause
  have agent : d.st.agent x = a := by rw [k.agent, if_pos rfl]
  rw [agent] at m mav
  rw [k.tick] at m mav
  rw [av] at mav
  have k' := k.again m
  refine h.replaceAgent k' ((d.leave_engine x cause).available exact') (Agent.left_whole _ same penalty home switching _)
    (by rw [Agent.left_offer _ same, offer]) (.inr ⟨Agent.left_call _ _, unnamed⟩) others (fun _ hn => ?_)
    fun hs => h.tailInOrder hs k' mav fun hn => Agent.left_since _ _ (.inl hn)
  rw [Agent.left_since _ _ hn]
  simp

/-- A handle-time sample and a record in place, before the leave rule. -/
theorem State.Consistent.leaveWithSample {x : Nat} {a : Agent} (h : e.st.Consistent sorted loose unplaced) (q sample : Nat)
    (state : a.state = (e.st.agent x).state) (offer : (e.st.agent x).offer = none) (same : a.offer = none)
    (penalty : a.penaltyDeadline = none) (home : a.home ≠ none) (switching : a.home ≠ some .s)
    (unnamed : ∀ y c, e.st.call? y = some c → c.agent ≠ some x) (others : ∀ z, z ≠ x → loose z → loose' z) (cause : Cause) :
    ((e.upd fun s => (s.setAgent x a).updateAht q sample).leave x cause).st.Consistent sorted loose' unplaced := by
  have k := (e.st.setAgent_replaced x a).andThen ((e.st.setAgent x a).updateAht_same q sample)
  exact h.leave (d := e.upd fun s => (s.setAgent x a).updateAht q sample) k rfl
    (((e.st.setAgent x a).updateAht_same q sample).availableExact ((e.st.setAgent_engine x a state).available h.available))
    offer same penalty home switching unnamed others cause

/-- The start of wrap-up for a BUSY agent whose call has gone (R84 to R86). -/
theorem State.Consistent.startWrap {x : Nat} (h : e.st.Consistent sorted loose unplaced) (busy : (e.st.agent x).state = .busy)
    (unnamed : ∀ y c, e.st.call? y = some c → c.agent ≠ some x) (others : ∀ z, z ≠ x → loose z → loose' z) (q : Nat)
    (connect : Tick) (cause : Cause) : (e.startWrap x q connect cause).st.Consistent sorted loose' unplaced := by
  have whole := h.agent x
  have offer := whole.offer_none (by simp [busy])
  have penalty := whole.penalty_none (by simp [busy])
  have home : (e.st.agent x).home ≠ none := fun hn => by simpa [busy] using whole.homed.2 hn
  unfold Ev.startWrap
  dsimp only
  split
  · exact h.leaveWithSample (a := { (e.st.agent x).addCall (talkTicks e.st.tick connect) with call := none }) q _ rfl offer
      offer penalty home whole.switching unnamed others cause
  · refine h.putAgent cause ?_ (by simp) rfl (.inr ⟨rfl, unnamed⟩) others (by simp)
    constructor <;> simp [Agent.addCall, offer, penalty, home, whole.switching]

/-- An agent's record after the start of wrap-up, for a wrap limit (R84 to R86). -/
def Agent.startedWrap (a : Agent) (now : Tick) (q limit : Nat) (connect : Tick) : Agent :=
  if limit = 0 then ({ a.addCall (talkTicks now connect) with call := none } : Agent).left now
  else
    { a.addCall (talkTicks now connect) with
      call := none, state := .wrapUp
      wrap := some { queue := q, talk := talkTicks now connect, start := now, deadline := Tick.plus now limit, granted := 0 } }

theorem Ev.startWrap_replaced (e : Ev) (x q : Nat) (connect : Tick) (cause : Cause) :
    e.st.AgentReplaced (e.startWrap x q connect cause).st x
      ((e.st.agent x).startedWrap e.st.tick q (e.st.queue q).config.wrapLimit connect) := by
  unfold Ev.startWrap Agent.startedWrap
  dsimp only
  split
  · generalize ha : ({ (e.st.agent x).addCall (talkTicks e.st.tick connect) with call := none } : Agent) = a
    generalize talkTicks e.st.tick connect = talk
    have k := (e.st.setAgent_replaced x a).andThen ((e.st.setAgent x a).updateAht_same q talk)
    have m := ((e.upd fun s => (s.setAgent x a).updateAht q talk).leave_replaced x cause).1
    have hx : (e.upd fun s => (s.setAgent x a).updateAht q talk).st.agent x = a := by rw [Ev.upd_st, k.agent, if_pos rfl]
    have ht : (e.upd fun s => (s.setAgent x a).updateAht q talk).st.tick = e.st.tick := k.tick
    rw [hx, ht] at m
    exact State.AgentReplaced.again k m
  · exact e.putAgent_replaced x _ cause

/-- The end of a wrap-up with a sample (R90, R91). -/
theorem State.Consistent.endWrap {x : Nat} {w : WrapRecord} (h : e.st.Consistent sorted loose nobody)
    (hw : (e.st.agent x).wrap = some w) (cause : Cause) : (e.endWrap x w cause).st.Consistent sorted loose nobody := by
  have whole := h.agent x
  have hs : (e.st.agent x).state = .wrapUp := whole.wrapping.2 (by simp [hw])
  have offer := whole.offer_none (by simp [hs])
  have call := whole.call_none (by simp [hs])
  have home : (e.st.agent x).home ≠ none := fun hn => by simpa [hs] using whole.homed.2 hn
  exact h.leaveWithSample (a := (e.st.agent x).addWrap (Tick.elapsed e.st.tick w.start)) w.queue _ rfl offer offer (whole.penalty_none (by simp [hs])) home whole.switching
    (h.unnamed (by simp [call])) (fun _ _ => id) cause

/-! ## Logout (R15 to R18, R23) -/

/-- The call of an agent that logs out no longer names it (R18). -/
def State.dropAgent (s : State) (x : Nat) : State :=
  match (s.agent x).call with
  | some y => s.updCall y fun c => { c with agent := none }
  | none => s

theorem State.dropAgent_agent (s : State) (x z : Nat) : (s.dropAgent x).agent z = s.agent z := by
  unfold State.dropAgent
  split <;> simp

/-- A call that has lost its agent leaves the agent loose. -/
theorem State.Consistent.dropAgent (h : s.Consistent sorted loose nobody) (x : Nat) :
    (s.dropAgent x).Consistent sorted (fun z => loose z ∨ z = x) nobody
      ∧ ∀ y c, (s.dropAgent x).call? y = some c → c.agent ≠ some x := by
  have h' := h.loosen (loose' := fun z => loose z ∨ z = x) fun _ => .inl
  unfold State.dropAgent
  split
  · rename_i y hy
    unfold State.updCall
    split
    · rename_i c hc
      have whole := h.call y c hc
      have only : ∀ z, c.agent = some z → z = x := fun z hz => by
        rcases h.agentCalls x y hy with ⟨d, hd, hx⟩ | ⟨-, hn⟩
        · rw [hc] at hd; cases hd
          rw [hz] at hx; cases hx; rfl
        · rw [hn c hc] at hz; cases hz
      refine ⟨h'.replaceCall (s.setCall_replaced y _)
        ⟨whole.offering, whole.connected, by simp, whole.answered, whole.exiting, whole.switching⟩
        (.inl ⟨c, hc, rfl, .inr ⟨rfl, fun z hz => .inr (only z hz)⟩⟩) (.inr ⟨c, hc, rfl, Iff.rfl, rfl, rfl⟩)
        fun hs => (h.recent hs).2 y c hc, fun z d hd => ?_⟩
      rw [State.call?_setCall] at hd
      split at hd
      · cases hd; simp
      · rename_i hz
        intro hx
        have := h.callAgents z d x hd hx
        rw [hy] at this; cases this
        exact hz rfl
    · rename_i hn
      refine ⟨h', fun z d hd hx => ?_⟩
      have := h.callAgents z d x hd hx
      rw [hy] at this; cases this
      rw [hn] at hd; cases hd
  · rename_i hn
    exact ⟨h', h.unnamed (by simp [hn])⟩

theorem Ev.logoutNow_eq (e : Ev) (x : Nat) (cause : Cause) :
    e.logoutNow x cause =
      match (e.st.agent x).offer with
      | none => (e.upd fun s => s.dropAgent x).completeLogout x cause
      | some o =>
        match (e.upd fun s => s.dropAgent x).st.call? o.call with
        | some c =>
          match c.offer with
          | some co => (((e.upd fun s => s.dropAgent x).withdrawFromAgent o.call c co).completeLogout x cause).afterOffer o.call
              c.queue x
          | none => (e.upd fun s => s.dropAgent x).completeLogout x cause
        | none => (e.upd fun s => s.dropAgent x).completeLogout x cause := rfl

/-- An offer is withdrawn from the agent side, and the agent's logout is completed (R78). -/
theorem State.Consistent.withdrawAndLogout {x y : Nat} {c : Call} {o : CallOffer} (h : e.st.Consistent sorted loose nobody)
    (hc : e.st.call? y = some c) (ho : c.offer = some o) (hx : o.agent = x) {d : Ev}
    (k : (e.st.endOffer y o.agent .withdrawn).SameRecords d.st) (others : ∀ z, z ≠ x → loose z → loose' z) (cause : Cause) :
    (d.completeLogout x cause).st.Consistent sorted loose' nobody := by
  subst hx
  have h1 := (h.endOffer hc ho .withdrawn).same k
  have u1 := (h.endOffer_unsettled hc ho .withdrawn).same k
  exact h1.completeLogout cause u1.offer (h1.unnamed (by simp [u1.call])) fun z hz hl => others z hz (hl.resolve_right hz)

theorem State.Consistent.afterOffer (h : e.st.Consistent sorted loose nobody) (y q x : Nat) :
    (e.afterOffer y q x).st.Consistent sorted loose nobody :=
  ((h.runHeldStep y).queueAttempts q).agentAttempt x

/-- An agent with an offer has no call to drop. -/
theorem State.Consistent.dropAgent_of_offer {x : Nat} {o : AgentOffer} (h : s.Consistent sorted loose unplaced)
    (ho : (s.agent x).offer = some o) : s.dropAgent x = s := by
  have hr := (h.agent x).offered (by simp [ho])
  have hn := (h.agent x).call_none (by simp [hr])
  simp [State.dropAgent, hn]

/-- An immediate logout (R15, R16, R23). -/
theorem State.Consistent.logoutNow (h : e.st.Consistent sorted nobody nobody) (x : Nat) (cause : Cause) :
    (e.logoutNow x cause).st.Consistent sorted nobody nobody := by
  rw [Ev.logoutNow_eq]
  split
  · rename_i hn
    obtain ⟨h1, unnamed⟩ := h.dropAgent x
    exact State.Consistent.completeLogout (e := e.upd fun s => s.dropAgent x) h1 cause
      (by rw [Ev.upd_st, State.dropAgent_agent, hn]) unnamed fun z hz hl => hl.elim id hz
  · rename_i o ho
    obtain ⟨c, k, hc, hk, hx, -⟩ := h.agentOffers x o ho
    have hd : (e.upd fun s => s.dropAgent x) = e := by
      rw [Ev.upd, h.dropAgent_of_offer ho]
    rw [hd]
    simp only [hc, hk]
    refine State.Consistent.afterOffer ?_ _ _ _
    exact h.withdrawAndLogout hc hk hx
      (((e.upd fun s => s.endOffer o.call k.agent .withdrawn).cancelOffer_same k o.call .agentLoggedOut).trans
        (Ev.releaseReservation_same _ _)) (fun _ _ => id) cause

/-! ## Connections and failed offers (R72, R74, R75) -/

/-- A call connected to an agent (R72). -/
def Call.connectedTo (c : Call) (x : Nat) (now : Tick) : Call :=
  { c.outOfOrder with state := .connected, offer := none, agent := some x, connectTick := some now }

/-- An agent connected to a call (R72). -/
def Agent.connectedTo (a : Agent) (y : Nat) : Agent :=
  { a with state := .busy, call := some y, offer := none, miss := 0, lastOutcome := some .accepted }

/-- The records after a connection, up to its counts, its notices and the recent service list. -/
def Ev.joinPair (e : Ev) (y : Nat) (c : Call) (x : Nat) (a : Agent) : Ev :=
  ((e.leaveOrder y c).upd fun s => s.updCall y fun c =>
    { c with state := .connected, offer := none, agent := some x, connectTick := some e.st.tick }).putAgent x
      (a.connectedTo y) .request

theorem Ev.connect_same (e : Ev) (y : Nat) (c : Call) (x : Nat) (a : Agent) (token : Token) :
    (e.joinPair y c x a).st.SameRecords (e.connect y c x a token).st := by
  unfold Ev.connect
  dsimp only
  have base : (e.joinPair y c x a).st.SameRecords
      ((((e.joinPair y c x a).useReservation c.owner (.connect y c.ref token x a.id a.home c.queue)).releaseHome x).count
        c.queue .answered).st :=
    ((Ev.useReservation_same _ _ _).trans (Ev.releaseHome_same _ _)).trans (Ev.count_same _ _ _)
  generalize hd : (((e.joinPair y c x a).useReservation c.owner
    (.connect y c.ref token x a.id a.home c.queue)).releaseHome x).count c.queue .answered = d at base
  have hd' : (((((e.leaveOrder y c).upd fun s => s.updCall y fun c =>
      { c with state := .connected, offer := none, agent := some x, connectTick := some e.st.tick }).putAgent x
        { a with state := .busy, call := some y, offer := none, miss := 0, lastOutcome := some .accepted } .request).useReservation
          c.owner (.connect y c.ref token x a.id a.home c.queue)).releaseHome x).count c.queue .answered = d := hd
  rw [hd']
  have inService : d.st.SameRecords (if Tick.elapsed e.st.tick c.entry ≤ (d.st.queue c.queue).config.serviceThreshold then
      d.count c.queue .answeredInService else d).st := by
    split
    · exact Ev.count_same _ _ _
    · exact .refl _
  generalize (if Tick.elapsed e.st.tick c.entry ≤ (d.st.queue c.queue).config.serviceThreshold then
    d.count c.queue .answeredInService else d) = f at inService ⊢
  refine base.trans (inService.trans ?_)
  split
  · exact .refl _
  · split
    · exact .of_eq rfl rfl rfl rfl rfl
    · exact .refl _

/-- A current ACCEPT connects a call with its agent (R72). -/
theorem State.Consistent.connect {y x : Nat} {c : Call} {o : CallOffer} (h : e.st.Consistent sorted nobody nobody)
    (hc : e.st.call? y = some c) (ho : c.offer = some o) (hx : o.agent = x) (token : Token) :
    (e.connect y c x (e.st.agent x) token).st.Consistent sorted nobody nobody := by
  subst hx
  obtain ⟨hs, hagent, hr, hcall, ha⟩ := h.offerPair hc ho
  have whole := h.call y c hc
  have aw := h.agent o.agent
  have left := Ev.leaveOrder_left hc
  have h1 := h.orderLeft hc left
  have hc1 : (e.leaveOrder y c).st.call? y = some c.outOfOrder := by rw [left.call, if_pos rfl]
  generalize hf : ((e.leaveOrder y c).upd fun s => s.updCall y fun c =>
    { c with state := .connected, offer := none, agent := some o.agent, connectTick := some e.st.tick }) = f
  have fagent : ∀ z, f.st.agent z = e.st.agent z := fun z => by rw [← hf, Ev.upd_st, State.updCall_agent, left.agent]
  have favail : f.st.available = e.st.available := by rw [← hf, Ev.upd_st, State.updCall_available, left.available]
  have k := f.putAgent_replaced o.agent ((e.st.agent o.agent).connectedTo y) .request
  have fexact : f.st.AvailableExact := by simpa only [State.AvailableExact, fagent, favail] using h.available
  have pair : (e.leaveOrder y c).st.PairReplaced (e.joinPair y c o.agent (e.st.agent o.agent)).st y
      (c.connectedTo o.agent e.st.tick) o.agent ((e.st.agent o.agent).connectedTo y) := by
    unfold Ev.joinPair
    rw [hf]
    refine ⟨fun z => by rw [k.agent, fagent, left.agent], fun z => ?_, fun q => ?_, ?_⟩
    · rw [k.call, ← hf, Ev.upd_st, State.call?_updCall]
      by_cases hz : y = z
      · subst hz; rw [if_pos rfl, if_pos rfl, hc1]; rfl
      · simp [hz]
    · rw [k.order, ← hf, Ev.upd_st, State.updCall_queue]
    · rw [k.tick, ← hf, Ev.upd_st, State.updCall_tick]
  have exact' : (e.joinPair y c o.agent (e.st.agent o.agent)).st.AvailableExact := by
    unfold Ev.joinPair
    rw [hf]
    exact (f.putAgent_engine o.agent _ .request (by simp [Agent.connectedTo]) (by simp [Agent.connectedTo])).available fexact
  have pending : c.exitPending = none := by
    have := mt whole.exiting (by simp [hs])
    simpa using this
  refine State.Consistent.same ?_ (e.connect_same y c o.agent (e.st.agent o.agent) token)
  refine (h1.replacePair (loose' := nobody) pair hc1 ?_ exact' ?_ (fun _ _ => id) (by simp [Agent.connectedTo]) fun hso => ?_).mono
    (fun _ => id) fun z d hd hn => ?_
  · exact
      { whole :=
          ⟨by simp [Call.connectedTo], by simp [Call.connectedTo], by simp [Call.connectedTo], fun _ => ⟨rfl, rfl, pending⟩,
            by simp [Call.connectedTo, Call.outOfOrder, pending], whole.switching⟩
        place := .inl (.inr rfl)
        entry := rfl
        oldOffer := fun o' ho' => by
          rw [show c.outOfOrder.offer = c.offer from rfl, ho] at ho'
          cases ho'; rfl
        oldCall := fun o' ho' => by
          rw [left.agent, ha] at ho'
          cases ho'; rfl
        oldAgent := fun z hz => by
          rw [show c.outOfOrder.agent = c.agent from rfl, hagent] at hz
          cases hz
        oldConnection := fun z hz => by
          rw [left.agent, hcall] at hz
          cases hz
        offer := rfl
        offeredTo := by simp [Call.connectedTo]
        connection := .inr ⟨rfl, rfl, fun z hz => by
          rw [left.agent] at hz
          rcases h.agentCalls z y hz with ⟨d, hd, hdx⟩ | ⟨hn, -⟩
          · rw [hc] at hd; cases hd
            rw [hagent] at hdx; cases hdx
          · exact hn⟩ }
  · have hh := aw.homed
    rw [hr] at hh
    exact ⟨by simp [Agent.connectedTo], by simp [Agent.connectedTo], by simp [Agent.connectedTo],
      by simpa [Agent.connectedTo, hr] using aw.wrapping, by simpa [Agent.connectedTo, hr] using aw.penalized,
      by simpa [Agent.connectedTo] using hh, aw.switching⟩
  · have av : (e.joinPair y c o.agent (e.st.agent o.agent)).st.available = dropSlot o.agent e.st.available := by
      unfold Ev.joinPair
      rw [hf, Ev.putAgent_available, if_neg (by simp [Agent.connectedTo]), favail]
    refine (h1.inOrder hso).available_sublist (by rw [av, left.available]; exact List.filter_sublist) fun z hz => ?_
    rw [av, mem_dropSlot] at hz
    rw [pair.agent, if_neg (Ne.symm hz.2)]
  · have : z ≠ y := by
      rintro rfl
      rw [pair.call, if_pos rfl] at hd
      cases hd
      exact hn rfl
    simp [this]

/-- The removal, the exit and the redirect of a call leave the agents alone. -/
theorem Ev.removeCall_agent {y : Nat} {c : Call} (hc : e.st.call? y = some c) (n : CounterName) (x : Nat) :
    (e.removeCall y c n).st.agent x = e.st.agent x := by
  unfold Ev.removeCall
  dsimp only
  rw [Ev.upd_st, State.freeCall_agent, (Ev.updLink_same _ _ _).agent, (Ev.count_same _ _ _).agent, (Ev.leaveOrder_left hc).agent]

theorem Ev.chargeRedirect_agent (e : Ev) (y x : Nat) : (e.chargeRedirect y).st.agent x = e.st.agent x := by
  unfold Ev.chargeRedirect
  split
  · rfl
  · rename_i c hc
    split
    · simp [Ev.upd_st]
    · unfold Ev.exitCall
      split
      · rw [Ev.removeCall_agent (by rw [(Ev.queueNotice_same _ _ _).call, hc]), (Ev.queueNotice_same _ _ _).agent]
      · dsimp only
        rw [(Ev.updLink_same _ _ _).agent, Ev.upd_st, State.updCall_agent, (State.stopTreatment_replaced hc).agent]

theorem State.Unsettled.of_agent {x : Nat} (h : s.Unsettled x) (k : t.agent x = s.agent x) : t.Unsettled x := by
  constructor <;> rw [k]
  · exact h.reserved
  · exact h.offer
  · exact h.call

/-- An offer fails by its agent (R74, R75). -/
theorem State.Consistent.failOffer {y : Nat} {c : Call} {o : CallOffer} (h : e.st.Consistent sorted loose nobody)
    (hc : e.st.call? y = some c) (ho : c.offer = some o) (out : OfferOutcome) (cause : Cause) :
    (e.failOffer y c o out cause).st.Consistent sorted loose nobody := by
  unfold Ev.failOffer
  dsimp only
  have h0 : (e.upd fun s => s.endOffer y o.agent out).st.Consistent sorted (fun z => loose z ∨ z = o.agent) nobody :=
    h.endOffer hc ho out
  have u0 : (e.upd fun s => s.endOffer y o.agent out).st.Unsettled o.agent := h.endOffer_unsettled hc ho out
  have c0 : (e.upd fun s => s.endOffer y o.agent out).st.call? y = some c.offerEnded := by
    rw [Ev.upd_st, (State.endOffer_replaced hc _ _).call, if_pos rfl]
  generalize (e.upd fun s => s.endOffer y o.agent out) = d at h0 u0 c0
  have k : d.st.SameRecords ((if out = .expired then d.cancelOffer o y .ringExpired else d.releaseHome o.agent).releaseReservation
      c.owner).st := by
    refine State.SameRecords.trans ?_ (Ev.releaseReservation_same _ _)
    split
    · exact Ev.cancelOffer_same _ _ _ _
    · exact Ev.releaseHome_same _ _
  generalize (if out = .expired then d.cancelOffer o y .ringExpired else d.releaseHome o.agent).releaseReservation c.owner = f at k
  have h2 := (h0.same k).chargeRedirect (y := y) (c := c.offerEnded) (by rw [k.call, c0]) rfl
  have k2 := Ev.count_same (f.chargeRedirect y) c.queue .rona
  refine ((h2.same k2).settleFailed ?_ (fun z hz hl => hl.resolve_right hz) cause).afterOffer _ _ _
  exact u0.of_agent (by rw [k2.agent, Ev.chargeRedirect_agent, k.agent])

/-! ## The loss of a link (R182) -/

/-- The agents that a link homes. -/
def State.homedBy (s : State) (l : Link) : Nat → Prop := fun x => (s.agent x).home = some l

/-- A connected call is freed, and only its agent becomes loose. -/
theorem State.Consistent.freeConnected {y : Nat} {c : Call} (h : s.Consistent sorted loose nobody)
    (hc : s.call? y = some c) (hs : c.state = .connected) :
    (s.freeCall y).Consistent sorted (fun x => loose x ∨ c.agent = some x) nobody := by
  have offer : c.offer = none := by
    have := (h.call y c hc).offering
    rw [hs] at this
    simpa using this
  exact h.freeCall hc offer (.inr hs)

/-- The agent of a connected call is BUSY, and after the call is freed no call names it. -/
theorem State.Consistent.freedAgent {y x : Nat} {c : Call} (h : s.Consistent sorted loose unplaced)
    (hc : s.call? y = some c) (hx : c.agent = some x) :
    ((s.freeCall y).agent x).state = .busy ∧ ∀ z d, (s.freeCall y).call? z = some d → d.agent ≠ some x := by
  have hcall := h.callAgents y c x hc hx
  refine ⟨by rw [State.freeCall_agent]; exact (h.agent x).busy.2 (by simp [hcall]), fun z d hd hdx => ?_⟩
  rw [State.call?_freeCall] at hd
  split at hd
  · cases hd
  · rename_i hz
    have := h.callAgents z d x hd hdx
    rw [hcall] at this; cases this
    exact hz rfl

/-- A connected call ends, and its agent starts wrap-up (R50, R53, R84). -/
theorem State.Consistent.endConnection {y x : Nat} {c : Call} (h : e.st.Consistent sorted loose nobody)
    (hc : e.st.call? y = some c) (hx : c.agent = some x) (q : Nat) (t : Tick) (cause : Cause) :
    ((e.upd fun s => s.freeCall y).startWrap x q t cause).st.Consistent sorted loose nobody := by
  have hs := (h.call y c hc).served (by simp [hx])
  obtain ⟨busy, unnamed⟩ := h.freedAgent hc hx
  refine State.Consistent.startWrap (e := e.upd fun s => s.freeCall y) (h.freeConnected hc hs) busy unnamed
    (fun z hz hl => hl.resolve_right fun hz' => hz ?_) q t cause
  rw [hx] at hz'
  exact (Option.some.inj hz').symm

/-- The removal of a call looks at its queue and owner alone, which the end of its offer keeps. -/
theorem Ev.removeCall_offerEnded (e : Ev) (y : Nat) (c : Call) (n : CounterName) :
    e.removeCall y c.offerEnded n = e.removeCall y c n := rfl

/-- The loss of a call leaves the agents that the lost link homes with that link (R182 step 1). -/
theorem State.Consistent.loseCall {l : Link} (h : e.st.Consistent sorted (e.st.homedBy l) nobody) (y : Nat) :
    (Ev.loseCall l e y).st.Consistent sorted ((Ev.loseCall l e y).st.homedBy l) nobody := by
  unfold Ev.loseCall
  split
  · exact h
  · rename_i c hc
    have whole := h.call y c hc
    split
    · rename_i hw
      exact (h.removeCall hc hw _).loosen fun x hx => by rwa [State.homedBy, Ev.removeCall_agent hc]
    · rename_i hw
      obtain ⟨o, ho⟩ := Option.isSome_iff_exists.1 (whole.offering.1 hw)
      have ended : ∀ d : Ev, d.st.call? y = some c.offerEnded → d.st.Consistent sorted (d.st.homedBy l) nobody →
          (d.removeCall y c .abandoned).st.Consistent sorted ((d.removeCall y c .abandoned).st.homedBy l) nobody :=
        fun d hd h => by
          rw [← Ev.removeCall_offerEnded]
          exact (h.removeCall hd rfl _).loosen fun x hx => by rwa [State.homedBy, Ev.removeCall_agent hd]
      simp only [ho]
      split
      · rename_i hx
        have pair := State.endOffer_replaced hc o.agent .withdrawn
        have home : ∀ z, ((e.st.endOffer y o.agent .withdrawn).agent z).home = (e.st.agent z).home := fun z => by
          rw [pair.agent]
          split
          · rename_i hz; subst hz; rfl
          · rfl
        refine ended (e.upd _) (by rw [Ev.upd_st, pair.call, if_pos rfl]) ((h.endOffer hc ho _).loosen fun z hz => ?_)
        rw [State.homedBy, Ev.upd_st, home]
        rcases hz with hz | rfl
        · exact hz
        · exact hx
      · rename_i hx
        have pair := Ev.withdrawFromCall_replaced hc o .linkLoss
        refine ended _ (by rw [pair.call, if_pos rfl]) ((h.withdrawFromCall hc ho _).loosen fun z hz => ?_)
        rw [State.homedBy, pair.agent, if_neg]
        · exact hz
        · rintro rfl
          exact hx hz
    · rename_i hs
      obtain ⟨t, ht⟩ := Option.isSome_iff_exists.1 (whole.connected.1 hs)
      have h1 := h.freeConnected hc hs
      dsimp only
      rw [ht]
      cases hx : c.agent with
      | none => exact h1.loosen fun z hz => by simpa [State.homedBy, hx, Ev.upd_st] using hz
      | some x =>
        dsimp only
        split
        · rename_i hh
          refine h1.loosen fun z hz => ?_
          rw [hx] at hz
          rcases hz with hz | hz
          · simpa [State.homedBy, Ev.upd_st] using hz
          · cases hz; exact hh
        · rename_i hh
          have k := (e.upd fun s => s.freeCall y).startWrap_replaced x c.queue t .linkLoss
          refine (h.endConnection hc hx c.queue t .linkLoss).loosen fun z hz => ?_
          rw [State.homedBy, k.agent, if_neg]
          · simpa [State.homedBy, Ev.upd_st] using hz
          · rintro rfl
            exact hh (by simpa [State.homedBy, Ev.upd_st] using hz)

/-- The logout of an agent of a lost link settles it (R182 step 2). -/
theorem State.Consistent.loseAgent (h : e.st.Consistent sorted loose nobody) (x : Nat)
    (others : ∀ z, z ≠ x → loose z → loose' z) : (e.loseAgent x).st.Consistent sorted loose' nobody := by
  have eq : e.loseAgent x = (match (e.st.agent x).offer with
      | none => e.upd fun s => s.dropAgent x
      | some o =>
        match (e.upd fun s => s.dropAgent x).st.call? o.call with
        | none => e.upd fun s => s.dropAgent x
        | some c => ((e.upd fun s => s.dropAgent x).upd fun s => s.endOffer o.call x .withdrawn).releaseReservation
            c.owner).completeLogout x .linkLoss := rfl
  rw [eq]
  split
  · rename_i hn
    obtain ⟨h1, unnamed⟩ := h.dropAgent x
    exact State.Consistent.completeLogout (e := e.upd fun s => s.dropAgent x) h1 .linkLoss
      (by rw [Ev.upd_st, State.dropAgent_agent, hn]) unnamed fun z hz hl => others z hz (hl.resolve_right hz)
  · rename_i o ho
    obtain ⟨c, k, hc, hk, hx, -⟩ := h.agentOffers x o ho
    have hd : (e.upd fun s => s.dropAgent x) = e := by
      rw [Ev.upd, h.dropAgent_of_offer ho]
    rw [hd]
    simp only [hc]
    refine h.withdrawAndLogout hc hk hx ?_ others .linkLoss
    rw [hx]
    exact Ev.releaseReservation_same (e.upd fun s => s.endOffer o.call x .withdrawn) c.owner

/-- An agent that is logged in on a link is listed among those that the link homes. -/
theorem State.mem_homedAgents {l : Link} {x : Nat} (home : (s.agent x).home = some l)
    (logged : (s.agent x).state ≠ .loggedOut) : x ∈ s.homedAgents l := by
  have find : ∀ t : List (Nat × Agent), Assoc.get Agent.reset x t ≠ Agent.reset → (x, Assoc.get Agent.reset x t) ∈ t := by
    intro t
    induction t with
    | nil => simp [Assoc.get]
    | cons f t ih =>
      obtain ⟨k, v⟩ := f
      intro hne
      by_cases hk : k = x
      · simp [Assoc.get, Assoc.find, hk]
      · simp only [Assoc.get, Assoc.find, hk, if_false] at ih hne ⊢
        exact List.mem_cons_of_mem _ (ih hne)
  have hne : s.agent x ≠ Agent.reset := fun hr => logged (by rw [hr]; rfl)
  exact List.mem_map.2 ⟨(x, s.agent x), List.mem_filter.2 ⟨find s.agents hne, by simp [home, logged]⟩, rfl⟩

/-- When every agent of a lost link has been logged out, none is loose (R182 step 2). -/
theorem State.Consistent.loseAgents (xs : List Nat) {e : Ev} (h : e.st.Consistent sorted (· ∈ xs) nobody) :
    (xs.foldl Ev.loseAgent e).st.Consistent sorted nobody nobody := by
  induction xs generalizing e with
  | nil => exact h.loosen fun x hx => by simp at hx
  | cons x xs ih => exact ih (h.loseAgent x fun z hz hm => (List.mem_cons.1 hm).resolve_left hz)

/-- The loss of a switching link (R182). -/
theorem State.Consistent.loseSwitchingLink (h : e.st.Consistent sorted nobody nobody) (l : Link) (w : Highway) :
    (e.loseSwitchingLink l w).st.Consistent sorted nobody nobody := by
  have calls : ∀ (ys : List Nat) (e : Ev), e.st.Consistent sorted (e.st.homedBy l) nobody →
      (ys.foldl (Ev.loseCall l) e).st.Consistent sorted ((ys.foldl (Ev.loseCall l) e).st.homedBy l) nobody := by
    intro ys
    induction ys with
    | nil => exact fun e h => h
    | cons y ys ih => exact fun e h => ih _ (h.loseCall y)
  unfold Ev.loseSwitchingLink
  dsimp only
  have h1 := calls (e.st.ownedCalls l) e (h.loosen fun x hx => hx.elim)
  generalize (e.st.ownedCalls l).foldl (Ev.loseCall l) e = d at h1
  have k := d.st.drainHighway_same w
  have h2 : (d.upd fun s => s.drainHighway w).st.Consistent sorted
      (· ∈ (d.upd fun s => s.drainHighway w).st.homedAgents l) nobody := (h1.same k).loosen fun x hx => by
    have hx' : (d.st.agent x).home = some l := hx
    refine State.mem_homedAgents ?_ fun hs => ?_
    · rw [Ev.upd_st, k.agent]; exact hx
    · rw [Ev.upd_st, k.agent] at hs
      have := (h1.agent x).homed.1 hs
      rw [hx'] at this; cases this
  refine State.Consistent.foldl (fun e x h => h.agentAttempt x) _ ?_
  refine State.Consistent.foldl (fun e q h => h.queueAttempts q) _ ?_
  exact State.Consistent.foldl (fun e (r : Nat × Nat) h => h.runHeldStep r.1) _ (State.Consistent.loseAgents _ h2)

end

end Sys2Proof.Machine
end

section
/-!
PROOF. What a promise about the records needs of the operations (`Keeps`), so that every command keeps it (`Keeps.step`). The
services that leave the records alone, most of them, and the checks that come before every service are gone through here once.
-/
namespace Sys2Proof.Machine

open Sys2Proof

/-! ## Services that leave the records alone -/

section
variable (e : Ev) (l : Link) (r : Request)

theorem State.takeHead_same (s : State) (l : Link) : s.SameRecords (s.takeHead l).st := .setLink _ _ _

/-- An update that leaves the records alone, and its reply. -/
theorem Ev.updReply_same {f : State → State} (h : e.st.SameRecords (f e.st)) (status : Status) (result : Result) :
    e.st.SameRecords ((e.upd f).reply l r status result).st := h.trans ((e.upd f).reply_same l r status result)

theorem State.leaveDeferral_same (s : State) (w : Highway) (y : Nat) : s.SameRecords (s.leaveDeferral w y) := .setHighway _ _ _

theorem State.boundaryChannels_same (s : State) (w : Highway) : s.SameRecords (s.boundaryChannels w) := .setHighway _ _ _

theorem State.frame_same (s : State) : s.SameRecords s.frame := .of_eq rfl rfl rfl rfl rfl

theorem Ev.refuseMalformed_same (result : Result) : e.st.SameRecords (e.refuseMalformed l r result).st :=
  (e.reply_same l r .malformed result).trans (Ev.raiseFault_same _ _ _ _)

theorem Ev.serveSampleWrite_same (b : SampleWriteBody) : e.st.SameRecords (e.serveSampleWrite l r b).st := by
  unfold Ev.serveSampleWrite
  split
  · exact e.updReply_same l r (.of_eq rfl rfl rfl rfl rfl) _ _
  · exact e.reply_same _ _ _ _

theorem State.setSegment_same (s : State) (g : Nat) (entry : Option Segment) : s.SameRecords (s.setSegment g entry) := by
  unfold State.setSegment
  split <;> exact .of_eq rfl rfl rfl rfl rfl

theorem Ev.serveSegmentSet_same (b : SegmentSetBody) : e.st.SameRecords (e.serveSegmentSet l r b).st := by
  unfold Ev.serveSegmentSet
  split
  · split
    · exact e.reply_same _ _ _ _
    · exact e.updReply_same l r (e.st.setSegment_same _ _) _ _
  · exact e.reply_same _ _ _ _

theorem Ev.controlled_same (n : Nat) (p : Programme) : e.st.SameRecords (e.controlled l r n p).st :=
  e.updReply_same l r (.setProgramme _ _ _) _ _

theorem Ev.recounted_same (gs : List Nat) (f : Nat → Nat) (n : Nat) (p : Programme) :
    e.st.SameRecords ((e.upd fun s => s.updUseCounts gs f).controlled l r n p).st :=
  (State.SameRecords.updUseCounts e.st gs f).trans ((e.upd fun s => s.updUseCounts gs f).controlled_same l r n p)

theorem Ev.serveProgrammeSet_same (b : ProgrammeSetBody) : e.st.SameRecords (e.serveProgrammeSet l r b).st := by
  unfold Ev.serveProgrammeSet
  split
  · split
    · exact e.updReply_same l r (.setProgramme _ _ _) _ _
    · exact e.reply_same _ _ _ _
  · exact e.reply_same _ _ _ _

theorem Ev.serveRun_same (n : Nat) (p : Programme) : e.st.SameRecords (e.serveRun l r n p).st := by
  unfold Ev.serveRun
  split
  · exact e.recounted_same l r _ _ n _
  · exact e.controlled_same _ _ _ _
  · exact e.controlled_same _ _ _ _

theorem Ev.servePause_same (n : Nat) (p : Programme) : e.st.SameRecords (e.servePause l r n p).st := by
  unfold Ev.servePause
  split
  · exact e.reply_same _ _ _ _
  · exact e.controlled_same _ _ _ _
  · exact e.controlled_same _ _ _ _

theorem Ev.serveStop_same (n : Nat) (p : Programme) : e.st.SameRecords (e.serveStop l r n p).st := by
  unfold Ev.serveStop
  split
  · exact e.controlled_same _ _ _ _
  all_goals exact e.recounted_same l r _ _ n _

theorem Ev.bankReply_same (status : Status) : e.st.SameRecords (e.bankReply l r status).st := e.reply_same _ _ _ _

theorem Ev.serveBankOpen_same (b : Bank) : e.st.SameRecords (e.serveBankOpen l r b).st := by
  unfold Ev.serveBankOpen
  split
  · exact e.bankReply_same _ _ _
  · split
    · exact e.bankReply_same _ _ _
    · split
      · exact e.bankReply_same _ _ _
      · exact e.updReply_same l r (.of_eq rfl rfl rfl rfl rfl) _ _

theorem Ev.serveBankClose_same (b : Bank) : e.st.SameRecords (e.serveBankClose l r b).st := by
  unfold Ev.serveBankClose
  split
  · exact e.updReply_same l r (.of_eq rfl rfl rfl rfl rfl) _ _
  · exact e.bankReply_same _ _ _

theorem Ev.serveBankActivate_same (b : Bank) : e.st.SameRecords (e.serveBankActivate l r b).st := by
  unfold Ev.serveBankActivate
  split
  · exact e.bankReply_same _ _ _
  · exact e.updReply_same l r (.of_eq rfl rfl rfl rfl rfl) _ _

theorem Ev.servePatternWrite_same (b : PatternWriteBody) : e.st.SameRecords (e.servePatternWrite l r b).st := by
  unfold Ev.servePatternWrite
  split
  · exact e.bankReply_same _ _ _
  · split
    · exact e.bankReply_same _ _ _
    · split
      · exact e.updReply_same l r (.setPattern _ _ _ _) _ _
      · exact e.bankReply_same _ _ _

theorem Ev.serveVocabulary_same (v : Vocabulary) : e.st.SameRecords (e.serveVocabulary l r v).st := by
  unfold Ev.serveVocabulary
  split
  · exact e.updReply_same l r (.of_eq rfl rfl rfl rfl rfl) _ _
  · exact e.reply_same _ _ _ _

theorem Ev.serveTreatmentSet_same (b : TreatmentSetBody) : e.st.SameRecords (e.serveTreatmentSet l r b).st :=
  e.updReply_same l r (.of_eq rfl rfl rfl rfl rfl) _ _

theorem Ev.servePortSet_same (b : PortSetBody) : e.st.SameRecords (e.servePortSet l r b).st := by
  unfold Ev.servePortSet
  split
  · exact e.updReply_same l r (.setLink _ _ _) _ _
  · exact e.reply_same _ _ _ _

theorem Ev.serveStatsRead_same (q : Nat) : e.st.SameRecords (e.serveStatsRead l r q).st := by
  unfold Ev.serveStatsRead
  split <;> exact e.reply_same _ _ _ _

theorem Ev.serveStatsClear_same (b : StatsClearBody) : e.st.SameRecords (e.serveStatsClear l r b).st := by
  unfold Ev.serveStatsClear
  split
  · exact (e.reply_same _ _ _ _).trans (State.SameRecords.setQueue _ _ _ rfl)
  · exact e.reply_same _ _ _ _

theorem Ev.serveQueueRead_same (q : Nat) : e.st.SameRecords (e.serveQueueRead l r q).st := by
  unfold Ev.serveQueueRead
  split <;> exact e.reply_same _ _ _ _

theorem Ev.serveCallRead_same (y : Nat) : e.st.SameRecords (e.serveCallRead l r y).st := by
  unfold Ev.serveCallRead
  split <;> exact e.reply_same _ _ _ _

theorem Ev.servePortRead_same (named : Link) : e.st.SameRecords (e.servePortRead l r named).st :=
  (e.reply_same _ _ _ _).trans (Ev.updLink_same _ _ _)

theorem Ev.replyNotCurrent_same (b : OfferReplyBody) (a : Agent) : e.st.SameRecords (e.replyNotCurrent l r b a).st := by
  unfold Ev.replyNotCurrent
  split
  · split <;> exact e.reply_same _ _ _ _
  · exact e.reply_same _ _ _ _

end

/-- The reply and the notices of an engine reset. -/
theorem Ev.restartAnnounced_same (e : Ev) (l : Link) (r : Request) :
    e.st.engineReset.SameRecords (e.serveEngineReset l r).st := by
  have announce : ∀ (ls : List Link) (d : Ev), d.st.SameRecords (ls.foldl Ev.announceRestart d).st := by
    intro ls
    induction ls with
    | nil => exact fun d => .refl _
    | cons l ls ih => exact fun d => (d.queueNotice_same _ _).trans (ih _)
  exact State.SameRecords.trans ((e.upd fun s => s.engineReset).reply_same l r _ _) (announce _ _)

/-- A free slot holds no call. -/
theorem State.freeSlot_free {s : State} {y : Nat} (h : s.freeSlot = some y) : s.call? y = none := by
  have search : ∀ n z, s.freeSlotFrom n z = some y → s.call? y = none := by
    intro n
    induction n with
    | zero => exact fun z hz => by cases hz
    | succ n ih =>
      intro z hz
      unfold State.freeSlotFrom at hz
      split at hz
      · rename_i hn
        cases hz
        simpa using hn
      · exact ih _ hz
  exact search _ _ h

/-! ## What a promise about the records needs -/

/-- What keeps a promise `P` inside an event. `Q` is what `P` promises of the states between events. -/
structure Keeps (P Q : State → Prop) : Prop where
  weaken : ∀ {s}, P s → Q s
  tick : ∀ {s}, P s → Q { s with tick := s.tick + 1 }
  reset : ∀ cs, P { State.reset with pending := cs }
  same : ∀ {s t}, P s → s.SameRecords t → P t
  finish : ∀ {e : Ev}, P e.st → P e.finish
  enter : ∀ {e : Ev} {y l} r b p, P e.st → e.st.call? y = none → l ≠ .s → p.redirects ≤ 7 →
    P (e.enterCall l r b y p).st
  withdraw : ∀ {e : Ev} {y c} l r, P e.st → e.st.call? y = some c → P (e.serveWithdraw l r y c).st
  release : ∀ {e : Ev} {y c} l r, P e.st → e.st.call? y = some c → P (e.serveRelease l r y c).st
  login : ∀ {e : Ev} l r b, P e.st → P (e.serveLogin l r b).st
  ready : ∀ {e : Ev} l r x, P e.st → P (e.serveReady l r x (e.st.agent x)).st
  notReady : ∀ {e : Ev} l r x reason cause, P e.st → P (e.serveNotReady l r x reason cause (e.st.agent x)).st
  logout : ∀ {e : Ev} l r x cause, P e.st → P (e.serveLogout l r x cause (e.st.agent x)).st
  logoutNow : ∀ {e : Ev} x cause, P e.st → P (e.logoutNow x cause).st
  update : ∀ {e : Ev} l r (b : UpdateBody), P e.st → P (e.serveUpdate l r b (e.st.agent b.slot)).st
  extend : ∀ {e : Ev} l r (b : ExtendBody), P e.st → P (e.serveWrapExtend l r b (e.st.agent b.slot)).st
  endWrap : ∀ {e : Ev} {x w} cause, P e.st → (e.st.agent x).wrap = some w → P (e.endWrap x w cause).st
  connect : ∀ {e : Ev} {x y c o ao} token, P e.st → e.st.call? y = some c → c.offer = some o →
    (e.st.agent x).offer = some ao → ao.call = y → P (e.connect y c x (e.st.agent x) token).st
  failOffer : ∀ {e : Ev} {y c o} out cause, P e.st → e.st.call? y = some c → c.offer = some o →
    P (e.failOffer y c o out cause).st
  reage : ∀ {s : State} q old new, P s →
    P ((s.queue q).order.foldl (fun s y => s.updCall y fun c => c.reaged old new s.tick) s)
  queueAttempts : ∀ {e : Ev} q, P e.st → P (e.queueAttempts q).st
  engineReset : ∀ {s : State}, P s → P s.engineReset
  agentRead : ∀ {s : State} x, P s → P (s.setAgent x (s.agent x).clearAccumulators)
  promote : ∀ {s : State} {y c d}, P s → s.call? y = some c → c.promotion = some d → P (s.promote y c d)
  updTreatment : ∀ {s : State} y f, P s → P (s.updTreatment y f)
  completePhrase : ∀ {e : Ev} y, P e.st → P (e.completePhrase y).st
  penaltyOver : ∀ {e : Ev} {x d}, P e.st → (e.st.agent x).penaltyDeadline = some d →
    P (e.putAgentAtTail x ((e.st.agent x).penaltyOver e.st.tick) .expiry).st
  agentAttempt : ∀ {e : Ev} x, P e.st → P (e.agentAttempt x).st
  grantHead : ∀ {e d : Ev} w, P e.st → e.grantHead w = some d → P d.st
  grants : ∀ {e : Ev} w, P e.st → P (e.grants w).st
  endPhrase : ∀ {e : Ev} w ts y c t, P e.st → P (e.endPhrase w ts y c t).st
  completeExit : ∀ {e : Ev} l y, P e.st → P (e.completeExit l y).st
  takeHeldListen : ∀ {e : Ev} l y, P e.st → P (e.takeHeldListen l y).st
  attemptStage : ∀ {e : Ev} l, P e.st → P (e.attemptStage l).st
  loseSwitchingLink : ∀ {e : Ev} l w, P e.st → P (e.loseSwitchingLink l w).st

section
variable {P Q : State → Prop} {s : State} {e : Ev}

namespace Keeps

/-! ## Requests -/

/-- The checks of class and body. -/
theorem checked (k : Keeps P Q) (h : P e.st) {α : Type} (l : Link) (r : Request) (c : RequestClass)
    (read : List Byte → Option α) (result : Result) {serve : α → Ev} (served : ∀ b, P (serve b).st) :
    P (e.checked l r c read result serve).st := by
  unfold Ev.checked
  split
  · split
    · exact served _
    · exact k.same h (e.refuseMalformed_same _ _ _)
  · exact k.same h (e.reply_same _ _ _ _)

/-- A request is taken: its service is carried out on the state without it, and the event ends. -/
theorem taken (k : Keeps P Q) (h : P s) (l : Link) (mine : Request → Bool) {serve : Request → Ev → Ev}
    (served : ∀ r e, P e.st → P (serve r e).st) : Q (takeRequest s l mine serve) := by
  unfold takeRequest
  split
  · split
    · exact k.weaken (k.finish (served _ _ (k.same h (s.takeHead_same l))))
    · exact k.weaken h
  · exact k.weaken h

/-- A request whose service leaves the records alone. -/
theorem plain (k : Keeps P Q) (h : P s) {α : Type} (l : Link) (mine : Request → Bool) (c : RequestClass)
    (read : List Byte → Option α) (result : Ev → Result) {serve : Request → Ev → α → Ev}
    (served : ∀ r (e : Ev) b, e.st.SameRecords (serve r e b).st) :
    Q (takeRequest s l mine fun r e => e.checked l r c read (result e) (serve r e)) :=
  k.taken h l mine fun r e he => k.checked he l r c read _ fun b => k.same he (served r e b)

theorem forAgent (k : Keeps P Q) (h : P e.st) (l : Link) (r : Request) (x : Nat) (inRange : Bool) {serve : Agent → Ev}
    (served : P (serve (e.st.agent x)).st) : P (e.forAgent l r x inRange serve).st := by
  unfold Ev.forAgent
  dsimp only
  split
  · split
    · exact k.same h (e.reply_same _ _ _ _)
    · exact served
  · exact k.same h (e.reply_same _ _ _ _)

theorem forForce (k : Keeps P Q) (h : P e.st) (l : Link) (r : Request) (x : Nat) {serve : Agent → Ev}
    (served : P (serve (e.st.agent x)).st) : P (e.forForce l r x serve).st := by
  unfold Ev.forForce
  split
  · exact served
  · exact k.same h (e.reply_same _ _ _ _)

theorem forCall (k : Keeps P Q) (h : P e.st) (l : Link) (r : Request) (y : Nat) {serve : Call → Ev}
    (served : ∀ c, e.st.call? y = some c → P (serve c).st) : P (e.forCall l r y serve).st := by
  unfold Ev.forCall
  split
  · exact k.same h (e.reply_same _ _ _ _)
  · rename_i c hc
    split
    · refine served c ?_
      split at hc
      · exact hc
      · cases hc
    · exact k.same h (e.reply_same _ _ _ _)

/-- What a current offer is (R70). -/
theorem currentOffer_pair {a : Agent} {token : Token} {y : Nat} {c : Call} {o : CallOffer}
    (h : s.currentOffer a token = some (y, c, o)) :
    s.call? y = some c ∧ c.offer = some o ∧ ∃ ao, a.offer = some ao ∧ ao.call = y := by
  unfold State.currentOffer at h
  split at h
  · rename_i ao _ ho
    split at h
    · split at h
      · rename_i d hd
        obtain ⟨co, hco, heq⟩ := Option.map_eq_some_iff.1 h
        cases heq
        exact ⟨hd, hco, ao, ho, rfl⟩
      · cases h
    · cases h
  · cases h

theorem forOffer (k : Keeps P Q) (h : P e.st) (l : Link) (r : Request) (b : OfferReplyBody)
    {serve : Agent → Nat → Call → CallOffer → Ev}
    (served : ∀ y c o ao, e.st.call? y = some c → c.offer = some o → (e.st.agent b.slot).offer = some ao → ao.call = y →
      P (serve (e.st.agent b.slot) y c o).st) : P (e.forOffer l r b serve).st := by
  unfold Ev.forOffer
  dsimp only
  split
  · split
    · exact k.same h (e.reply_same _ _ _ _)
    · split
      · rename_i y c o hcur
        obtain ⟨hc, ho, ao, hao, hy⟩ := currentOffer_pair hcur
        exact served y c o ao hc ho hao hy
      · exact k.same h (e.replyNotCurrent_same _ _ _ _)
  · exact k.same h (e.reply_same _ _ _ _)

theorem bank (k : Keeps P Q) (h : P s) (l : Link) (mine : Request → Bool) {serve : Request → Ev → Bank → Ev}
    (served : ∀ r (e : Ev) b, e.st.SameRecords (serve r e b).st) :
    Q (takeRequest s l mine fun r e => e.forBank l r (serve r e)) :=
  k.plain h l mine .config readByte _ (serve := fun r e n => match bank? n with
    | some b => serve r e b
    | none => e.bankReply l r .noSuch) fun r e n => by
      split
      · exact served _ _ _
      · exact e.bankReply_same _ _ _

theorem programme (k : Keeps P Q) (h : P s) (l : Link) (mine : Request → Bool)
    {serve : Request → Ev → Nat → Programme → Ev} (served : ∀ r (e : Ev) n p, e.st.SameRecords (serve r e n p).st) :
    Q (takeRequest s l mine fun r e =>
      e.checked l r .config readProgrammeControl .bare fun b => e.forProgramme l r b (serve r e b.programme)) :=
  k.plain h l mine _ _ _ fun r e b => by
    unfold Ev.forProgramme
    split
    · exact served _ _ _ _
    · exact e.reply_same _ _ _ _

theorem serveLogoutNow (k : Keeps P Q) (h : P e.st) (l : Link) (r : Request) (x : Nat) (a : Agent) :
    P (e.serveLogoutNow l r x a).st := by
  unfold Ev.serveLogoutNow
  split
  · exact k.same h (e.reply_same _ _ _ _)
  · exact k.logoutNow x .force (k.same h (e.reply_same _ _ _ _))

theorem queueSet (k : Keeps P Q) (h : P e.st) (l : Link) (r : Request) (b : QueueSetBody) :
    P (e.serveQueueSet l r b).st := by
  have applied : ∀ (e : Ev) (old new : QueueConfig), P e.st → P (e.applyQueueSet b old new).st := fun e old new h => by
    unfold Ev.applyQueueSet
    dsimp only
    have h1 : P (e.upd fun s => s.setQueue b.queue { s.queue b.queue with config := new }).st :=
      k.same h (.setQueue _ _ _ rfl)
    generalize (e.upd fun s => s.setQueue b.queue { s.queue b.queue with config := new }) = e1 at h1
    have h2 : P (if b.minProficiency.isSome then e1.upd fun s => s.recountWeight b.queue else e1).st := by
      split
      · exact k.same h1 (.setQueue _ _ _ rfl)
      · exact h1
    generalize (if b.minProficiency.isSome then e1.upd fun s => s.recountWeight b.queue else e1) = e2 at h2
    have h3 : P (if b.agingInterval.isSome then e2.upd fun s => (s.queue b.queue).order.foldl (fun s slot =>
        s.updCall slot fun c => c.reaged old.agingInterval new.agingInterval s.tick) s else e2).st := by
      split
      · exact k.reage _ _ _ h2
      · exact h2
    generalize (if b.agingInterval.isSome then e2.upd fun s => (s.queue b.queue).order.foldl (fun s slot =>
        s.updCall slot fun c => c.reaged old.agingInterval new.agingInterval s.tick) s else e2) = e3 at h3
    have h4 : P (if b.upper.isSome || b.lower.isSome then (e3.evalClosing b.queue).evalOpening b.queue else e3).st := by
      split
      · exact k.same h3 ((Ev.evalClosing_same _ _).trans (Ev.evalOpening_same _ _))
      · exact h3
    split
    · exact k.same h4 (.setQueue _ _ _ rfl)
    · exact h4
  unfold Ev.serveQueueSet
  dsimp only
  split
  · have h1 := applied _ (e.st.queue b.queue).config ((e.st.queue b.queue).config.set b)
      (k.same h (e.reply_same l r .done (.queueConfig ((e.st.queue b.queue).config.set b))))
    split
    · exact k.queueAttempts _ h1
    · exact h1
  · exact k.same h (e.reply_same _ _ _ _)

theorem wrapEnd (k : Keeps P Q) (h : P e.st) (l : Link) (r : Request) (x : Nat) :
    P (e.serveWrapEnd l r x (e.st.agent x)).st := by
  unfold Ev.serveWrapEnd
  split
  · rename_i w _ hw
    have m := fun v => e.reply_same l r .done v
    exact k.agentAttempt x (k.endWrap .request (k.same h (m _)) (by rw [(m _).agent, hw]))
  · exact k.same h (e.reply_same _ _ _ _)

theorem serveAgentRead (k : Keeps P Q) (h : P e.st) (l : Link) (r : Request) (b : AgentReadBody) :
    P (e.serveAgentRead l r b).st := by
  unfold Ev.serveAgentRead
  dsimp only
  split
  · split
    · exact k.agentRead b.slot (k.same h (e.reply_same _ _ _ _))
    · exact k.same h (e.reply_same _ _ _ _)
  · exact k.same h (e.reply_same _ _ _ _)

/-! ## Every command -/

theorem fault (k : Keeps P Q) (h : P e.st) (l : Link) (r : Request) :
    P ((e.replyWithKind l r 0xFF .malformed .bare).raiseFault l .malformed (some (r.tag, r.kind))).st :=
  k.same h ((Ev.updLink_same _ _ _).trans (Ev.raiseFault_same _ _ _ _))

theorem takeRingExpiry (k : Keeps P Q) (h : P s) (y : Nat) : P (s.takeRingExpiry y) := by
  unfold State.takeRingExpiry
  split
  · exact h
  · rename_i c hc
    split
    · exact h
    · rename_i o ho
      split
      · exact k.finish (k.failOffer (e := s.event) _ _ h hc ho)
      · exact h

theorem takePromotionDeadline (k : Keeps P Q) (h : P s) (y : Nat) : P (s.takePromotionDeadline y) := by
  unfold State.takePromotionDeadline
  split
  · exact h
  · rename_i c hc
    split
    · exact h
    · rename_i d hd
      split
      · exact k.promote h hc hd
      · exact h

theorem takeStepDeadline (k : Keeps P Q) (h : P s) (y : Nat) : P (s.takeStepDeadline y) := by
  unfold State.takeStepDeadline
  split
  · exact h
  · split
    · exact h
    · split
      · exact k.finish (k.completePhrase y (k.updTreatment y _ h))
      · exact h

theorem takeDeferralExpiry (k : Keeps P Q) (h : P s) (y : Nat) : P (s.takeDeferralExpiry y) := by
  unfold State.takeDeferralExpiry
  split
  · exact h
  · rename_i c hc
    split
    · exact h
    · rename_i w hw
      split
      · exact h
      · split
        · refine k.finish (k.completePhrase y (k.same h ?_))
          exact (State.leaveDeferral_same s w y).trans ((s.event.upd fun s => s.leaveDeferral w y).count_same _ _)
        · exact h

theorem takeWrapDeadline (k : Keeps P Q) (h : P s) (x : Nat) : P (s.takeWrapDeadline x) := by
  unfold State.takeWrapDeadline
  split
  · exact h
  · rename_i w hw
    split
    · exact k.finish (k.agentAttempt x (k.endWrap (e := s.event) .expiry h hw))
    · exact h

theorem takePenaltyExpiry (k : Keeps P Q) (h : P s) (x : Nat) : P (s.takePenaltyExpiry x) := by
  unfold State.takePenaltyExpiry
  split
  · exact h
  · rename_i d hd
    split
    · exact k.finish (k.agentAttempt x (k.penaltyOver (e := s.event) h hd))
    · exact h

theorem takeBlockBoundary (k : Keeps P Q) (h : P s) : P s.takeBlockBoundary := by
  unfold State.takeBlockBoundary
  split
  · refine k.finish (k.grants .b (k.grants .a (k.same h ?_)))
    have unmarked : s.SameRecords { s with boundaryDue := false } := .of_eq rfl rfl rfl rfl rfl
    exact unmarked.trans ((State.boundaryChannels_same _ .a).trans (State.boundaryChannels_same _ .b))
  · exact h

theorem takePhraseEnd (k : Keeps P Q) (h : P s) (w : Highway) (ts : Nat) : P (s.takePhraseEnd w ts) := by
  unfold State.takePhraseEnd
  dsimp only
  split
  · split
    · split
      · exact h
      · split
        · exact h
        · exact k.finish (k.endPhrase (e := s.event) w ts _ _ _ h)
    · exact h
  · exact h

theorem takeExpiries (k : Keeps P Q) (h : P s) : P s.takeExpiries :=
  State.takeExpiries_keeps (P := P) (fun _ y h => k.takeRingExpiry h y) (fun _ y h => k.takePromotionDeadline h y)
    (fun _ y h => k.takeStepDeadline h y) (fun _ y h => k.takeDeferralExpiry h y) (fun _ x h => k.takeWrapDeadline h x)
    (fun _ x h => k.takePenaltyExpiry h x) h

theorem takePlayoutEvents (k : Keeps P Q) (h : P s) : P s.takePlayoutEvents :=
  State.takePlayoutEvents_keeps (P := P) (fun _ h => k.takeBlockBoundary h) (fun _ w ts h => k.takePhraseEnd h w ts) h

/-- What a command answers, where its answer is given. -/
theorem next (h : Q s) : ∃ t, (.next s : Host.Outcome State Fault Refusal) = .next t ∧ Q t := ⟨s, rfl, h⟩

/-- Every command goes on with a state of which the promise holds. -/
theorem exec (k : Keeps P Q) (h : P s) (c : Instr) : ∃ t, Machine.exec c s = .next t ∧ Q t := by
  cases c with
  | callEnter l =>
    refine next (k.taken h l _ fun r e he => ?_)
    split
    · exact k.same he (e.reply_same _ _ _ _)
    · rename_i hl
      refine k.checked he l r _ _ _ fun b => ?_
      unfold Ev.serveCallEnter
      split
      · exact k.same he (e.reply_same _ _ _ _)
      · rename_i y hy
        split
        · exact k.same he (e.reply_same _ _ _ _)
        · split
          · exact k.same he (e.reply_same _ _ _ _)
          · split
            · exact k.same he (e.reply_same _ _ _ _)
            · exact k.same he (e.reply_same _ _ _ _)
            · rename_i p hp
              exact k.enter r b p he (State.freeSlot_free hy) hl
                (State.arrivalChain_redirects _ _ _ _ _ _ (by omega) (by simp) p hp)
  | callWithdraw l =>
    exact next (k.taken h l _ fun r e he => k.checked he l r _ _ _ fun y => k.forCall he l r y fun c hc => k.withdraw l r he hc)
  | callRelease l =>
    exact next (k.taken h l _ fun r e he => k.checked he l r _ _ _ fun y => k.forCall he l r y fun c hc => k.release l r he hc)
  | agentLogin l => exact next (k.taken h l _ fun r e he => k.checked he l r _ _ _ fun b => k.login l r b he)
  | agentReady l =>
    exact next (k.taken h l _ fun r e he => k.checked he l r _ _ _ fun x => k.forAgent he l r x true (k.ready l r x he))
  | agentNotReady l =>
    exact next (k.taken h l _ fun r e he => k.checked he l r _ _ _ fun b => k.forAgent he l r b.slot true
      (k.notReady l r b.slot _ _ he))
  | agentLogout l =>
    exact next (k.taken h l _ fun r e he => k.checked he l r _ _ _ fun x => k.forAgent he l r x true (k.logout l r x _ he))
  | agentUpdate l =>
    exact next (k.taken h l _ fun r e he => k.checked he l r _ _ _ fun b => k.forAgent he l r b.slot _ (k.update l r b he))
  | forceLogout l =>
    exact next (k.taken h l _ fun r e he => k.checked he l r _ _ _ fun b => k.forForce he l r b.slot
      (k.logout l r b.slot _ he))
  | forceNotReady l =>
    exact next (k.taken h l _ fun r e he => k.checked he l r _ _ _ fun b => k.forForce he l r b.slot
      (k.notReady l r b.slot _ _ he))
  | forceLogoutNow l =>
    exact next (k.taken h l _ fun r e he => k.checked he l r _ _ _ fun b => k.forForce he l r b.slot
      (k.serveLogoutNow he l r b.slot _))
  | wrapEnd l =>
    exact next (k.taken h l _ fun r e he => k.checked he l r _ _ _ fun x => k.forAgent he l r x true (k.wrapEnd he l r x))
  | wrapExtend l =>
    exact next (k.taken h l _ fun r e he => k.checked he l r _ _ _ fun b => k.forAgent he l r b.slot true (k.extend l r b he))
  | accept l =>
    refine next (k.taken h l _ fun r e he => k.checked he l r _ _ _ fun b => k.forOffer he l r b
      fun y c o ao hc ho hao hy => ?_)
    have m := e.reply_same l r .done (.accepted b.slot b.token .busy (e.st.agent b.slot).pending y c.owner)
    have connected := k.connect (x := b.slot) o.token (k.same he m) (by rw [m.call, hc]) ho (by rw [m.agent, hao]) hy
    rwa [m.agent] at connected
  | decline l =>
    refine next (k.taken h l _ fun r e he => k.checked he l r _ _ _ fun b => k.forOffer he l r b
      fun y c o ao hc ho hao hy => ?_)
    have m := fun x => e.reply_same l r .done x
    exact k.failOffer _ _ (k.same he (m _)) (by rw [(m _).call, hc]) ho
  | queueSet l => exact next (k.taken h l _ fun r e he => k.checked he l r _ _ _ fun b => k.queueSet he l r b)
  | bankOpen l => exact next (k.bank h l _ fun r e b => e.serveBankOpen_same l r b)
  | bankClose l => exact next (k.bank h l _ fun r e b => e.serveBankClose_same l r b)
  | bankActivate l => exact next (k.bank h l _ fun r e b => e.serveBankActivate_same l r b)
  | patternWrite l => exact next (k.plain h l _ _ _ _ fun r e b => e.servePatternWrite_same l r b)
  | segmentSet l => exact next (k.plain h l _ _ _ _ fun r e b => e.serveSegmentSet_same l r b)
  | sampleWrite l => exact next (k.plain h l _ _ _ _ fun r e b => e.serveSampleWrite_same l r b)
  | programmeSet l => exact next (k.plain h l _ _ _ _ fun r e b => e.serveProgrammeSet_same l r b)
  | run l => exact next (k.programme h l _ fun r e n p => e.serveRun_same l r n p)
  | pause l => exact next (k.programme h l _ fun r e n p => e.servePause_same l r n p)
  | stop l => exact next (k.programme h l _ fun r e n p => e.serveStop_same l r n p)
  | vocabularySet l => exact next (k.plain h l _ _ _ _ fun r e b => e.serveVocabulary_same l r b)
  | treatmentSet l => exact next (k.plain h l _ _ _ _ fun r e b => e.serveTreatmentSet_same l r b)
  | portSet l => exact next (k.plain h l _ _ _ _ fun r e b => e.servePortSet_same l r b)
  | engineReset l =>
    refine next (k.taken h l _ fun r e he => k.checked he l r _ _ _ fun _ => k.same (k.engineReset he) ?_)
    exact e.restartAnnounced_same l r
  | statsRead l => exact next (k.plain h l _ _ _ _ fun r e b => e.serveStatsRead_same l r b)
  | statsClear l => exact next (k.plain h l _ _ _ _ fun r e b => e.serveStatsClear_same l r b)
  | queueRead l => exact next (k.plain h l _ _ _ _ fun r e b => e.serveQueueRead_same l r b)
  | callRead l => exact next (k.plain h l _ _ _ _ fun r e b => e.serveCallRead_same l r b)
  | agentRead l => exact next (k.taken h l _ fun r e he => k.checked he l r _ _ _ fun b => k.serveAgentRead he l r b)
  | portRead l => exact next (k.plain h l _ _ _ _ fun r e named => e.servePortRead_same l r named)
  | unknownKindRequest l => exact next (k.taken h l _ fun r e he => k.fault he l r)
  | frameReceived l bytes =>
    refine next (k.weaken ?_)
    split
    · exact k.finish (k.same h (Ev.receive_same _ _ _ s.event))
    · exact h
  | transmissionComplete l =>
    refine next (k.weaken ?_)
    split
    · rename_i x rest _ _
      have m := s.event.updLink_same l fun r => { r with outbound := rest }
      refine k.finish ?_
      split
      · rw [Ev.markFreed_st]; exact k.same h m
      · exact k.same h m
    · exact h
  | linkDown l =>
    refine next (k.weaken ?_)
    split
    · have lost := k.same h (s.event.updLink_same l LinkRec.lost)
      refine k.finish ?_
      split
      · exact k.loseSwitchingLink _ _ lost
      · exact lost
    · exact h
  | linkUp l =>
    refine next (k.weaken ?_)
    split
    · exact h
    · have regained := k.same h (State.SameRecords.setLink s l (s.link l).regained)
      dsimp only
      split
      · exact k.same regained (State.freeHighway_same _ _)
      · exact regained
  | powerOnReset => exact next (k.weaken (k.reset _))
  | ringExpiry y => exact next (k.weaken (k.takeRingExpiry h y))
  | promotionDeadline y => exact next (k.weaken (k.takePromotionDeadline h y))
  | stepDeadline y => exact next (k.weaken (k.takeStepDeadline h y))
  | deferralExpiry y => exact next (k.weaken (k.takeDeferralExpiry h y))
  | wrapDeadline x => exact next (k.weaken (k.takeWrapDeadline h x))
  | penaltyExpiry x => exact next (k.weaken (k.takePenaltyExpiry h x))
  | blockBoundary => exact next (k.weaken (k.takeBlockBoundary h))
  | phraseEnd w ts => exact next (k.weaken (k.takePhraseEnd h w ts))
  | pendingExitCompletion l =>
    refine next (k.weaken ?_)
    split
    · split
      · exact k.finish (k.completeExit (e := s.event) l _ h)
      · exact h
    · exact h
  | heldSourceQueued l =>
    refine next (k.weaken ?_)
    split
    · exact k.finish (k.takeHeldListen (e := s.event) l _ h)
    · exact h
  | heldReturnQueued l =>
    refine next (k.weaken ?_)
    split
    · exact k.finish (k.takeHeldListen (e := s.event) l _ h)
    · exact h
  | deferralGrant w =>
    refine next (k.weaken ?_)
    split
    · split
      · rename_i d hd
        exact k.finish (k.grantHead (e := s.event) w h hd)
      · exact h
    · exact h
  | freedSpaceAttempts l =>
    refine next (k.weaken ?_)
    split
    · split
      · exact k.finish (k.attemptStage (e := s.event) l h)
      · exact h
    · exact h
  | tick => exact next (k.tick (k.takeExpiries h))
  | playoutFrame => exact next (k.weaken (k.same (k.takePlayoutEvents h) (State.frame_same _)))

/-- The queue of waiting commands is no part of the records. -/
theorem step (k : Keeps P Q) {t : State} (h : P s) (hs : Machine.step s = .next t) : Q t := by
  unfold Machine.step at hs
  split at hs
  · rename_i c rest _
    obtain ⟨u, hu, hQ⟩ := k.exec (k.same h (.of_eq (t := { s with pending := rest }) rfl rfl rfl rfl rfl)) c
    rw [hu] at hs
    cases hs
    exact hQ
  · cases hs
    exact k.weaken h

end Keeps

end

end Sys2Proof.Machine
end

section
/-!
PROOF. The available list holds exactly the AVAILABLE agents, each once (O6). The operations keep it from every state, so the proof
cites what the model's laws say of them (`Engine.available`).
-/
namespace Sys2Proof.Machine

open Sys2Proof

section
variable {s t : State} {e : Ev}

theorem Call.reaged_redirects (c : Call) (old new : Nat) (now : Tick) : (c.reaged old new now).redirects = c.redirects := by
  unfold Call.reaged
  split
  · rfl
  · split
    · rfl
    · split <;> rfl

theorem State.AvailableExact.enterCall (h : e.st.AvailableExact) (l : Link) (r : Request) (b : CallEnterBody) (y : Nat)
    (p : Placement) (hp : p.redirects ≤ 7) : (e.enterCall l r b y p).st.AvailableExact := by
  unfold Ev.enterCall
  dsimp only
  generalize hc : newCall l b p (e.st.queue p.queue).config e.st.tick = c
  have hr : c.redirects ≤ 7 := by rw [← hc]; exact hp
  have h1 : (e.upd fun s => s.setCall y c).st.AvailableExact := (e.st.setCall_engine y c fun _ => hr).available h
  have h2 := (Ev.joinOrder_engine _ y c).available h1
  have h3 := (Ev.countPassed_engine _ p.passed).available ((Ev.count_engine _ p.queue .offered).available h2)
  refine (Ev.queueAttempts_engine _ _).available ((Ev.affinityOffer_engine _ _ _).available
    ((Ev.treatmentEvent_engine _ _).available ?_))
  exact (Ev.startTreatment_engine _ y c .none none fun _ => hr).available ((Ev.reply_same _ _ _ _ _).availableExact h3)

theorem State.AvailableExact.serveWithdraw {y : Nat} {c : Call} (h : e.st.AvailableExact) (l : Link) (r : Request) :
    (e.serveWithdraw l r y c).st.AvailableExact := by
  have replied := fun status => (e.reply_same l r status .bare).availableExact h
  unfold Ev.serveWithdraw
  split
  · exact replied _
  · exact (Ev.removeCall_engine _ _ _ _).available (replied _)
  · dsimp only
    split
    · exact (Ev.removeCall_engine _ _ _ _).available (replied _)
    · exact (Ev.agentAttempt_engine _ _).available ((Ev.removeCall_engine _ _ _ _).available
        ((Ev.withdrawFromCall_engine _ _ _ _ _).available (replied _)))

theorem State.AvailableExact.serveRelease {y : Nat} {c : Call} (h : e.st.AvailableExact) (l : Link) (r : Request) :
    (e.serveRelease l r y c).st.AvailableExact := by
  have replied := fun status => (e.reply_same l r status .bare).availableExact h
  have freed : ((e.reply l r .done .bare).upd fun s => s.freeCall y).st.AvailableExact :=
    (State.freeCall_engine _ y).available (replied _)
  unfold Ev.serveRelease
  split
  · exact replied _
  · exact replied _
  · dsimp only
    split
    · exact (Ev.agentAttempt_engine _ _).available ((Ev.startWrap_engine _ _ _ _ _).available freed)
    · exact freed

theorem State.AvailableExact.serveLogin (h : e.st.AvailableExact) (l : Link) (r : Request) (b : LoginBody) :
    (e.serveLogin l r b).st.AvailableExact := by
  have replied := fun status result => (e.reply_same l r status result).availableExact h
  unfold Ev.serveLogin
  dsimp only
  split
  · split
    · exact replied _ _
    · split
      · exact (Ev.putAgent_engine _ _ _ _ (by simp [Agent.login]) (by simp [Agent.login])).available (replied _ _)
      · exact replied _ _
  · exact replied _ _

/-- AGENT_READY leaves the state of an agent that holds an offer, a call or a wrap-up as it is. -/
theorem Agent.ready_state {a : Agent} (now : Tick) (h : a.state = .reserved ∨ a.state = .busy ∨ a.state = .wrapUp) :
    (a.ready now).state = a.state := by
  unfold Agent.ready
  rcases h with h | h | h
  all_goals
    simp only [h]
    split <;> simp [h]

theorem State.AvailableExact.serveReady (h : e.st.AvailableExact) (l : Link) (r : Request) (x : Nat) :
    (e.serveReady l r x (e.st.agent x)).st.AvailableExact := by
  have replied := fun status result => (e.reply_same l r status result).availableExact h
  have joined : (e.st.agent x).state = .notReady ∨ (e.st.agent x).state = .inferredAbsent →
      ((e.st.agent x).ready e.st.tick).state ≠ .loggedOut := fun hs => by
    unfold Agent.ready
    rcases hs with hs | hs <;> simp [hs, Agent.madeAvailable]
  have kept := fun hs => (State.setAgent_engine (e.reply l r .done (((e.st.agent x).ready e.st.tick).result x)).st x
    ((e.st.agent x).ready e.st.tick) (by rw [(e.reply_same _ _ _ _).agent]; exact Agent.ready_state _ hs)).available (replied _ _)
  unfold Ev.serveReady
  dsimp only
  split
  · exact replied _ _
  · rename_i hs
    exact (Ev.agentAttempt_engine _ _).available ((Ev.putAgentAtTail_engine _ _ _ _ (joined (.inl hs))).available (replied _ _))
  · rename_i hs
    exact (Ev.agentAttempt_engine _ _).available ((Ev.putAgentAtTail_engine _ _ _ _ (joined (.inr hs))).available (replied _ _))
  · exact replied _ _
  · rename_i hs; exact kept (.inl hs)
  · rename_i hs; exact kept (.inr (.inl hs))
  · rename_i hs; exact kept (.inr (.inr hs))

/-- A not-ready makes no agent AVAILABLE and logs none out. -/
theorem Agent.notReady_state (a : Agent) (reason : Nat) :
    (a.notReady reason).state = if a.state = .available ∨ a.state = .inferredAbsent then .notReady else a.state := by
  unfold Agent.notReady Agent.madeNotReady
  cases hs : a.state
  case reserved | busy | wrapUp => cases a.pending <;> simp [hs]
  all_goals simp [hs]

theorem State.AvailableExact.serveNotReady (h : e.st.AvailableExact) (l : Link) (r : Request) (x reason : Nat) (cause : Cause) :
    (e.serveNotReady l r x reason cause (e.st.agent x)).st.AvailableExact := by
  have replied := fun status result => (e.reply_same l r status result).availableExact h
  unfold Ev.serveNotReady
  dsimp only
  split
  · exact replied _ _
  · rename_i hs
    refine (Ev.putAgent_engine _ x _ _ ?_ ?_).available (replied _ _)
    all_goals rw [Agent.notReady_state]
    · split
      · simp
      · exact hs
    · rw [(e.reply_same _ _ _ _).agent]
      split
      · simp
      · exact id

theorem State.AvailableExact.serveLogout (h : e.st.AvailableExact) (l : Link) (r : Request) (x : Nat) (cause : Cause) :
    (e.serveLogout l r x cause (e.st.agent x)).st.AvailableExact := by
  have replied := fun status result => (e.reply_same l r status result).availableExact h
  have out : (e.replyAndLogout l r x cause).st.AvailableExact := (Ev.logoutNow_engine _ x cause).available (replied _ _)
  have pended := fun result => (State.setAgent_engine (e.reply l r .done result).st x { e.st.agent x with pending := .logout }
    (by rw [(e.reply_same _ _ _ _).agent])).available (replied _ _)
  unfold Ev.serveLogout
  split
  · exact replied _ _
  · exact out
  · exact out
  · exact out
  · exact out
  · exact pended _
  · exact pended _

theorem State.AvailableExact.serveUpdate (h : e.st.AvailableExact) (l : Link) (r : Request) (b : UpdateBody) :
    (e.serveUpdate l r b (e.st.agent b.slot)).st.AvailableExact := by
  have replied := fun status result => (e.reply_same l r status result).availableExact h
  unfold Ev.serveUpdate
  dsimp only
  split
  · exact replied _ _
  · rename_i hs
    have put := fun result => (Ev.putAgent_engine (e.reply l r .done result) b.slot ((e.st.agent b.slot).update b) .request
      (by simpa [Agent.update] using hs) (by rw [(e.reply_same _ _ _ _).agent]; exact id)).available (replied _ _)
    split
    · exact (Ev.agentAttempt_engine _ _).available (put _)
    · exact put _

theorem State.AvailableExact.serveWrapExtend (h : e.st.AvailableExact) (l : Link) (r : Request) (b : ExtendBody) :
    (e.serveWrapExtend l r b (e.st.agent b.slot)).st.AvailableExact := by
  have replied := fun status result => (e.reply_same l r status result).availableExact h
  unfold Ev.serveWrapExtend
  split
  · exact (State.setAgent_engine _ b.slot _ (by rw [(e.reply_same _ _ _ _).agent])).available (replied _ _)
  · exact replied _ _

theorem State.AvailableExact.connect (h : e.st.AvailableExact) (y : Nat) (c : Call) (x : Nat) (a : Agent) (token : Token) :
    (e.connect y c x a token).st.AvailableExact := by
  refine (e.connect_same y c x a token).availableExact ?_
  refine (Ev.putAgent_engine _ x _ _ (by simp [Agent.connectedTo]) (by simp [Agent.connectedTo])).available ?_
  simpa [State.AvailableExact, Ev.upd_st] using (Ev.leaveOrder_engine e y c).available h

theorem State.AvailableExact.failOffer (h : e.st.AvailableExact) (y : Nat) (c : Call) (o : CallOffer) (out : OfferOutcome)
    (cause : Cause) : (e.failOffer y c o out cause).st.AvailableExact := by
  unfold Ev.failOffer
  dsimp only
  have ended : (e.upd fun s => s.endOffer y o.agent out).st.AvailableExact := (State.endOffer_engine _ y o.agent out).available h
  refine (Ev.afterOffer_engine _ _ _ _).available ((Ev.settleFailed_engine _ _ _).available ((Ev.count_engine _ _ _).available
    ((Ev.chargeRedirect_engine _ _).available ((Ev.releaseReservation_engine _ _).available ?_))))
  split
  · exact (Ev.cancelOffer_engine _ _ _ _).available ended
  · exact (Ev.releaseHome_engine _ _).available ended

/-- What the operations promise of the available list. -/
theorem keeps_availableExact : Keeps State.AvailableExact State.AvailableExact where
  weaken := id
  tick h := h
  reset _ := ⟨fun x => by simp [State.reset, State.agent, Assoc.get, Agent.reset], by simp [State.reset]⟩
  same h k := k.availableExact h
  finish h := (Ev.finish_engine _).available h
  enter r b p h _ _ hp := h.enterCall _ r b _ p hp
  withdraw l r h _ := h.serveWithdraw l r
  release l r h _ := h.serveRelease l r
  login l r b h := h.serveLogin l r b
  ready l r x h := h.serveReady l r x
  notReady l r x reason cause h := h.serveNotReady l r x reason cause
  logout l r x cause h := h.serveLogout l r x cause
  logoutNow x cause h := (Ev.logoutNow_engine _ x cause).available h
  update l r b h := h.serveUpdate l r b
  extend l r b h := h.serveWrapExtend l r b
  endWrap cause h _ := (Ev.endWrap_engine _ _ _ cause).available h
  connect token h _ _ _ _ := h.connect _ _ _ _ token
  failOffer out cause h _ _ := h.failOffer _ _ _ out cause
  reage {s} q old new h := by
    generalize (s.queue q).order = ys
    induction ys generalizing s with
    | nil => exact h
    | cons y ys ih => exact ih ((State.updCall_engine s y _ fun c => Call.reaged_redirects c _ _ _).available h)
  queueAttempts q h := (Ev.queueAttempts_engine _ q).available h
  engineReset _ := ⟨fun x => by simp [State.engineReset, State.agent, Assoc.get, Agent.reset], by simp [State.engineReset]⟩
  agentRead {s} x h := (s.setAgent_engine x _ (by rfl)).available h
  promote h hc _ := (State.promote_engine _ _ _ _ fun hb => hb _ _ hc).available h
  updTreatment {s} y f h := (s.updTreatment_engine y f).available h
  completePhrase y h := (Ev.completePhrase_engine _ y).available h
  penaltyOver h _ := (Ev.putAgentAtTail_engine _ _ _ _ (by simp [Agent.penaltyOver, Agent.madeAvailable])).available h
  agentAttempt x h := (Ev.agentAttempt_engine _ x).available h
  grantHead w h hd := (Ev.grantHead_engine _ w _ hd).available h
  grants w h := (Ev.grants_engine _ w).available h
  endPhrase w ts y c t h := (Ev.endPhrase_engine _ w ts y c t).available h
  completeExit l y h := (Ev.completeExit_engine _ l y).available h
  takeHeldListen l y h := (Ev.takeHeldListen_engine _ l y).available h
  attemptStage l h := (Ev.attemptStage_engine _ l).available h
  loseSwitchingLink l w h := (Ev.loseSwitchingLink_engine _ l w).available h

end

/-- Settles O6: every operation that a command is made of keeps the promise. -/
theorem availableListKept : Obligations.AvailableListKept := fun _ _ h hs => keeps_availableExact.step h hs

end Sys2Proof.Machine
end

section
/-!
PROOF. The agent and call records keep agreeing (O8), and the available list and the waiting orders stay sorted (O9).
-/
namespace Sys2Proof.Machine

open Sys2Proof

section
variable {sorted : Prop} {s t : State} {e : Ev}

/-! ## States without agents and calls -/

theorem Assoc.get_of_forall {α : Type} {p : α → Prop} {d : α} (hd : p d) (k : Nat) {t : List (Nat × α)}
    (h : ∀ f ∈ t, p f.2) : p (Assoc.get d k t) := by
  induction t with
  | nil => exact hd
  | cons f t ih =>
    obtain ⟨k', v⟩ := f
    unfold Assoc.get Assoc.find
    split
    · exact h (k', v) (by simp)
    · exact ih fun g hg => h g (by simp [hg])

theorem State.engineReset_order (s : State) (q : Nat) : (s.engineReset.queue q).order = [] := by
  refine Assoc.get_of_forall (p := fun r : Queue => r.order = []) rfl q fun f hf => ?_
  obtain ⟨g, -, rfl⟩ := List.mem_map.1 (List.mem_filter.1 hf).1
  rfl

/-- Without agents and calls, the records agree and are in order. -/
theorem State.Consistent.empty (agents : s.agents = []) (available : s.available = []) (calls : s.calls = [])
    (order : ∀ q, (s.queue q).order = []) : s.Consistent sorted nobody nobody := by
  have agent : ∀ x, s.agent x = Agent.reset := fun x => by simp [State.agent, agents, Assoc.get]
  have call : ∀ y, s.call? y = none := fun y => by simp [State.call?, calls]
  exact
    { available := ⟨fun x => by simp [available, agent, Agent.reset], by simp [available]⟩
      agent := fun x => by rw [agent]; constructor <;> simp [Agent.reset]
      call := by simp [call]
      ordered := by simp [order, call]
      once := by simp [order]
      callOffers := by simp [call]
      agentOffers := by simp [agent, Agent.reset]
      callAgents := by simp [call]
      agentCalls := by simp [agent, Agent.reset]
      recent := fun _ => ⟨by simp [agent, Agent.reset], by simp [call]⟩
      inOrder := fun _ => ⟨by simp [available], by simp [order]⟩ }

/-! ## Records edited beside their state -/

/-- A record is whole by its state and the parts that go with it. -/
theorem Agent.Whole.congr {P : Prop} {a b : Agent} (h : a.Whole P) (state : b.state = a.state) (offer : b.offer = a.offer)
    (call : b.call = a.call) (wrap : b.wrap = a.wrap) (penalty : b.penaltyDeadline = a.penaltyDeadline)
    (home : b.home = a.home) : b.Whole P := by
  constructor
  · rw [state, offer]; exact h.reserved
  · rw [state, offer]; exact h.offered
  · rw [state, call]; exact h.busy
  · rw [state, wrap]; exact h.wrapping
  · rw [state, penalty]; exact h.penalized
  · rw [state, home]; exact h.homed
  · rw [home]; exact h.switching

/-- An agent that is not RESERVED, BUSY or in WRAP_UP holds nothing but a penalty. -/
theorem Agent.Whole.free {P : Prop} {a : Agent} (h : a.Whole P) (reserved : a.state ≠ .reserved) (busy : a.state ≠ .busy)
    (wrapUp : a.state ≠ .wrapUp) : a.offer = none ∧ a.call = none ∧ a.wrap = none :=
  ⟨h.offer_none reserved, h.call_none busy, h.wrap_none wrapUp⟩

theorem State.CallSettled.same {loose : Nat → Prop} {x : Nat} {new : Agent} (h : new.call = (s.agent x).call) :
    s.CallSettled loose loose x new := .inl ⟨h, id⟩

theorem State.Consistent.updCall {y : Nat} {f : Call → Call} {loose unplaced : Nat → Prop}
    (h : s.Consistent sorted loose unplaced) (edited : ∀ c, s.call? y = some c → c.Edited (f c)) :
    (s.updCall y f).Consistent sorted loose unplaced := by
  unfold State.updCall
  split
  · rename_i c hc
    exact h.edit (s.setCall_replaced _ _) hc (edited c hc)
  · exact h

theorem Call.reaged_edited {c : Call} (h : c.Whole) (hn : c.state ≠ .connected) (old new : Nat) (now : Tick) :
    c.Edited (c.reaged old new now) := by
  have edited : ∀ p, c.Edited { c with promotion := p } := fun p =>
    ⟨rfl, rfl, rfl, rfl, rfl, rfl, rfl, rfl, fun hs => absurd hs hn, h.exiting⟩
  unfold Call.reaged
  split
  · exact edited c.promotion
  · split
    · exact edited _
    · split
      · exact edited _
      · exact edited c.promotion

/-- The promotion deadlines of calls that are not connected are set anew (R34). -/
theorem State.Consistent.reage (ys : List Nat) (old new : Nat) {s : State} (h : s.Consistent sorted nobody nobody)
    (hn : ∀ y ∈ ys, ∀ c, s.call? y = some c → c.state ≠ .connected) :
    (ys.foldl (fun s y => s.updCall y fun c => c.reaged old new s.tick) s).Consistent sorted nobody nobody := by
  induction ys generalizing s with
  | nil => exact h
  | cons y ys ih =>
    refine ih (h.updCall fun c hc => Call.reaged_edited (h.call y c hc) (hn y (by simp) c hc) _ _ _) fun z hz c hc => ?_
    rw [State.call?_updCall] at hc
    split at hc
    · rename_i hy
      subst hy
      obtain ⟨d, hd, rfl⟩ := Option.map_eq_some_iff.1 hc
      rw [(Call.reaged_edited (h.call y d hd) (hn y (by simp) d hd) old new s.tick).state]
      exact hn y (by simp) d hd
    · exact hn z (by simp [hz]) c hc

/-! ## The requests of calls -/

/-- A new call is put in a free slot, in no order yet. -/
theorem State.Consistent.newCall {y : Nat} {c : Call} (h : s.Consistent sorted nobody nobody) (hy : s.call? y = none)
    (whole : c.Whole) (offer : c.offer = none) (agent : c.agent = none) (entry : c.entry = s.tick) :
    (s.setCall y c).Consistent sorted nobody fun z => z = y := by
  have h1 : s.Consistent sorted nobody fun z => z = y := h.mono (fun _ => id) fun z d hd _ => by
    have : z ≠ y := by rintro rfl; rw [hy] at hd; cases hd
    simp [this]
  exact h1.replaceCall (s.setCall_replaced y c) whole (.inr ⟨hy, offer, agent⟩) (.inl rfl) fun _ => by rw [entry]; simp

theorem State.Consistent.enterCall {y : Nat} {l : Link} (h : e.st.Consistent sorted nobody nobody) (r : Request)
    (b : CallEnterBody) (p : Placement) (hy : e.st.call? y = none) (hl : l ≠ .s) :
    (e.enterCall l r b y p).st.Consistent sorted nobody nobody := by
  unfold Ev.enterCall
  dsimp only
  generalize hc : Machine.newCall l b p (e.st.queue p.queue).config e.st.tick = c
  have waiting : c.state = .waiting := by rw [← hc]; rfl
  have whole : c.Whole := by subst hc; constructor <;> simp [Machine.newCall, hl]
  have h1 : (e.upd fun s => s.setCall y c).st.Consistent sorted nobody fun z => z = y :=
    h.newCall hy whole (by rw [← hc]; rfl) (by rw [← hc]; rfl) (by rw [← hc]; rfl)
  have c1 : (e.upd fun s => s.setCall y c).st.call? y = some c := by simp [Ev.upd_st]
  have h2 := (h1.joinOrder rfl c1 (by simp [waiting])).mono (loose' := nobody) (unplaced' := nobody) (fun _ => id)
    fun z _ _ _ => by simp
  have c2 := ((e.upd fun s => s.setCall y c).joinOrder_call y c y).trans c1
  generalize (e.upd fun s => s.setCall y c).joinOrder y c = d at h2 c2
  have m : ∀ result, d.st.SameRecords (((d.count p.queue .offered).countPassed p.passed).reply l r .done result).st :=
    fun result => ((d.count_same _ _).trans (Ev.countPassed_same _ _)).trans (Ev.reply_same _ _ _ _ _)
  exact (((((h2.same (m _)).startTreatment (by rw [(m _).call, c2]) (by simp [waiting]) _ _).treatmentEvent y).affinityOffer y
    p.queue).queueAttempts p.queue)

theorem State.Consistent.serveWithdraw {y : Nat} {c : Call} (h : e.st.Consistent sorted nobody nobody) (l : Link) (r : Request)
    (hc : e.st.call? y = some c) : (e.serveWithdraw l r y c).st.Consistent sorted nobody nobody := by
  have m := fun status => e.reply_same l r status .bare
  have hc' : (e.reply l r .done .bare).st.call? y = some c := by rw [(m _).call, hc]
  unfold Ev.serveWithdraw
  split
  · exact h.same (m _)
  · rename_i hs
    exact (h.same (m _)).removeCall hc' hs _
  · rename_i hs
    obtain ⟨o, ho⟩ := Option.isSome_iff_exists.1 ((h.call y c hc).offering.1 hs)
    simp only [ho]
    refine State.Consistent.agentAttempt ?_ _
    rw [← Ev.removeCall_offerEnded]
    refine State.Consistent.removeCall ((h.same (m _)).withdrawFromCall hc' ho _) ?_ rfl _
    rw [(Ev.withdrawFromCall_replaced hc' o _).call, if_pos rfl]

theorem State.Consistent.serveRelease {y : Nat} {c : Call} (h : e.st.Consistent sorted nobody nobody) (l : Link) (r : Request)
    (hc : e.st.call? y = some c) : (e.serveRelease l r y c).st.Consistent sorted nobody nobody := by
  have m := fun status => e.reply_same l r status .bare
  have h' := h.same (m .done)
  have hc' : (e.reply l r .done .bare).st.call? y = some c := by rw [(m _).call, hc]
  unfold Ev.serveRelease
  split
  · exact h.same (m _)
  · exact h.same (m _)
  · rename_i hs
    obtain ⟨t, ht⟩ := Option.isSome_iff_exists.1 ((h.call y c hc).connected.1 hs)
    dsimp only
    rw [ht]
    cases hx : c.agent with
    | none => exact (h'.freeConnected hc' hs).loosen fun x hl => by simpa [hx] using hl
    | some x => exact (h'.endConnection hc' hx _ t _).agentAttempt x

theorem State.Consistent.serveAccept {x y : Nat} {c : Call} {o : CallOffer} {ao : AgentOffer}
    (h : e.st.Consistent sorted nobody nobody) (token : Token) (hc : e.st.call? y = some c) (ho : c.offer = some o)
    (hao : (e.st.agent x).offer = some ao) (hy : ao.call = y) :
    (e.connect y c x (e.st.agent x) token).st.Consistent sorted nobody nobody := by
  obtain ⟨d, k, hd, hk, hx, -⟩ := h.agentOffers x ao hao
  rw [hy, hc] at hd
  cases hd
  rw [ho] at hk
  cases hk
  exact h.connect hc ho hx token

/-- A promotion (R41). -/
theorem State.Consistent.promote {y : Nat} {c : Call} {d : Tick} (h : s.Consistent sorted nobody nobody)
    (hc : s.call? y = some c) (hd : c.promotion = some d) : (s.promote y c d).Consistent sorted nobody nobody := by
  have whole := h.call y c hc
  have hn : c.state ≠ .connected := fun hs => by simp [(whole.answered hs).2.1] at hd
  exact h.reband hc hn ⟨whole.offering, whole.connected, whole.served, fun hs => absurd hs hn, whole.exiting, whole.switching⟩
    rfl rfl rfl rfl rfl

/-! ## The requests of agents -/

theorem State.Consistent.serveLogin (h : e.st.Consistent sorted nobody nobody) (l : Link) (r : Request) (b : LoginBody) :
    (e.serveLogin l r b).st.Consistent sorted nobody nobody := by
  have m := fun status result => e.reply_same l r status result
  unfold Ev.serveLogin
  dsimp only
  split
  · split
    · exact h.same (m _ _)
    · rename_i hl
      split
      · rename_i hs
        have whole := h.agent b.slot
        obtain ⟨offer, call, wrap⟩ := whole.free (by simp [hs]) (by simp [hs]) (by simp [hs])
        refine (h.same (m _ _)).putAgent .request ?_ (by simp [Agent.login])
          (by simp [Agent.login, Agent.clearAccumulators, (m _ _).agent])
          (.same (by simp [Agent.login, Agent.clearAccumulators, (m _ _).agent])) (fun _ _ => id) (by simp [Agent.login])
        constructor <;> simp [Agent.login, Agent.clearAccumulators, offer, call, wrap, hl]
      · exact h.same (m _ _)
  · exact h.same (m _ _)

/-- AGENT_READY changes the pending value alone of an agent that holds an offer, a call or a wrap-up (R12). -/
theorem Agent.ready_pending {a : Agent} (now : Tick) (h : a.state = .reserved ∨ a.state = .busy ∨ a.state = .wrapUp) :
    ∃ p, a.ready now = { a with pending := p } := by
  cases a
  dsimp only at h
  rcases h with rfl | rfl | rfl
  all_goals
    unfold Agent.ready
    dsimp only
    split <;> exact ⟨_, rfl⟩

/-- An agent without an offer, a call or a wrap-up that becomes AVAILABLE now. -/
theorem State.Consistent.becomeAvailable {x : Nat} {new : Agent} (h : e.st.Consistent sorted nobody nobody) (cause : Cause)
    (state : (e.st.agent x).state = .notReady ∨ (e.st.agent x).state = .inferredAbsent)
    (hnew : new = { (e.st.agent x).madeAvailable e.st.tick with miss := 0, penaltyDeadline := none }) :
    (e.putAgentAtTail x new cause).st.Consistent sorted nobody nobody := by
  have whole := h.agent x
  obtain ⟨offer, call, wrap⟩ : (e.st.agent x).offer = none ∧ (e.st.agent x).call = none ∧ (e.st.agent x).wrap = none := by
    rcases state with hs | hs <;> exact whole.free (by simp [hs]) (by simp [hs]) (by simp [hs])
  have home : (e.st.agent x).home ≠ none := fun hn => by
    have := whole.homed.2 hn
    rcases state with hs | hs <;> simp [hs] at this
  subst hnew
  refine h.putAgentAtTail cause ?_ (by simp [Agent.madeAvailable]) rfl (.same rfl) (fun _ _ => id)
    (by simp [Agent.madeAvailable]) fun _ => rfl
  constructor <;> simp [Agent.madeAvailable, offer, call, wrap, home, whole.switching]

theorem State.Consistent.serveReady (h : e.st.Consistent sorted nobody nobody) (l : Link) (r : Request) (x : Nat) :
    (e.serveReady l r x (e.st.agent x)).st.Consistent sorted nobody nobody := by
  have m := fun status result => e.reply_same l r status result
  have joined : ∀ status result, (e.st.agent x).state = .notReady ∨ (e.st.agent x).state = .inferredAbsent →
      (((e.reply l r status result).putAgentAtTail x ((e.st.agent x).ready e.st.tick) .request).agentAttempt x).st.Consistent
        sorted nobody nobody := fun status result hs => by
    refine ((h.same (m _ _)).becomeAvailable .request (by rwa [(m _ _).agent]) ?_).agentAttempt x
    rw [(m _ _).agent, (m _ _).tick]
    unfold Agent.ready
    rcases hs with hs | hs <;> simp only [hs]
  have kept : ∀ status result, (e.st.agent x).state = .reserved ∨ (e.st.agent x).state = .busy ∨ (e.st.agent x).state = .wrapUp →
      ((e.reply l r status result).upd fun s => s.setAgent x ((e.st.agent x).ready e.st.tick)).st.Consistent sorted nobody
        nobody := fun status result hs => by
    obtain ⟨p, hp⟩ := Agent.ready_pending e.st.tick hs
    rw [hp]
    exact (h.same (m _ _)).setAgent ((h.agent x).congr rfl rfl rfl rfl rfl rfl) (by rw [(m _ _).agent])
      (by rw [(m _ _).agent]) (by rw [(m _ _).agent]) (by rw [(m _ _).agent])
  unfold Ev.serveReady
  dsimp only
  split
  · exact h.same (m _ _)
  · rename_i hs; exact joined _ _ (.inl hs)
  · rename_i hs; exact joined _ _ (.inr hs)
  · exact h.same (m _ _)
  · rename_i hs; exact kept _ _ (.inl hs)
  · rename_i hs; exact kept _ _ (.inr (.inl hs))
  · rename_i hs; exact kept _ _ (.inr (.inr hs))

/-- The parts of an agent's record that a not-ready leaves as they are (R13). -/
structure Agent.NotReadied (a b : Agent) : Prop where
  offer : b.offer = a.offer
  call : b.call = a.call
  wrap : b.wrap = a.wrap
  home : b.home = a.home
  since : b.availSince = a.availSince
  penalty : b.penaltyDeadline = none ∨ b.penaltyDeadline = a.penaltyDeadline ∧ a.state ≠ .inferredAbsent

theorem Agent.notReady_edited (a : Agent) (reason : Nat) : a.NotReadied (a.notReady reason) := by
  unfold Agent.notReady Agent.madeNotReady
  split
  case h_3 => exact ⟨rfl, rfl, rfl, rfl, rfl, .inl rfl⟩
  case h_4 | h_5 | h_6 =>
    rename_i hs
    split <;> exact ⟨rfl, rfl, rfl, rfl, rfl, .inr ⟨rfl, by simp [hs]⟩⟩
  all_goals
    rename_i hs
    exact ⟨rfl, rfl, rfl, rfl, rfl, .inr ⟨rfl, by simp [hs]⟩⟩

theorem State.Consistent.serveNotReady (h : e.st.Consistent sorted nobody nobody) (l : Link) (r : Request) (x reason : Nat)
    (cause : Cause) : (e.serveNotReady l r x reason cause (e.st.agent x)).st.Consistent sorted nobody nobody := by
  have m := fun status result => e.reply_same l r status result
  unfold Ev.serveNotReady
  dsimp only
  split
  · exact h.same (m _ _)
  · rename_i hs
    have whole := h.agent x
    have edited := Agent.notReady_edited (e.st.agent x) reason
    have logged : ((e.st.agent x).notReady reason).state ≠ .loggedOut := by
      rw [Agent.notReady_state]
      split
      · simp
      · exact hs
    refine (h.same (m _ _)).putAgent cause ?_ logged (by rw [edited.offer, (m _ _).agent])
      (.same (by rw [edited.call, (m _ _).agent])) (fun _ _ => id) fun hn => ?_
    · by_cases hf : (e.st.agent x).state = .available ∨ (e.st.agent x).state = .inferredAbsent
      · have state : ((e.st.agent x).notReady reason).state = .notReady := by rw [Agent.notReady_state, if_pos hf]
        obtain ⟨offer, call, wrap⟩ : (e.st.agent x).offer = none ∧ (e.st.agent x).call = none ∧ (e.st.agent x).wrap = none := by
          rcases hf with hf | hf <;> exact whole.free (by simp [hf]) (by simp [hf]) (by simp [hf])
        have home : (e.st.agent x).home ≠ none := fun hn => hs (whole.homed.2 hn)
        have penalty : ((e.st.agent x).notReady reason).penaltyDeadline = none := by
          rcases edited.penalty with hp | hp
          · exact hp
          · rw [hp.1]; exact whole.penalty_none hp.2
        constructor <;> simp [state, edited.offer, edited.call, edited.wrap, edited.home, offer, call, wrap, home, penalty,
          whole.switching]
      · have state := Agent.notReady_state (e.st.agent x) reason
        rw [if_neg hf] at state
        refine whole.congr state edited.offer edited.call edited.wrap ?_ edited.home
        have none' := whole.penalty_none fun hi => hf (.inr hi)
        rcases edited.penalty with hp | hp
        · rw [hp, none']
        · exact hp.1
    · rw [(m _ _).agent]
      rw [Agent.notReady_state] at hn ⊢
      split
      · rename_i hf
        simp [hf] at hn
      · exact ⟨rfl, edited.since⟩

theorem State.Consistent.serveLogout (h : e.st.Consistent sorted nobody nobody) (l : Link) (r : Request) (x : Nat)
    (cause : Cause) : (e.serveLogout l r x cause (e.st.agent x)).st.Consistent sorted nobody nobody := by
  have m := fun status result => e.reply_same l r status result
  have out : (e.replyAndLogout l r x cause).st.Consistent sorted nobody nobody := (h.same (m _ _)).logoutNow x cause
  have pended : ∀ result, ((e.reply l r .done result).upd fun s =>
      s.setAgent x { e.st.agent x with pending := .logout }).st.Consistent sorted nobody nobody := fun result =>
    (h.same (m _ _)).setAgent ((h.agent x).congr rfl rfl rfl rfl rfl rfl) (by rw [(m _ _).agent]) (by rw [(m _ _).agent])
      (by rw [(m _ _).agent]) (by rw [(m _ _).agent])
  unfold Ev.serveLogout
  split
  · exact h.same (m _ _)
  · exact out
  · exact out
  · exact out
  · exact out
  · exact pended _
  · exact pended _

theorem State.Consistent.serveUpdate (h : e.st.Consistent sorted nobody nobody) (l : Link) (r : Request) (b : UpdateBody) :
    (e.serveUpdate l r b (e.st.agent b.slot)).st.Consistent sorted nobody nobody := by
  have m := fun status result => e.reply_same l r status result
  unfold Ev.serveUpdate
  dsimp only
  split
  · exact h.same (m _ _)
  · rename_i hs
    have put : ∀ result, ((e.reply l r .done result).putAgent b.slot ((e.st.agent b.slot).update b) .request).st.Consistent
        sorted nobody nobody := fun result =>
      (h.same (m _ _)).putAgent .request ((h.agent b.slot).congr rfl rfl rfl rfl rfl rfl) hs (by rw [(m _ _).agent]; rfl)
        (.same (by rw [(m _ _).agent]; rfl)) (fun _ _ => id) fun _ => by rw [(m _ _).agent]; exact ⟨rfl, rfl⟩
    split
    · exact (put _).agentAttempt _
    · exact put _

theorem State.Consistent.serveWrapExtend (h : e.st.Consistent sorted nobody nobody) (l : Link) (r : Request) (b : ExtendBody) :
    (e.serveWrapExtend l r b (e.st.agent b.slot)).st.Consistent sorted nobody nobody := by
  have m := fun status result => e.reply_same l r status result
  unfold Ev.serveWrapExtend
  split
  · rename_i w hs hw
    have whole := h.agent b.slot
    refine (h.same (m _ _)).setAgent ?_ (by rw [(m _ _).agent]) (by rw [(m _ _).agent]) (by rw [(m _ _).agent])
      (by rw [(m _ _).agent])
    exact ⟨whole.reserved, whole.offered, whole.busy, by simp [hs], whole.penalized, whole.homed, whole.switching⟩
  · exact h.same (m _ _)

/-! ## The promises -/

/-- What the operations promise of the records, for whatever the records promise between events. -/
theorem keeps_consistent {Q : State → Prop} (weaken : ∀ {s : State}, s.Consistent sorted nobody nobody → Q s)
    (tick : ∀ {s : State}, s.Consistent sorted nobody nobody → Q { s with tick := s.tick + 1 }) :
    Keeps (State.Consistent sorted nobody nobody) Q where
  weaken := weaken
  tick := tick
  reset _ := .empty rfl rfl rfl fun _ => rfl
  same h k := h.same k
  finish h := h.finish
  enter r b p h hy hl _ := h.enterCall r b p hy hl
  withdraw l r h hc := h.serveWithdraw l r hc
  release l r h hc := h.serveRelease l r hc
  login l r b h := h.serveLogin l r b
  ready l r x h := h.serveReady l r x
  notReady l r x reason cause h := h.serveNotReady l r x reason cause
  logout l r x cause h := h.serveLogout l r x cause
  logoutNow x cause h := h.logoutNow x cause
  update l r b h := h.serveUpdate l r b
  extend l r b h := h.serveWrapExtend l r b
  endWrap cause h hw := h.endWrap hw cause
  connect token h hc ho hao hy := h.serveAccept token hc ho hao hy
  failOffer out cause h hc ho := h.failOffer hc ho out cause
  reage q old new h := h.reage _ old new fun y hy c hc => by
    obtain ⟨-, d, hd, -, hn⟩ := (h.ordered q y).1 hy
    rw [hc] at hd; cases hd
    exact hn
  queueAttempts q h := h.queueAttempts q
  engineReset {s} _ := .empty rfl rfl rfl s.engineReset_order
  agentRead x h := h.setAgent ((h.agent x).congr rfl rfl rfl rfl rfl rfl) rfl rfl rfl rfl
  promote h hc hd := h.promote hc hd
  updTreatment y f h := h.updTreatment y f
  completePhrase y h := h.completePhrase y
  penaltyOver {e x d} h hd := h.becomeAvailable .expiry (.inr ((h.agent x).penalized (by simp [hd]))) rfl
  agentAttempt x h := h.agentAttempt x
  grantHead w h hd := h.grantHead w _ hd
  grants w h := h.grants w
  endPhrase w ts y c t h := h.endPhrase w ts y c t
  completeExit l y h := h.completeExit l y
  takeHeldListen l y h := h.takeHeldListen l y
  attemptStage l h := h.attemptStage l
  loseSwitchingLink l w h := h.loseSwitchingLink l w

end

/-- Settles O8: the agreement of the records holds at every point inside an event, but for the agents that the event has still to
settle and the calls that it has still to place. -/
theorem recordsAgreeKept : Obligations.RecordsAgreeKept := fun s t h hs => by
  have keeps : Keeps (State.Consistent False nobody nobody) State.RecordsAgree :=
    keeps_consistent (fun h => h.recordsAgree) fun h => { h.recordsAgree with }
  exact keeps.step (h.consistent False.elim False.elim) hs

/-- Settles O9: every operation puts an agent or a call into its list where the list's order wants it, as long as the ticks are
recent; the tick count itself rises only after the expiries. -/
theorem ordersStaySorted : Obligations.OrdersStaySorted := fun s t h recent inOrder hs => by
  have keeps : Keeps (State.Consistent True nobody nobody) State.OrdersSorted :=
    keeps_consistent (fun h => h.inOrder trivial) fun h => h.inOrder trivial
  exact keeps.step (h.consistent (fun _ => recent) fun _ => inOrder) hs

end Sys2Proof.Machine
end

section
/-!
PROOF. The state after power-on reset (O3, O4).
-/
namespace Sys2Proof.Machine

open Sys2Proof

/-- The state after power-on reset, with the commands that wait outside the part. -/
def State.resetWith (cs : List Instr) : State := { State.reset with pending := cs }

theorem exec_powerOnReset (s : State) : exec .powerOnReset s = .next (State.resetWith s.pending) := rfl

/-- Settles O3: the record of each block after power-on reset is the literal one of its chapter. -/
theorem powerOnResetLeavesResetState : Obligations.PowerOnResetLeavesResetState := by
  intro s
  refine ⟨State.resetWith s.pending, exec_powerOnReset s, rfl, rfl, rfl, rfl, rfl, fun l => ?_, fun _ => ⟨rfl, rfl⟩, rfl,
    fun _ => rfl, fun _ => ⟨rfl, rfl, rfl, rfl, rfl, rfl⟩, rfl, rfl, fun b _ => ?_, rfl, rfl, fun b => ?_, fun _ => rfl,
    fun _ => rfl, fun _ => rfl, fun _ => rfl, fun h _ => ?_, fun h => ?_, rfl, rfl⟩
  · cases l <;> exact ⟨rfl, rfl, rfl, rfl, rfl, rfl, rfl, rfl, rfl, rfl, rfl⟩
  · cases b <;> rfl
  · cases b <;> rfl
  · cases h <;> rfl
  · cases h <;> rfl

/-! ## The promises of the steps, after reset -/

theorem State.reset_queue (q : Nat) : State.reset.queue q = Queue.powerOn := rfl

theorem State.reset_agent (x : Nat) : State.reset.agent x = Agent.reset := rfl

theorem State.reset_pattern (b : Bank) (p : Nat) : State.reset.pattern b p = [] := by cases b <;> rfl

theorem State.reset_refs (b : Bank) : State.reset.refs b = 0 := by cases b <;> rfl

/-- After reset every link is DOWN, and nothing is queued or reserved on it. -/
theorem State.reset_link (l : Link) : (State.reset.link l).up = false ∧ (State.reset.link l).inbound = []
    ∧ (State.reset.link l).outbound = [] ∧ (State.reset.link l).reserved = 0 := by
  cases l <;> exact ⟨rfl, rfl, rfl, rfl⟩

theorem State.reset_highway (h : Highway) : State.reset.highway h = HighwayRec.powerOn := by cases h <;> rfl

theorem State.reset_consistent {sorted : Prop} : State.reset.Consistent sorted nobody nobody := .empty rfl rfl rfl fun _ => rfl

theorem State.reset_tablesRising : State.reset.TablesRising :=
  ⟨rfl, rfl, rfl, rfl, rfl, rfl, rfl, rfl, fun h => by rw [State.reset_highway]; rfl⟩

theorem State.reset_linksBounded : State.reset.LinksBounded := fun l => by
  obtain ⟨up, inbound, outbound, reserved⟩ := State.reset_link l
  refine ⟨⟨?_, fun _ => ⟨outbound, reserved⟩⟩, ?_, ?_, fun _ => inbound⟩
  · simp [LinkRec.noticeCount, outbound, reserved]
  · simp [inbound]
  · simp [LinkRec.replyCount, outbound]

theorem State.reset_onTime : State.reset.OnTime where
  deadlines d hd := by
    rcases hd with ⟨y, c, o, hc, -⟩ | ⟨y, c, hc, -⟩ | ⟨y, c, t, hc, -⟩ | ⟨y, c, h, e, hc, -⟩ | ⟨x, w, hw, -⟩ | ⟨x, hx⟩
    · cases hc
    · cases hc
    · cases hc
    · cases hc
    · cases hw
    · cases hx
  durations :=
    { queues := fun q => by rw [State.reset_queue]; decide
      penalties := fun x => by rw [State.reset_agent]; decide
      deferLimit := by decide
      music := fun b p n d h => by simp [State.reset_pattern] at h
      silence := fun b p d h => by simp [State.reset_pattern] at h }
  extensions x w hw := by cases hw
  aging y c hc := by cases hc
  exiting y c hc := by cases hc
  deferred h e he := by simp [State.reset_highway, HighwayRec.powerOn] at he
  boundary h := by cases h

/-- Settles O4: every table is empty, every link DOWN, and every queue and bank at its power-on record. -/
theorem resetMeetsPromises : Obligations.ResetMeetsPromises := by
  have records : State.reset.RecordsAgree := (State.reset_consistent (sorted := False)).recordsAgree
  refine ⟨rfl, State.reset_tablesRising, records.available, ?_, ?_, State.reset_linksBounded, ?_, ?_, ?_, records,
    (State.reset_consistent (sorted := True)).recent trivial, (State.reset_consistent (sorted := True)).inOrder trivial,
    ?_, ?_, ?_, ?_, ?_, State.reset_onTime⟩
  · intro b hb; cases hb
  · exact ⟨by decide, List.nodup_nil, fun r hr => by cases hr⟩
  · intro y c hc; cases hc
  · exact ⟨rfl, fun _ => List.nodup_nil, fun _ => rfl⟩
  · exact fun q => State.reset_queue q ▸ (by unfold Queue.HandleInRange; decide)
  · intro b; rw [State.reset_refs]; rfl
  · intro l; rw [(State.reset_link l).2.2.2]; rfl
  · refine ⟨fun _ => rfl, fun h ts hp => ?_⟩
    have free : State.reset.channel h ts = Channel.free := by cases h <;> rfl
    rw [free] at hp; cases hp
  · exact fun l _ => ⟨fun x hx => (by cases hx), fun y c hc => (by cases hc)⟩
  · intro q _ z hz; simp [State.reset_queue, Queue.powerOn, QueueConfig.emptyQueue] at hz

end Sys2Proof.Machine
end

section
/-!
PROOF. An event whose condition does not hold changes nothing (O17).
-/
namespace Sys2Proof.Machine

open Sys2Proof

section
variable {s : State} {l : Link}

theorem next_eq {s t : State} (h : s = t) : (.next s : Host.Outcome State Fault Refusal) = .next t := congrArg _ h

/-! ## Requests that another command takes -/

theorem ofKind_eq (kind : Byte) (r : Request) : ofKind kind r = (r.kind.toNat == kind.toNat) := by
  rw [ofKind, Bool.eq_iff_iff, decide_eq_true_iff, beq_iff_eq]
  exact BitVec.toNat_inj.symm

/-- A request command of a link does nothing where the request taken next is none of its own. -/
theorem exec_other {c : Instr} {mine : Request → Bool} {serve : Request → Ev → Ev}
    (h : ∀ r, s.Taking l r → c.takes l r = false) (runs : exec c s = .next (takeRequest s l mine serve))
    (own : ∀ r, mine r = c.takes l r) : exec c s = .next s := by
  rw [runs, takeRequest_of_other fun r hr => (own r).trans (h r hr)]

theorem ofForce_eq (a : ForceAction) (r : Request) : ofForce a r = (r.kind.toNat == 0x0D
    && match a with
      | .logout => u8 r.body 2 != 2 && u8 r.body 2 != 3
      | .notReady => u8 r.body 2 == 2
      | .logoutNow => u8 r.body 2 == 3) := by
  rw [ofForce, ofKind_eq]
  congr 1
  generalize u8 r.body 2 = n
  unfold forceAction?
  cases a
  all_goals
    dsimp only
    split_ifs <;> simp_all

theorem ofControl_eq (a : ProgrammeAction) (r : Request) : ofControl a r = (r.kind.toNat == 0x15
    && match a with
      | .run => u8 r.body 1 != 2 && u8 r.body 1 != 3
      | .pause => u8 r.body 1 == 2
      | .stop => u8 r.body 1 == 3) := by
  rw [ofControl, ofKind_eq]
  congr 1
  generalize u8 r.body 1 = n
  unfold programmeAction?
  cases a
  all_goals
    dsimp only
    split_ifs <;> simp_all

theorem ofAnswer_eq (b : Bool) (r : Request) :
    ofAnswer b r = (r.kind.toNat == 0x0B && if b then u8 r.body 4 != 2 else u8 r.body 4 == 2) := by
  rw [ofAnswer, ofKind_eq]
  congr 1
  generalize u8 r.body 4 = n
  unfold answer?
  cases b
  all_goals split_ifs <;> simp_all

/-- A request command whose request is not the one the part takes next from its link (R177). -/
theorem exec_request_other {c : Instr} (own : ∃ r, c.takes l r = true) (h : ∀ r, s.Taking l r → c.takes l r = false) :
    exec c s = .next s := by
  obtain ⟨r, hr⟩ := own
  cases c
  case forceLogout k | forceNotReady k | forceLogoutNow k =>
    obtain rfl : k = l := by simp [Instr.takes] at hr; tauto
    exact exec_other h rfl fun r => by simp [Instr.takes, ofForce_eq, u8, Bool.and_assoc]
  case run k | pause k | stop k =>
    obtain rfl : k = l := by simp [Instr.takes] at hr; tauto
    exact exec_other h rfl fun r => by simp [Instr.takes, ofControl_eq, u8, Bool.and_assoc]
  case accept k | decline k =>
    obtain rfl : k = l := by simp [Instr.takes] at hr; tauto
    exact exec_other h rfl fun r => by simp [Instr.takes, ofAnswer_eq, u8]
  case unknownKindRequest k =>
    obtain rfl : k = l := by simp [Instr.takes] at hr; tauto
    exact exec_other h rfl fun r => by
      rw [Bool.eq_iff_iff]
      simp [Instr.takes, ofUnknownKind]
  case frameReceived | transmissionComplete | linkDown | linkUp | powerOnReset | ringExpiry | promotionDeadline
      | stepDeadline | deferralExpiry | wrapDeadline | penaltyExpiry | blockBoundary | phraseEnd | pendingExitCompletion
      | heldSourceQueued | heldReturnQueued | deferralGrant | freedSpaceAttempts | tick | playoutFrame =>
    simp [Instr.takes] at hr
  all_goals
    rename_i k
    obtain rfl : k = l := by simp [Instr.takes] at hr; exact hr.1
    exact exec_other h rfl fun r => by simp [Instr.takes, ofKind_eq]

/-! ## Deadlines that are absent or not reached -/

theorem Tick.not_reached {now deadline : Tick} (h : (now - deadline).toInt < 0) : Tick.reached now deadline = false := by
  rw [Tick.reached, decide_eq_false_iff_not]
  omega

theorem State.takeRingExpiry_early {y : Nat}
    (h : ∀ c o, s.call? y = some c → c.offer = some o → (s.tick - o.deadline).toInt < 0) : s.takeRingExpiry y = s := by
  unfold State.takeRingExpiry
  split
  · rfl
  · rename_i c hc
    split
    · rfl
    · rename_i o ho
      simp [Tick.not_reached (h c o hc ho)]

theorem State.takePromotionDeadline_early {y : Nat}
    (h : ∀ c d, s.call? y = some c → c.promotion = some d → (s.tick - d).toInt < 0) : s.takePromotionDeadline y = s := by
  unfold State.takePromotionDeadline
  split
  · rfl
  · rename_i c hc
    split
    · rfl
    · rename_i d hd
      simp [Tick.not_reached (h c d hc hd)]

theorem State.takeStepDeadline_early {y : Nat}
    (h : ∀ c t d, s.call? y = some c → c.treatment = some t → t.deadline = some d → (s.tick - d).toInt < 0) :
    s.takeStepDeadline y = s := by
  unfold State.takeStepDeadline
  split
  · rfl
  · rename_i t ht
    obtain ⟨c, hc, hct⟩ := Option.bind_eq_some_iff.1 ht
    split
    · rfl
    · rename_i d hd
      simp [Tick.not_reached (h c t d hc hct hd)]

theorem State.takeWrapDeadline_early {x : Nat} (h : ∀ w, (s.agent x).wrap = some w → (s.tick - w.deadline).toInt < 0) :
    s.takeWrapDeadline x = s := by
  unfold State.takeWrapDeadline
  split
  · rfl
  · rename_i w hw
    simp [Tick.not_reached (h w hw)]

theorem State.takePenaltyExpiry_early {x : Nat} (h : ∀ d, (s.agent x).penaltyDeadline = some d → (s.tick - d).toInt < 0) :
    s.takePenaltyExpiry x = s := by
  unfold State.takePenaltyExpiry
  split
  · rfl
  · rename_i d hd
    simp [Tick.not_reached (h d hd)]

theorem State.takeDeferralExpiry_early {y : Nat} (h : ∀ c w e, s.call? y = some c → c.owner.highway? = some w →
    (s.highway w).deferral.find? (fun e => e.call == y) = some e → (s.tick - e.deadline).toInt < 0) :
    s.takeDeferralExpiry y = s := by
  unfold State.takeDeferralExpiry
  split
  · rfl
  · rename_i c hc
    split
    · rfl
    · rename_i w hw
      split
      · rfl
      · rename_i e he
        simp [Tick.not_reached (h c w e hc hw he)]

/-! ## Links and the playout clock -/

theorem exec_transmissionComplete_idle (h : (s.link l).up = false ∨ (s.link l).outbound = []) :
    exec (.transmissionComplete l) s = .next s := by
  refine next_eq ?_
  split
  · rename_i hu ho
    simp [hu, ho] at h
  · rfl

theorem exec_frameReceived_down (bytes : List Byte) (h : (s.link l).up = false) :
    exec (.frameReceived l bytes) s = .next s := next_eq (if_neg (by simp [h]))

theorem exec_linkDown_down (h : (s.link l).up = false) : exec (.linkDown l) s = .next s :=
  next_eq (if_neg (by simp [h]))

theorem exec_linkUp_up (h : (s.link l).up = true) : exec (.linkUp l) s = .next s := next_eq (if_pos h)

theorem exec_phraseEnd_early {w : Highway} {ts : Nat} (h : (s.channel w ts).state ≠ .playing
    ∨ ∃ phrase, (s.channel w ts).phrase = some phrase ∧ (s.channel w ts).segIndex < phrase.length) :
    exec (.phraseEnd w ts) s = .next s := by
  refine next_eq ?_
  unfold State.takePhraseEnd
  dsimp only
  split
  · rename_i hs _
    obtain ⟨phrase, hp, hi⟩ := h.resolve_left fun hn => hn hs
    have : (s.channel w ts).phraseDone = false := by simp [Channel.phraseDone, hp, hi]
    simp [this]
  · rfl

/-! ## The units of the work that waits for notice space -/

theorem exec_pendingExit_idle (h : s.freeNotices l = 0 ∨ (s.link l).exitOrder = []) :
    exec (.pendingExitCompletion l) s = .next s := by
  refine next_eq ?_
  split
  · rename_i ho
    simp [ho] at h
    simp [h]
  · rfl

theorem State.nextHeld_none (h : s.freeNotices l = 0 ∨ (s.link l).exitOrder ≠ [] ∨ (s.link l).listenOrder = []) :
    s.nextHeld l = none := by
  unfold State.nextHeld
  split
  · rename_i he hl
    simp [he, hl] at h
    simp [h]
  · rfl

theorem exec_heldSource_other (h : ∀ y source, s.nextHeld l ≠ some (y, .sourceChange source)) :
    exec (.heldSourceQueued l) s = .next s := by
  refine next_eq ?_
  split
  · rename_i hn; exact absurd hn (h _ _)
  · rfl

theorem exec_heldReturn_other (h : ∀ y w ts, s.nextHeld l ≠ some (y, .phraseReturn w ts)) :
    exec (.heldReturnQueued l) s = .next s := by
  refine next_eq ?_
  split
  · rename_i hn; exact absurd hn (h _ _ _)
  · rfl

/-- What a held LISTEN at the head of its link's order is told by: a held source, or none (R129, R159). -/
theorem State.nextHeld_of {y z : Nat} {later : List Nat} {c : Call} {t : Treatment} {k : HeldListen}
    (hl : (s.link l).listenOrder = y :: later) (hc : s.call? y = some c) (ht : c.treatment = some t)
    (hn : s.nextHeld l = some (z, k)) : s.heldListen y c t = some k := by
  unfold State.nextHeld at hn
  split at hn
  · rename_i hl'
    rw [hl] at hl'
    obtain ⟨rfl, -⟩ := List.cons.inj hl'
    split at hn
    · simp only [hc, ht, Option.bind_some] at hn
      obtain ⟨k', hk, heq⟩ := Option.map_eq_some_iff.1 hn
      cases heq
      exact hk
    · cases hn
  · cases hn

/-- No timeslot is free where no personal channel is FREE. -/
theorem State.freeTimeslot_none {w : Highway} (h : ∀ ts, 8 ≤ ts → ts < 128 → (s.channel w ts).state ≠ .free) :
    s.freeTimeslot w = none := by
  have search : ∀ n ts, 8 ≤ ts → ts + n ≤ 128 → s.freeFrom w n ts = none := by
    intro n
    induction n with
    | zero => exact fun _ _ _ => rfl
    | succ n ih =>
      intro ts low high
      rw [State.freeFrom, if_neg (h ts low (by omega))]
      exact ih (ts + 1) (by omega) (by omega)
  exact search 120 8 (by omega) (by omega)

theorem Link.highway_link {w : Highway} (h : l.highway? = some w) : w.link = l := by
  cases l <;> cases h <;> rfl

theorem exec_deferralGrant_idle {w : Highway} (hw : l.highway? = some w)
    (h : s.freeNotices l = 0 ∨ (s.link l).exitOrder ≠ [] ∨ (s.link l).listenOrder ≠ [] ∨ (s.highway w).deferral = []
      ∨ ∀ ts, 8 ≤ ts → ts < 128 → (s.channel w ts).state ≠ .free) : exec (.deferralGrant w) s = .next s := by
  refine next_eq ?_
  rw [Link.highway_link hw]
  split
  · rename_i hn
    simp only [State.noEarlierWork, Bool.and_eq_true, decide_eq_true_eq] at hn
    have none' : s.event.grantHead w = none := by
      unfold Ev.grantHead
      split
      · rename_i hd ht
        rcases h with h | h | h | h | h
        · simp [Link.highway_link hw, State.event, h]
        · exact absurd hn.1 h
        · exact absurd hn.2 h
        · simp [State.event, h] at hd
        · have := State.freeTimeslot_none h
          simp [State.event, this] at ht
      · rfl
    simp [none']
  · rfl

theorem State.event_finish (s : State) : s.event.finish = s := Ev.finish_quiet rfl rfl rfl

/-- Without a free notice entry, freed space calls for no attempt (R60). -/
theorem Ev.attemptStage_full {e : Ev} (h : e.st.freeNotices l = 0) : e.attemptStage l = e := by
  have loop : ∀ qs : List Nat,
      qs.foldl (fun e q => if 0 < e.st.freeNotices l ∧ e.st.hasWaiting q = true then e.queueAttempts q else e) e = e := by
    intro qs
    induction qs with
    | nil => rfl
    | cons q qs ih => rw [List.foldl_cons, if_neg (by simp [h]), ih]
  exact loop _

theorem exec_freedSpace_idle (h : l = .s ∨ s.freeNotices l = 0 ∨ (s.link l).exitOrder ≠ [] ∨ (s.link l).listenOrder ≠ []
      ∨ ∃ w, l.highway? = some w ∧ exec (.deferralGrant w) s ≠ .next s) :
    exec (.freedSpaceAttempts l) s = .next s := by
  refine next_eq ?_
  split
  · rename_i w hw
    split
    · rename_i hn
      obtain ⟨earlier, grant⟩ := hn
      have work := earlier
      simp only [State.noEarlierWork, Bool.and_eq_true, decide_eq_true_eq] at work
      rcases h with h | h | h | h | ⟨w', hw', h⟩
      · subst h; cases hw
      · rw [Ev.attemptStage_full h, State.event_finish]
      · exact absurd work.1 h
      · exact absurd work.2 h
      · rw [hw] at hw'
        cases hw'
        refine absurd (next_eq ?_) h
        rw [Option.isNone_iff_eq_none] at grant
        rw [Link.highway_link hw, earlier, grant]
        rfl
    · rfl
  · rfl

end

/-- Settles O17: each command begins with the test of its own condition, and answers the state it was given where that fails. -/
theorem eventsThatCannotAriseChangeNothing : Obligations.EventsThatCannotAriseChangeNothing := by
  refine ⟨fun c l s own h => exec_request_other own h, fun s y h => next_eq (State.takeRingExpiry_early h),
    fun s y h => next_eq (State.takePromotionDeadline_early h), fun s y h => next_eq (State.takeStepDeadline_early h),
    fun s x h => next_eq (State.takeWrapDeadline_early h), fun s x h => next_eq (State.takePenaltyExpiry_early h),
    fun s l h => exec_transmissionComplete_idle h, fun s l bytes h => ⟨exec_frameReceived_down bytes h, exec_linkDown_down h⟩,
    fun s l h => exec_linkUp_up h, fun s y h => next_eq (State.takeDeferralExpiry_early h),
    fun s h => next_eq (if_neg (by simp [h])), fun s w ts h => exec_phraseEnd_early h, fun s l => ?_⟩
  refine ⟨exec_pendingExit_idle, fun h => ?_, fun y later c t hl hc ht => ⟨fun hs => ?_, fun hs => ?_⟩,
    fun w hw h => exec_deferralGrant_idle hw h, exec_freedSpace_idle⟩
  · have none' := State.nextHeld_none h
    exact ⟨exec_heldSource_other (by simp [none']), exec_heldReturn_other (by simp [none'])⟩
  · refine exec_heldSource_other fun z source hn => ?_
    have held := State.nextHeld_of hl hc ht hn
    simp only [State.heldListen, hs] at held
    split at held
    · split at held
      · cases held
      · simp at held
    · cases held
  · refine exec_heldReturn_other fun z w ts hn => ?_
    have held := State.nextHeld_of hl hc ht hn
    obtain ⟨source, hsource⟩ := Option.ne_none_iff_exists'.1 hs
    simp [State.heldListen, hsource] at held

end Sys2Proof.Machine
end

section
/-!
PROOF. The events of agents as updates of the state: the replies, the records put in place, the offers made, and the notices that
go out at the end of the event.
-/
namespace Sys2Proof.Machine

open Sys2Proof

section
variable {s t : State} {e : Ev}

/-! ## The notices of an event -/

/-- What the reports of agents look at beside the records: the enables of the links and the tick count. -/
structure State.SameReporting (s t : State) : Prop where
  enables : ∀ l, (t.link l).enables = (s.link l).enables
  tick : t.tick = s.tick

theorem State.SameReporting.trans {u : State} (h : s.SameReporting t) (k : t.SameReporting u) : s.SameReporting u :=
  ⟨fun l => (k.enables l).trans (h.enables l), k.tick.trans h.tick⟩

theorem Engine.reporting (h : Engine s t) : s.SameReporting t :=
  ⟨fun l => congrArg (fun p => p.2.2.2.2.1) (h.port l), h.tick⟩

/-- The AGENT_STATE of a change, as the event keeps it until its end (R171). -/
def State.report (s : State) (x : Nat) (old new : Agent) (cause : Cause) : List Offered :=
  if old.reported new then
    [{ dests := s.agentStateLinks old.home cause
       notice := .agentState x new.id new.state old.state new.reason new.pending cause s.tick }]
  else []

theorem State.SameReporting.report (k : s.SameReporting t) (x : Nat) (old new : Agent) (cause : Cause) :
    t.report x old new cause = s.report x old new cause := by
  simp only [State.report, State.agentStateLinks, k.enables, k.tick]

theorem State.SameReporting.agentReport_condition (old new : Agent) :
    (old.reported new = true) ↔ (old.state ≠ new.state ∨ (new.state = .notReady ∧ old.reason ≠ new.reason)) := by
  simp [Agent.reported]

/-- The notices of an event, given out in their order. -/
def State.delivered (s : State) (os : List Offered) : State := os.foldl (fun s o => s.told o.dests o.notice) s

theorem State.delivered_append (s : State) (os ps : List Offered) :
    s.delivered (os ++ ps) = (s.delivered os).delivered ps := List.foldl_append

theorem State.agentReport_eq (s : State) (x : Nat) (old new : Agent) (cause : Cause) :
    s.agentReport x old new cause = s.delivered (s.report x old new cause) := by
  unfold State.agentReport State.report
  by_cases h : old.reported new = true
  · rw [if_pos ((State.SameReporting.agentReport_condition old new).1 h), if_pos h]
    rfl
  · rw [if_neg (mt (State.SameReporting.agentReport_condition old new).2 h), if_neg h]
    rfl

theorem LinkRec.told_enables (r : LinkRec) (n : Notice) : (r.told n).enables = r.enables := by
  unfold LinkRec.told
  split
  · rfl
  · split <;> rfl

theorem State.told_reporting (s : State) (ls : List Link) (n : Notice) : s.SameReporting (s.told ls n) := by
  induction ls generalizing s with
  | nil => exact ⟨fun _ => rfl, rfl⟩
  | cons l ls ih =>
    refine State.SameReporting.trans ⟨fun k => ?_, by simp⟩ (ih _)
    rw [State.link_setLink]
    split
    · rename_i hk; rw [← hk, LinkRec.told_enables]
    · rfl

theorem State.delivered_reporting (s : State) (os : List Offered) : s.SameReporting (s.delivered os) := by
  induction os generalizing s with
  | nil => exact ⟨fun _ => rfl, rfl⟩
  | cons o os ih => exact (s.told_reporting _ _).trans (ih _)

/-- An event has freed no notice space and has called for no notice yet. -/
structure Ev.Quiet (e : Ev) : Prop where
  offered : e.offered = []
  freedA : e.freedA = false
  freedB : e.freedB = false

theorem Ev.Quiet.reply (h : e.Quiet) (l : Link) (r : Request) (status : Status) (result : Result) :
    (e.reply l r status result).Quiet := ⟨h.offered, h.freedA, h.freedB⟩

theorem Ev.Quiet.upd (h : e.Quiet) (f : State → State) : (e.upd f).Quiet := ⟨h.offered, h.freedA, h.freedB⟩

theorem State.takeHead_quiet (s : State) (l : Link) : (s.takeHead l).Quiet := ⟨rfl, rfl, rfl⟩

theorem State.event_quiet (s : State) : s.event.Quiet := ⟨rfl, rfl, rfl⟩

theorem Ev.Quiet.finish (h : e.Quiet) : e.finish = e.st := Ev.finish_quiet h.freedA h.freedB h.offered

/-- An event that has been quiet, but for the notices it calls for, ends with them. -/
theorem Ev.Quiet.finish_offered (h : e.Quiet) (u : State) (os : List Offered) :
    Ev.finish { e with st := u, offered := e.offered ++ os } = u.delivered os := by
  rw [Ev.finish_unfreed (e := { e with st := u, offered := e.offered ++ os }) h.freedA h.freedB, h.offered]
  rfl

/-! ## Requests that are served -/

theorem State.Served.mine {l : Link} {r : Request} {kind : Byte} {cls : RequestClass} (h : s.Served l r kind cls) :
    ofKind kind r = true := by simp [ofKind, h.isKind]

/-- A request that its link may make, with a body that reads, is served by its own rule (R177). -/
theorem State.Served.serves {l : Link} {r : Request} {kind : Byte} {cls : RequestClass} (h : s.Served l r kind cls)
    {c : Instr} {mine : Request → Bool} {α : Type} {read : List Byte → Option α} {result : Ev → Result}
    {serve : Request → Ev → α → Ev} {b : α} (own : mine r = true) (hb : read r.body = some b)
    (runs : exec c s = .next (takeRequest s l mine fun r e => e.checked l r cls read (result e) (serve r e))) :
    exec c s = .next (serve r (s.takeHead l) b).finish := by
  rw [runs, takeRequest_of_taking h.toTaking own,
    Ev.checked_of (by rw [State.takeHead_permissions]; exact h.permitted) hb]

/-- A request answered, and nothing else. -/
theorem State.takeHead_reply_finish (s : State) (l : Link) (r : Request) (status : Status) (result : Result) :
    ((s.takeHead l).reply l r status result).finish = s.answered l r status result := by
  rw [((s.takeHead_quiet l).reply l r status result).finish, State.takeHead_reply]

/-- A request answered, and one update. -/
theorem State.takeHead_reply_upd_finish (s : State) (l : Link) (r : Request) (status : Status) (result : Result)
    (f : State → State) : (((s.takeHead l).reply l r status result).upd f).finish = f (s.answered l r status result) := by
  rw [(((s.takeHead_quiet l).reply l r status result).upd f).finish, Ev.upd_st, State.takeHead_reply]

/-! ## Agents put in place -/

theorem State.reweigh_frame (s : State) (old new : Agent) :
    (s.reweigh old new).SameReporting s ∧ (s.reweigh old new).available = s.available := by
  have k := s.reweigh_weightsOnly old new
  exact ⟨⟨fun l => by rw [k.link], k.engine.tick.symm⟩, k.availableEq⟩

/-- The available list after a change of an agent's record, where the agent does not join its tail. -/
def State.availableWith (s : State) (x : Nat) (new : Agent) : List Nat :=
  if new.state = .available then s.available else s.available.filter (· != x)

/-- An agent's record put in place, as an update of the state and a report (R3, R8, R102, R171). -/
theorem Ev.putAgent_eq (e : Ev) (x : Nat) (new : Agent) (cause : Cause) :
    e.putAgent x new cause = { e with
      st := e.st.settled x new (e.st.availableWith x new)
      offered := e.offered ++ e.st.report x (e.st.agent x) new cause } := by
  have av : ((e.st.setAgent x new).reweigh (e.st.agent x) new).available = e.st.available := by
    rw [(State.reweigh_frame _ _ _).2, State.setAgent_available]
  have rep : ∀ ls, State.report { (e.st.setAgent x new).reweigh (e.st.agent x) new with available := ls } x (e.st.agent x) new cause
      = e.st.report x (e.st.agent x) new cause := fun ls => by
    have k := ((e.st.setAgent x new).reweigh_frame (e.st.agent x) new).1
    refine State.SameReporting.report (s := e.st) ⟨fun l => ?_, ?_⟩ _ _ _ _
    · exact ((k.enables l).symm.trans (by simp))
    · exact (k.tick.symm.trans (by simp))
  have reported : ∀ d : Ev, d.reportAgent x (e.st.agent x) new cause
      = { d with offered := d.offered ++ d.st.report x (e.st.agent x) new cause } := fun d => by
    unfold Ev.reportAgent State.report
    split
    · rfl
    · simp
  unfold Ev.putAgent
  dsimp only
  rw [reported]
  unfold State.settled State.availableWith
  split
  · rw [← rep e.st.available]
    simp only [Ev.upd, ← av]
  · rw [← rep (e.st.available.filter (· != x))]
    simp only [Ev.upd, dropSlot, av]

@[simp] theorem State.settled_link (s : State) (x : Nat) (new : Agent) (ls : List Nat) (l : Link) :
    (s.settled x new ls).link l = s.link l :=
  (((s.setAgent x new).reweigh_weightsOnly (s.agent x) new).link l).trans (State.setAgent_link _ _ _ _)

theorem State.settled_reporting (s : State) (x : Nat) (new : Agent) (ls : List Nat) : s.SameReporting (s.settled x new ls) := by
  have k := ((s.setAgent x new).reweigh_frame (s.agent x) new).1
  exact ⟨fun l => (k.enables l).symm.trans (by simp), k.tick.symm.trans (by simp)⟩

theorem Ev.Quiet.putAgent (h : e.Quiet) (x : Nat) (new : Agent) (cause : Cause) :
    (e.putAgent x new cause).finish
      = (e.st.settled x new (e.st.availableWith x new)).agentReport x (e.st.agent x) new cause := by
  rw [Ev.putAgent_eq, h.finish_offered, State.agentReport_eq, (State.settled_reporting _ _ _ _).report]

/-- An agent's record replaced by one that is not AVAILABLE, at the end of the event (R3, R8). -/
theorem Ev.Quiet.agentOut (h : e.Quiet) (x : Nat) (new : Agent) (cause : Cause) (hn : new.state ≠ .available) :
    (e.putAgent x new cause).finish = e.st.agentOut x new cause := by
  rw [h.putAgent, State.availableWith, if_neg hn]
  rfl

/-- A logout completed at the end of the event (R18, R66). -/
theorem Ev.Quiet.agentLogsOut (h : e.Quiet) (x : Nat) (cause : Cause) :
    (e.completeLogout x cause).finish = e.st.agentLogsOut x cause :=
  (h.upd fun s => { s with recent := s.recent.filter fun r => r.agent != x }).agentOut x (e.st.agent x).loggedOut cause
    (by simp [Agent.loggedOut])

/-- An agent at the tail of the available list, as an update of the state and a report (R7). -/
theorem Ev.putAgentAtTail_eq (e : Ev) (x : Nat) (new : Agent) (cause : Cause) (hn : new.state = .available) :
    e.putAgentAtTail x new cause = { e with
      st := e.st.settled x new (e.st.available.filter (· != x) ++ [x])
      offered := e.offered ++ e.st.report x (e.st.agent x) new cause } := by
  unfold Ev.putAgentAtTail
  dsimp only
  rw [if_pos hn, Ev.putAgent_eq, State.availableWith, if_pos hn]
  rfl

/-! ## Offers made -/

/-- What an offer takes on the links (R57, R68). -/
theorem Ev.offerEntries_eq (e : Ev) {h owner : Link} (n : Notice)
    (free : if h = owner then 3 ≤ e.st.freeNotices h else 2 ≤ e.st.freeNotices h ∧ 1 ≤ e.st.freeNotices owner) :
    ((e.queueNotice h n).reserve h).reserve owner = e.upd fun s =>
      let s := s.setLink h { s.link h with outbound := (s.link h).outbound ++ [.notice n], reserved := (s.link h).reserved + 1 }
      s.setLink owner { s.link owner with reserved := (s.link owner).reserved + 1 } := by
  have count : ∀ r : LinkRec, r.up = true →
      LinkRec.freeNotices { r with outbound := r.outbound ++ [.notice n] } = r.freeNotices - 1
      ∧ LinkRec.freeNotices { r with outbound := r.outbound ++ [.notice n], reserved := r.reserved + 1 } = r.freeNotices - 2 :=
    fun r hr => by
      simp only [LinkRec.freeNotices, hr, if_true, LinkRec.noticeCount]
      simp [OutEntry.isNotice]
      omega
  have up : ∀ k, 0 < e.st.freeNotices k → (e.st.link k).up = true := fun k hk => by
    unfold State.freeNotices LinkRec.freeNotices at hk
    split at hk
    · assumption
    · cases hk
  have hfree : 2 ≤ e.st.freeNotices h := by
    split at free
    · omega
    · exact free.1
  obtain ⟨c1, c2⟩ := count _ (up h (by omega))
  have q : e.queueNotice h n = e.updLink h fun r => { r with outbound := r.outbound ++ [.notice n] } :=
    if_pos (by omega)
  have r1 : (e.queueNotice h n).reserve h = (e.queueNotice h n).updLink h fun r => { r with reserved := r.reserved + 1 } := by
    refine if_pos ?_
    rw [q]
    show 0 < ((e.st.setLink h _).link h).freeNotices
    rw [State.link_setLink, if_pos rfl, c1]
    change 2 ≤ (e.st.link h).freeNotices at hfree
    omega
  rw [r1, q]
  have twice : ((e.updLink h fun r => { r with outbound := r.outbound ++ [.notice n] }).updLink h
        fun r => { r with reserved := r.reserved + 1 })
      = e.updLink h fun r => { r with outbound := r.outbound ++ [.notice n], reserved := r.reserved + 1 } := by
    cases h <;> rfl
  rw [twice]
  refine if_pos ?_
  show 0 < ((e.st.setLink h _).link owner).freeNotices
  rw [State.link_setLink]
  split
  · rename_i ho
    rw [c2]
    rw [if_pos ho] at free
    change 3 ≤ (e.st.link h).freeNotices at free
    omega
  · rename_i ho
    rw [if_neg ho] at free
    exact free.2

theorem State.pairable_free {c : Call} {a : Agent} (h : s.pairable c a = true) : ∃ k, a.home = some k
    ∧ if k = c.owner then 3 ≤ s.freeNotices k else 2 ≤ s.freeNotices k ∧ 1 ≤ s.freeNotices c.owner := by
  unfold State.pairable at h
  split at h
  · cases h
  · rename_i k hk
    refine ⟨k, hk, ?_⟩
    split at h
    · rename_i ho; rw [if_pos ho]; simpa using h
    · rename_i ho; rw [if_neg ho]; simpa using h

/-- An offer made, as an update of the state and a report (R68). -/
theorem Ev.makeOffer_eq (e : Ev) (y : Nat) (c : Call) (x : Nat) (h : e.st.pairable c (e.st.agent x) = true) :
    e.makeOffer y c x = { e with
      st := e.st.offerMade y c x
      offered := e.offered ++ e.st.report x (e.st.agent x) ((e.st.agent x).offered (nextToken e.st.token) y) .offer } := by
  obtain ⟨k, hk, free⟩ := State.pairable_free h
  unfold Ev.makeOffer
  dsimp only
  rw [Ev.putAgent_eq, hk]
  dsimp only
  rw [Ev.offerEntries_eq]
  · unfold State.offerMade
    dsimp only
    rw [hk]
    rfl
  · have same : ∀ token a ls d l, (({ e.st with token := token }.settled x a ls).setCall y d).freeNotices l
        = e.st.freeNotices l := fun token a ls d l => by
      rw [State.freeNotices, State.setCall_link, State.settled_link]
      cases l <;> rfl
    simp only [Ev.upd_st, same]
    exact free

end

end Sys2Proof.Machine
end

section
/-!
PROOF. The requests of agents: the login (O32), the checks (O33), the changes to AVAILABLE and NOT_READY (O34, O35), the logout of an
agent without an offer (O36) and the update (O38).
-/
namespace Sys2Proof.Machine

open Sys2Proof

section
variable {s : State} {e : Ev}

/-! ## The attempt of an agent, at the end of an event (R61, R62) -/

@[simp] theorem State.settled_agent (s : State) (x : Nat) (new : Agent) (ls : List Nat) (z : Nat) :
    (s.settled x new ls).agent z = if x = z then new else s.agent z :=
  (((s.setAgent x new).reweigh_weightsOnly (s.agent x) new).agent z).trans (State.agent_setAgent _ _ _ _)

theorem State.takeHead_agent (s : State) (l : Link) (x : Nat) : (s.takeHead l).st.agent x = s.agent x :=
  (s.takeHead_same l).agent x

theorem State.answered_same (s : State) (l : Link) (r : Request) (status : Status) (result : Result) :
    s.SameRecords (s.answered l r status result) := .setLink _ _ _

theorem Ev.finish_mk {u : State} {os : List Offered} {a b : Bool} (ha : a = false) (hb : b = false) :
    Ev.finish { st := u, offered := os, freedA := a, freedB := b } = u.delivered os := Ev.finish_unfreed ha hb

/-- An event that ends with the attempt of an AVAILABLE agent. -/
theorem Ev.agentAttempt_finish (ha : e.freedA = false) (hb : e.freedB = false) {x : Nat}
    (hx : (e.st.agent x).state = .available) :
    (e.agentAttempt x).finish = match e.st.bestCall (e.st.agent x) with
      | none => e.st.delivered e.offered
      | some (y, c) => ((e.st.offerMade y c x).delivered e.offered).agentReport x (e.st.agent x)
          ((e.st.offerMade y c x).agent x) .offer := by
  unfold Ev.agentAttempt
  dsimp only
  rw [if_pos hx]
  cases hf : e.st.bestCall (e.st.agent x) with
  | none => exact Ev.finish_unfreed ha hb
  | some found =>
    obtain ⟨y, c⟩ := found
    obtain ⟨hc, -, pairable⟩ := e.st.bestCall_call _ hf
    have made := e.makeOffer_eq y c x pairable
    have engine := (e.makeOffer_engine y c x fun hb => hb y c hc).reporting
    have agent := (e.makeOffer_records y c x).1.agent x
    rw [made] at engine agent
    rw [if_pos rfl] at agent
    dsimp only at engine agent ⊢
    rw [made, State.agentReport_eq, (State.delivered_reporting _ _).report, engine.report, agent]
    rw [Ev.finish_mk ha hb, State.delivered_append]

/-- An agent becomes AVAILABLE at the tail of the available list, and its attempt is made (R7, R62). -/
theorem Ev.Quiet.agentJoins (h : e.Quiet) (x : Nat) (new : Agent) (cause : Cause) (hn : new.state = .available) :
    ((e.putAgentAtTail x new cause).agentAttempt x).finish = e.st.agentJoins x new cause := by
  rw [Ev.putAgentAtTail_eq e x new cause hn]
  have agent := e.st.settled_agent x new (e.st.available.filter (· != x) ++ [x]) x
  have reporting := e.st.settled_reporting x new (e.st.available.filter (· != x) ++ [x])
  rw [if_pos rfl] at agent
  unfold State.agentJoins
  dsimp only
  generalize e.st.settled x new (e.st.available.filter (· != x) ++ [x]) = m at agent reporting ⊢
  rw [Ev.agentAttempt_finish (e := { e with st := m, offered := e.offered ++ e.st.report x (e.st.agent x) new cause })
    h.freedA h.freedB (by rw [agent, hn])]
  dsimp only
  rw [agent, h.offered]
  cases hf : m.bestCall new with
  | none =>
    dsimp only
    rw [State.agentReport_eq, reporting.report]
    rfl
  | some found =>
    obtain ⟨y, c⟩ := found
    dsimp only
    obtain ⟨hc, -, pairable⟩ := m.bestCall_call _ hf
    have offered := (Ev.makeOffer_engine { st := m } y c x fun hb => hb y c hc).reporting
    rw [Ev.makeOffer_eq { st := m } y c x (by rw [agent]; exact pairable)] at offered
    rw [State.agentReport_eq (m.offerMade y c x), offered.report, reporting.report]
    rfl

/-! ## AGENT_LOGIN (R4, R10, R11) -/

/-- One skill of a list given is kept, unless its queue has been named before it (R10). -/
def keepSkill (kept : List Skill) (k : Skill) : List Skill :=
  if kept.any fun o => o.queue == k.queue then kept else { k with proficiency := clamp 1 15 k.proficiency } :: kept

theorem normalizeSkills_eq (ks : List Skill) : normalizeSkills ks = (ks.foldl keepSkill []).reverse := rfl

theorem normalizeSkills_concat (ks : List Skill) (k : Skill) :
    normalizeSkills (ks ++ [k]) = if k.queue ∈ (normalizeSkills ks).map (·.queue) then normalizeSkills ks
      else normalizeSkills ks ++ [{ k with proficiency := clamp 1 15 k.proficiency }] := by
  have named : ((ks.foldl keepSkill []).any fun o => o.queue == k.queue) = true
      ↔ k.queue ∈ (normalizeSkills ks).map (·.queue) := by simp [normalizeSkills_eq]
  rw [normalizeSkills_eq (ks ++ [k]), List.foldl_append, List.foldl_cons, List.foldl_nil, keepSkill]
  by_cases hk : k.queue ∈ (normalizeSkills ks).map (·.queue)
  · rw [if_pos hk, if_pos (named.2 hk), normalizeSkills_eq]
  · rw [if_neg hk, if_neg (mt named.1 hk), normalizeSkills_eq, List.reverse_cons]

theorem mem_normalizeSkills (given : List Skill) (q : Nat) :
    q ∈ (normalizeSkills given).map (·.queue) ↔ q ∈ given.map (·.queue) := by
  induction given using List.reverseRecOn with
  | nil => simp [normalizeSkills]
  | append_singleton ks k ih =>
    rw [normalizeSkills_concat, List.map_append, List.mem_append, ← ih]
    split
    · rename_i hk
      refine ⟨.inl, fun h => h.elim id fun hq => ?_⟩
      rw [List.map_singleton, List.mem_singleton] at hq
      exact hq ▸ hk
    · simp

/-- The skill list kept names each queue once. -/
theorem nodup_normalizeSkills (given : List Skill) : ((normalizeSkills given).map (·.queue)).Nodup := by
  induction given using List.reverseRecOn with
  | nil => simp [normalizeSkills]
  | append_singleton ks k ih =>
    rw [normalizeSkills_concat]
    split
    · exact ih
    · rename_i hk
      rw [List.map_append, List.nodup_append]
      refine ⟨ih, by simp, fun a ha b hb => ?_⟩
      rw [List.map_singleton, List.mem_singleton] at hb
      rintro rfl
      exact hk (hb ▸ ha)

/-- Each skill kept is the first given for its queue, with its proficiency brought into range. -/
theorem normalizeSkills_first (given : List Skill) : ∀ k ∈ normalizeSkills given,
    ∃ g, given.find? (fun x => x.queue == k.queue) = some g ∧ k.proficiency = max 1 (min 15 g.proficiency) := by
  induction given using List.reverseRecOn with
  | nil => simp [normalizeSkills]
  | append_singleton ks m ih =>
    have kept : ∀ k ∈ normalizeSkills ks, ∃ g, (ks ++ [m]).find? (fun x => x.queue == k.queue) = some g
        ∧ k.proficiency = max 1 (min 15 g.proficiency) := fun k hk => by
      obtain ⟨g, hg, hp⟩ := ih k hk
      exact ⟨g, by rw [List.find?_append, hg]; rfl, hp⟩
    rw [normalizeSkills_concat]
    split
    · exact kept
    · rename_i hm
      intro k hk
      rcases List.mem_append.1 hk with hk | hk
      · exact kept k hk
      · rw [List.mem_singleton] at hk
        subst hk
        refine ⟨m, ?_, rfl⟩
        have none' : ks.find? (fun x => x.queue == m.queue) = none := by
          rw [mem_normalizeSkills] at hm
          rw [List.find?_eq_none]
          intro x hx hq
          exact hm (List.mem_map.2 ⟨x, hx, beq_iff_eq.1 hq⟩)
        rw [List.find?_append, none']
        simp

/-- The skills kept stand in the order in which their queues were first given. -/
theorem normalizeSkills_order (given : List Skill) : (normalizeSkills given).Pairwise fun k m =>
    given.findIdx (fun x => x.queue == k.queue) < given.findIdx (fun x => x.queue == m.queue) := by
  have found : ∀ (ks : List Skill) (q : Nat), q ∈ ks.map (·.queue) → ks.findIdx (fun x => x.queue == q) < ks.length :=
    fun ks q hq => by
      obtain ⟨x, hx, rfl⟩ := List.mem_map.1 hq
      exact List.findIdx_lt_length_of_exists ⟨x, hx, by simp⟩
  induction given using List.reverseRecOn with
  | nil => simp [normalizeSkills]
  | append_singleton ks m ih =>
    have kept : ∀ k ∈ normalizeSkills ks, ks.findIdx (fun x => x.queue == k.queue) < ks.length
        ∧ (ks ++ [m]).findIdx (fun x => x.queue == k.queue) = ks.findIdx (fun x => x.queue == k.queue) := fun k hk => by
      have := found ks k.queue ((mem_normalizeSkills ks k.queue).1 (List.mem_map.2 ⟨k, hk, rfl⟩))
      exact ⟨this, by rw [List.findIdx_append, if_pos this]⟩
    have ih' : (normalizeSkills ks).Pairwise fun k n => (ks ++ [m]).findIdx (fun x => x.queue == k.queue)
        < (ks ++ [m]).findIdx (fun x => x.queue == n.queue) :=
      ih.imp_of_mem fun hk hn h => by rw [(kept _ hk).2, (kept _ hn).2]; exact h
    rw [normalizeSkills_concat]
    split
    · exact ih'
    · rename_i hm
      rw [List.pairwise_append]
      refine ⟨ih', by simp, fun k hk n hn => ?_⟩
      rw [List.mem_singleton] at hn
      subst hn
      have absent : ¬ks.findIdx (fun x => x.queue == m.queue) < ks.length := fun h => by
        rw [mem_normalizeSkills] at hm
        have := List.findIdx_getElem (w := h)
        exact hm (List.mem_map.2 ⟨_, List.getElem_mem h, beq_iff_eq.1 this⟩)
      rw [(kept k hk).2, List.findIdx_append, if_neg absent]
      have := (kept k hk).1
      omega

theorem skillsInRange_iff (ks : List Skill) : skillsInRange ks = true ↔ ∀ k ∈ ks, k.queue < 64 := by
  simp [skillsInRange, Config.queueCount]

theorem slotInRange_iff (x : Nat) : slotInRange x = true ↔ x < 1024 := by simp [slotInRange, Config.agentSlots]

/-- Settles O32: the login is served on the state without its request, and its skill list is built from the left. -/
theorem agentLoginMakesRecord : Obligations.AgentLoginMakesRecord := by
  refine ⟨fun l r s b h hb => ?_, fun given => ⟨nodup_normalizeSkills given, mem_normalizeSkills given,
    normalizeSkills_first given, normalizeSkills_order given⟩⟩
  have served : exec (.agentLogin l) s = .next ((s.takeHead l).serveLogin l r b).finish := 
    h.serves (serve := fun r e => e.serveLogin l r) h.mine hb rfl
  rw [served]
  unfold Ev.serveLogin
  dsimp only
  rw [State.takeHead_agent]
  refine ⟨fun out => ?_, fun hx hks => ?_⟩
  · rw [if_neg, State.takeHead_reply_finish]
    rw [Bool.and_eq_true, slotInRange_iff, skillsInRange_iff]
    rintro ⟨hx, hks⟩
    rcases out with out | ⟨k, hk, hq⟩
    · omega
    · have := hks k hk; omega
  · rw [if_pos (by rw [Bool.and_eq_true, slotInRange_iff, skillsInRange_iff]; exact ⟨hx, hks⟩)]
    refine ⟨fun hl => ?_, fun hl hs => ?_, fun hl hs => ?_⟩
    · rw [if_pos hl, State.takeHead_reply_finish]; rfl
    · rw [if_neg hl, if_neg hs, State.takeHead_reply_finish]; rfl
    · rw [if_neg hl, if_pos hs, ((s.takeHead_quiet l).reply l r _ _).agentOut _ _ _ (by simp [Agent.login]),
        State.takeHead_reply]
      rfl

end

end Sys2Proof.Machine
end

section
/-!
PROOF. The checks of the agent requests (O33), and what they do to an agent without an offer (O34, O35, O36, O38).
-/
namespace Sys2Proof.Machine

open Sys2Proof

section
variable {s : State} {l : Link} {r : Request}

/-! ## The checks (R4) -/

/-- A request of an agent's home link is served by this rule, after the checks of R4. -/
def State.ServesAgent (s : State) (c : Instr) (l : Link) (r : Request) (x : Nat) (serve : Agent → Ev) : Prop :=
  exec c s = .next ((s.takeHead l).forAgent l r x true serve).finish

theorem State.ServesAgent.noSuch {c : Instr} {x : Nat} {serve : Agent → Ev} (h : s.ServesAgent c l r x serve) (hx : 1024 ≤ x) :
    exec c s = .next (s.answered l r .noSuch .bare) := by
  have : slotInRange x = false := by simp [slotInRange, Config.agentSlots, hx]
  rw [h, Ev.forAgent, this]
  exact next_eq (State.takeHead_reply_finish _ _ _ _ _)

theorem State.ServesAgent.notOwner {c : Instr} {x : Nat} {serve : Agent → Ev} (h : s.ServesAgent c l r x serve) (hx : x < 1024)
    (hs : (s.agent x).state ≠ .loggedOut) (hl : (s.agent x).home ≠ some l) :
    exec c s = .next (s.answered l r .notOwner (.agent x (s.agent x).state (s.agent x).pending)) := by
  rw [h, Ev.forAgent, (slotInRange_iff x).2 hx]
  dsimp only
  rw [if_pos (by rfl), State.takeHead_agent, if_pos (by simp [Agent.foreign, hs, hl])]
  exact next_eq (State.takeHead_reply_finish _ _ _ _ _)

/-- The request's own rule is reached for an agent that the link homes, and for one that is LOGGED_OUT. -/
theorem State.ServesAgent.own {c : Instr} {x : Nat} {serve : Agent → Ev} (h : s.ServesAgent c l r x serve) (hx : x < 1024)
    (hl : (s.agent x).state = .loggedOut ∨ (s.agent x).home = some l) : exec c s = .next (serve (s.agent x)).finish := by
  rw [h, Ev.forAgent, (slotInRange_iff x).2 hx]
  dsimp only
  rw [if_pos (by rfl), State.takeHead_agent, if_neg]
  rw [Agent.foreign, decide_eq_true_iff]
  tauto

/-- A request that is refused STATE_CONFLICT with the agent's state and pending value (R12 to R19, R88, R90). -/
def State.ConflictReply (s : State) (l : Link) (r : Request) (x : Nat) (serve : Agent → Ev) : Prop :=
  serve (s.agent x) = (s.takeHead l).reply l r .stateConflict ((s.agent x).result x)

theorem State.ServesAgent.conflict {c : Instr} {x : Nat} {serve : Agent → Ev} (h : s.ServesAgent c l r x serve) (hx : x < 1024)
    (hl : (s.agent x).state = .loggedOut ∨ (s.agent x).home = some l) (hc : s.ConflictReply l r x serve) :
    exec c s = .next (s.answered l r .stateConflict (.agent x (s.agent x).state (s.agent x).pending)) := by
  rw [h.own hx hl, hc, State.takeHead_reply_finish]
  rfl

theorem State.Served.agentReady {x : Nat} (h : s.Served l r 0x06 .agents) (hb : readSlot r.body = some x) :
    s.ServesAgent (.agentReady l) l r x ((s.takeHead l).serveReady l r x) :=
  h.serves (serve := fun r e x => e.forAgent l r x true (e.serveReady l r x)) h.mine hb rfl

theorem State.Served.agentNotReady {b : NotReadyBody} (h : s.Served l r 0x07 .agents) (hb : readNotReady r.body = some b) :
    s.ServesAgent (.agentNotReady l) l r b.slot ((s.takeHead l).serveNotReady l r b.slot b.reason .request) :=
  h.serves (serve := fun r e (b : NotReadyBody) => e.forAgent l r b.slot true (e.serveNotReady l r b.slot b.reason .request))
    h.mine hb rfl

theorem State.Served.agentLogout {x : Nat} (h : s.Served l r 0x05 .agents) (hb : readSlot r.body = some x) :
    s.ServesAgent (.agentLogout l) l r x ((s.takeHead l).serveLogout l r x .request) :=
  h.serves (serve := fun r e x => e.forAgent l r x true (e.serveLogout l r x .request)) h.mine hb rfl

theorem State.Served.agentUpdate {b : UpdateBody} (h : s.Served l r 0x08 .agents) (hb : readUpdate r.body = some b)
    (hk : ∀ ks k, b.skills = some ks → k ∈ ks → k.queue < 64) :
    s.ServesAgent (.agentUpdate l) l r b.slot ((s.takeHead l).serveUpdate l r b) := by
  have inRange : skillsInRange (b.skills.getD []) = true := by
    rw [skillsInRange_iff]
    cases hks : b.skills with
    | none => simp
    | some ks => exact fun k hm => hk ks k hks hm
  have served := h.serves (c := .agentUpdate l)
    (serve := fun r e (b : UpdateBody) => e.forAgent l r b.slot (skillsInRange (b.skills.getD [])) (e.serveUpdate l r b))
    h.mine hb rfl
  rwa [inRange] at served

theorem State.Served.wrapEnd {x : Nat} (h : s.Served l r 0x09 .agents) (hb : readSlot r.body = some x) :
    s.ServesAgent (.wrapEnd l) l r x ((s.takeHead l).serveWrapEnd l r x) :=
  h.serves (serve := fun r e x => e.forAgent l r x true (e.serveWrapEnd l r x)) h.mine hb rfl

theorem State.Served.wrapExtend {b : ExtendBody} (h : s.Served l r 0x0A .agents) (hb : readExtend r.body = some b) :
    s.ServesAgent (.wrapExtend l) l r b.slot ((s.takeHead l).serveWrapExtend l r b) :=
  h.serves (serve := fun r e (b : ExtendBody) => e.forAgent l r b.slot true (e.serveWrapExtend l r b)) h.mine hb rfl

/-! ## AGENT_FORCE (R22) -/

theorem readForce_action {bytes : List Byte} {b : ForceBody} (h : readForce bytes = some b) :
    forceAction? (u8 bytes 2) = some b.action := by
  unfold readForce at h
  split at h
  · obtain ⟨a, ha, rfl⟩ := Option.map_eq_some_iff.1 h
    exact ha
  · cases h

/-- A forced request is taken by the command of its action. -/
theorem State.Served.forced {b : ForceBody} (h : s.Served l r 0x0D .config) (hb : readForce r.body = some b) :
    ofForce b.action r = true := by
  have kind : ofKind 0x0D r = true := h.mine
  rw [ofForce, kind, readForce_action hb]
  simp

/-- An AGENT_FORCE is served by this rule, after the check of its slot. -/
def State.ServesForce (s : State) (c : Instr) (l : Link) (r : Request) (x : Nat) (serve : Agent → Ev) : Prop :=
  exec c s = .next ((s.takeHead l).forForce l r x serve).finish

theorem State.ServesForce.noSuch {c : Instr} {x : Nat} {serve : Agent → Ev} (h : s.ServesForce c l r x serve) (hx : 1024 ≤ x) :
    exec c s = .next (s.answered l r .noSuch .bare) := by
  have : slotInRange x = false := by simp [slotInRange, Config.agentSlots, hx]
  rw [h, Ev.forForce, this]
  exact next_eq (State.takeHead_reply_finish _ _ _ _ _)

theorem State.ServesForce.own {c : Instr} {x : Nat} {serve : Agent → Ev} (h : s.ServesForce c l r x serve) (hx : x < 1024) :
    exec c s = .next (serve (s.agent x)).finish := by
  rw [h, Ev.forForce, (slotInRange_iff x).2 hx, if_pos rfl, State.takeHead_agent]

theorem State.ServesForce.conflict {c : Instr} {x : Nat} {serve : Agent → Ev} (h : s.ServesForce c l r x serve) (hx : x < 1024)
    (hs : (s.agent x).state = .loggedOut) (hc : s.ConflictReply l r x serve) :
    exec c s = .next (s.answered l r .stateConflict (.agent x .loggedOut (s.agent x).pending)) := by
  rw [h.own hx, hc, State.takeHead_reply_finish, Agent.result, hs]

theorem State.Served.forceLogout {x n : Nat} (h : s.Served l r 0x0D .config)
    (hb : readForce r.body = some { slot := x, action := .logout, reason := n }) :
    s.ServesForce (.forceLogout l) l r x ((s.takeHead l).serveLogout l r x .force) :=
  h.serves (serve := fun r e (b : ForceBody) => e.forForce l r b.slot (e.serveLogout l r b.slot .force)) (h.forced hb) hb rfl

theorem State.Served.forceNotReady {x n : Nat} (h : s.Served l r 0x0D .config)
    (hb : readForce r.body = some { slot := x, action := .notReady, reason := n }) :
    s.ServesForce (.forceNotReady l) l r x ((s.takeHead l).serveNotReady l r x n .force) :=
  h.serves (serve := fun r e (b : ForceBody) => e.forForce l r b.slot (e.serveNotReady l r b.slot b.reason .force))
    (h.forced hb) hb rfl

theorem State.Served.forceLogoutNow {x n : Nat} (h : s.Served l r 0x0D .config)
    (hb : readForce r.body = some { slot := x, action := .logoutNow, reason := n }) :
    s.ServesForce (.forceLogoutNow l) l r x ((s.takeHead l).serveLogoutNow l r x) :=
  h.serves (serve := fun r e (b : ForceBody) => e.forForce l r b.slot (e.serveLogoutNow l r b.slot)) (h.forced hb) hb rfl

/-! ## Refusals of an agent that is LOGGED_OUT -/

theorem serveReady_loggedOut {x : Nat} (hs : (s.agent x).state = .loggedOut) :
    s.ConflictReply l r x ((s.takeHead l).serveReady l r x) := by
  simp only [State.ConflictReply, Ev.serveReady, hs]

theorem serveNotReady_loggedOut {x n : Nat} {cause : Cause} (hs : (s.agent x).state = .loggedOut) :
    s.ConflictReply l r x ((s.takeHead l).serveNotReady l r x n cause) := by
  simp only [State.ConflictReply, Ev.serveNotReady, hs, if_true]

theorem serveLogout_loggedOut {x : Nat} {cause : Cause} (hs : (s.agent x).state = .loggedOut) :
    s.ConflictReply l r x ((s.takeHead l).serveLogout l r x cause) := by
  simp only [State.ConflictReply, Ev.serveLogout, hs]

theorem serveLogoutNow_loggedOut {x : Nat} (hs : (s.agent x).state = .loggedOut) :
    s.ConflictReply l r x ((s.takeHead l).serveLogoutNow l r x) := by
  simp only [State.ConflictReply, Ev.serveLogoutNow, hs, if_true]

theorem serveUpdate_loggedOut {b : UpdateBody} (hs : (s.agent b.slot).state = .loggedOut) :
    s.ConflictReply l r b.slot ((s.takeHead l).serveUpdate l r b) := by
  simp only [State.ConflictReply, Ev.serveUpdate, hs, if_true]

theorem serveWrapEnd_conflict {x : Nat} (hs : (s.agent x).state ≠ .wrapUp) :
    s.ConflictReply l r x ((s.takeHead l).serveWrapEnd l r x) := by
  unfold State.ConflictReply Ev.serveWrapEnd
  split
  · rename_i h _; exact absurd h hs
  · rfl

theorem serveWrapExtend_conflict {b : ExtendBody} (hs : (s.agent b.slot).state ≠ .wrapUp) :
    s.ConflictReply l r b.slot ((s.takeHead l).serveWrapExtend l r b) := by
  unfold State.ConflictReply Ev.serveWrapExtend
  split
  · rename_i h _; exact absurd h hs
  · rfl

/-- The four clauses of the checks, for one request command. -/
theorem State.ServesAgent.checks {c : Instr} {x : Nat} {serve : Agent → Ev} (h : s.ServesAgent c l r x serve)
    (out : (s.agent x).state = .loggedOut → s.ConflictReply l r x serve)
    (wrap : c = .wrapEnd l ∨ c = .wrapExtend l → (s.agent x).state ≠ .wrapUp → s.ConflictReply l r x serve) :
    let a := s.agent x
    (1024 ≤ x → exec c s = .next (s.answered l r .noSuch .bare))
    ∧ (x < 1024 → a.state ≠ .loggedOut → a.home ≠ some l →
      exec c s = .next (s.answered l r .notOwner (.agent x a.state a.pending)))
    ∧ (x < 1024 → a.state = .loggedOut →
      exec c s = .next (s.answered l r .stateConflict (.agent x a.state a.pending)))
    ∧ (x < 1024 → a.home = some l → a.state ≠ .wrapUp → (c = .wrapEnd l ∨ c = .wrapExtend l) →
      exec c s = .next (s.answered l r .stateConflict (.agent x a.state a.pending))) :=
  ⟨h.noSuch, h.notOwner, fun hx hs => h.conflict hx (.inl hs) (out hs),
    fun hx hl hs hc => h.conflict hx (.inr hl) (wrap hc hs)⟩

end

/-- Settles O33: one lemma has the checks that the requests of a home link share, and each request only says what its own rule
refuses. -/
theorem agentRequestChecks : Obligations.AgentRequestChecks := by
  refine ⟨fun l r s c x hc => ?_, fun l r s b h hb => ?_⟩
  · rcases hc with ⟨rfl, h, hb⟩ | ⟨rfl, h, n, hb⟩ | ⟨rfl, h, hb⟩ | ⟨rfl, h, b, hb, rfl, hk⟩ | ⟨rfl, h, hb⟩ | ⟨rfl, h, n, hb⟩
    · exact (h.agentReady hb).checks serveReady_loggedOut (by simp)
    · exact (h.agentNotReady hb).checks serveNotReady_loggedOut (by simp)
    · exact (h.agentLogout hb).checks serveLogout_loggedOut (by simp)
    · exact (h.agentUpdate hb hk).checks serveUpdate_loggedOut (by simp)
    · exact (h.wrapEnd hb).checks (fun hs => serveWrapEnd_conflict (by simp [hs])) fun _ => serveWrapEnd_conflict
    · exact (h.wrapExtend hb).checks (fun hs => serveWrapExtend_conflict (by simp [hs])) fun _ => serveWrapExtend_conflict
  · obtain ⟨x, action, n⟩ := b
    cases action with
    | logout =>
      exact ⟨(h.forceLogout hb).noSuch, fun hx hs => (h.forceLogout hb).conflict hx hs (serveLogout_loggedOut hs)⟩
    | notReady =>
      exact ⟨(h.forceNotReady hb).noSuch, fun hx hs => (h.forceNotReady hb).conflict hx hs (serveNotReady_loggedOut hs)⟩
    | logoutNow =>
      exact ⟨(h.forceLogoutNow hb).noSuch, fun hx hs => (h.forceLogoutNow hb).conflict hx hs (serveLogoutNow_loggedOut hs)⟩

section
variable {s : State} {l : Link} {r : Request}

/-! ## Agents that become AVAILABLE (O34) -/

/-- A taken request is answered, and its agent joins the tail of the available list (R7, R12). -/
theorem State.takeHead_joins (s : State) (l : Link) (r : Request) (result : Result) (x : Nat) (new : Agent) (cause : Cause)
    (hn : new.state = .available) :
    ((((s.takeHead l).reply l r .done result).putAgentAtTail x new cause).agentAttempt x).finish
      = (s.answered l r .done result).agentJoins x new cause := by
  rw [((s.takeHead_quiet l).reply l r .done result).agentJoins x new cause hn, State.takeHead_reply]

theorem State.takeHead_tick (s : State) (l : Link) : (s.takeHead l).st.tick = s.tick := (s.takeHead_same l).tick

theorem serveReady_available {x : Nat} (hs : (s.agent x).state = .available) :
    ((s.takeHead l).serveReady l r x (s.agent x)).finish = s.answered l r .done (.agent x .available (s.agent x).pending) := by
  simp only [Ev.serveReady, hs, State.takeHead_reply_finish, Agent.result]

theorem serveReady_joins {x : Nat} (hs : (s.agent x).state = .notReady ∨ (s.agent x).state = .inferredAbsent) :
    ((s.takeHead l).serveReady l r x (s.agent x)).finish =
      (s.answered l r .done (.agent x .available .none)).agentJoins x
        { s.agent x with state := .available, pending := .none, availSince := s.tick, miss := 0, penaltyDeadline := none }
        .request := by
  have new : (s.agent x).ready (s.takeHead l).st.tick = { s.agent x with
      state := .available, pending := .none, availSince := s.tick, miss := 0, penaltyDeadline := none } := by
    rw [State.takeHead_tick]
    unfold Agent.ready
    rcases hs with hs | hs <;> simp only [hs] <;> rfl
  unfold Ev.serveReady
  dsimp only
  rw [new]
  rcases hs with hs | hs
  all_goals
    simp only [hs]
    exact State.takeHead_joins _ _ _ _ _ _ _ rfl

/-- The pending value that AGENT_READY leaves to an agent that stays as it is (R12). -/
theorem Agent.ready_stays {a : Agent} (now : Tick) (hs : a.state = .reserved ∨ a.state = .busy ∨ a.state = .wrapUp) :
    a.ready now = { a with pending := match a.pending with | .notReady _ => .none | p => p } := by
  obtain ⟨state, home, id, skills, reason, pending⟩ := a
  dsimp only at hs
  rcases hs with rfl | rfl | rfl <;> cases pending <;> rfl

theorem serveReady_stays {x : Nat}
    (hs : (s.agent x).state = .reserved ∨ (s.agent x).state = .busy ∨ (s.agent x).state = .wrapUp) :
    let pending : PendingChange := match (s.agent x).pending with | .notReady _ => .none | p => p
    ((s.takeHead l).serveReady l r x (s.agent x)).finish =
      (s.answered l r .done (.agent x (s.agent x).state pending)).setAgent x { s.agent x with pending := pending } := by
  unfold Ev.serveReady
  dsimp only
  rw [Agent.ready_stays _ hs]
  rcases hs with hs | hs | hs
  all_goals
    split
    all_goals
      rename_i h
      simp only [hs, reduceCtorEq] at h
    exact State.takeHead_reply_upd_finish _ _ _ _ _ _

end

/-- Settles O34: the request's three outcomes, and the penalty's end, which goes the way of AGENT_READY without a reply. -/
theorem agentBecomesAvailable : Obligations.AgentBecomesAvailable := by
  refine ⟨fun l r s x h hb hx hl => ?_, fun s x deadline hd reached => ?_⟩
  · have own := (h.agentReady hb).own hx (.inr hl)
    rw [own]
    exact ⟨fun hs => next_eq (serveReady_available hs), fun hs => next_eq (serveReady_joins hs),
      fun hs => next_eq (serveReady_stays hs)⟩
  · refine next_eq ?_
    unfold State.takePenaltyExpiry
    simp only [hd]
    rw [if_pos (by simpa [Tick.reached] using reached)]
    exact s.event_quiet.agentJoins x _ .expiry rfl

/-! ## Agents that become NOT_READY (O35) -/

/-- An agent's record after a not-ready, in each state (R13, R22). -/
theorem Agent.notReady_eq (a : Agent) (n : Nat) (hs : a.state ≠ .loggedOut) : a.notReady n =
    match a.state with
    | .notReady => { a with reason := min 15 n }
    | .inferredAbsent =>
        { a with state := .notReady, reason := min 15 n, pending := .none, miss := 0, penaltyDeadline := none }
    | .reserved | .busy | .wrapUp => if a.pending = .logout then a else { a with pending := .notReady (min 15 n) }
    | .available | .loggedOut => { a with state := .notReady, reason := min 15 n, pending := .none } := by
  unfold Agent.notReady
  cases h : a.state
  case loggedOut => exact absurd h hs
  case notReady | available | inferredAbsent => simp [Agent.madeNotReady]
  all_goals
    dsimp only
    cases hp : a.pending <;> simp

theorem serveNotReady_finish {s : State} {l : Link} {r : Request} {x n : Nat} {cause : Cause}
    (hs : (s.agent x).state ≠ .loggedOut) :
    ((s.takeHead l).serveNotReady l r x n cause (s.agent x)).finish =
      (s.answered l r .done (.agent x ((s.agent x).notReady n).state ((s.agent x).notReady n).pending)).agentOut x
        ((s.agent x).notReady n) cause := by
  unfold Ev.serveNotReady
  dsimp only
  rw [if_neg hs, ((s.takeHead_quiet l).reply l r _ _).agentOut _ _ _ ?_, State.takeHead_reply]
  · rfl
  · rw [Agent.notReady_state]
    split
    · simp
    · tauto

/-- Settles O35: both requests come to the same service, which puts the new record in place. -/
theorem agentBecomesNotReady : Obligations.AgentBecomesNotReady := by
  intro l r s c x n cause hc hx hs
  have served : exec c s = .next ((s.takeHead l).serveNotReady l r x n cause (s.agent x)).finish := by
    rcases hc with ⟨rfl, h, hb, hl, rfl⟩ | ⟨rfl, h, hb, rfl⟩
    · exact (h.agentNotReady hb).own hx (.inr hl)
    · exact (h.forceNotReady hb).own hx
  have new := Agent.notReady_eq (s.agent x) n hs
  exact served.trans (next_eq ((serveNotReady_finish hs).trans (by rw [new] <;> rfl)))

section
variable {s : State} {l : Link} {r : Request} {x : Nat}

/-! ## Logouts without an offer (O36) -/

/-- The three requests that log an agent out, with the cause they give (R15, R22, R23). -/
def State.LogoutRequest (s : State) (l : Link) (r : Request) (c : Instr) (x : Nat) (cause : Cause) : Prop :=
  (c = .agentLogout l ∧ s.Served l r 0x05 .agents ∧ readSlot r.body = some x ∧ (s.agent x).home = some l
      ∧ cause = .request)
    ∨ (c = .forceLogout l ∧ s.Served l r 0x0D .config ∧ cause = .force
      ∧ ∃ n, readForce r.body = some { slot := x, action := .logout, reason := n })
    ∨ (c = .forceLogoutNow l ∧ s.Served l r 0x0D .config ∧ cause = .force
      ∧ ∃ n, readForce r.body = some { slot := x, action := .logoutNow, reason := n })

/-- A logout request is served by the rule of a logout, or by that of an immediate one. -/
theorem State.LogoutRequest.serves {c : Instr} {cause : Cause} (h : s.LogoutRequest l r c x cause) (hx : x < 1024) :
    c ≠ .forceLogoutNow l ∧ exec c s = .next ((s.takeHead l).serveLogout l r x cause (s.agent x)).finish
      ∨ c = .forceLogoutNow l ∧ cause = .force
        ∧ exec c s = .next ((s.takeHead l).serveLogoutNow l r x (s.agent x)).finish := by
  rcases h with ⟨rfl, h, hb, hl, rfl⟩ | ⟨rfl, h, rfl, n, hb⟩ | ⟨rfl, h, rfl, n, hb⟩
  · exact .inl ⟨by simp, (h.agentLogout hb).own hx (.inr hl)⟩
  · exact .inl ⟨by simp, (h.forceLogout hb).own hx⟩
  · exact .inr ⟨rfl, rfl, (h.forceLogoutNow hb).own hx⟩

/-- A logout request of an agent that is neither LOGGED_OUT nor, but for FORCE_LOGOUT_NOW, in BUSY or WRAP_UP completes it at
once (R15, R23). -/
theorem State.LogoutRequest.logsOut {c : Instr} {cause : Cause} (h : s.LogoutRequest l r c x cause) (hx : x < 1024)
    (hs : (s.agent x).state = .notReady ∨ (s.agent x).state = .available ∨ (s.agent x).state = .inferredAbsent
      ∨ (s.agent x).state = .reserved
      ∨ (c = .forceLogoutNow l ∧ ((s.agent x).state = .busy ∨ (s.agent x).state = .wrapUp))) :
    exec c s = .next ((s.takeHead l).replyAndLogout l r x cause).finish := by
  rcases h.serves hx with ⟨hc, served⟩ | ⟨hc, rfl, served⟩
  · rw [served]
    unfold Ev.serveLogout
    rcases hs with hs | hs | hs | hs | ⟨hc', -⟩
    · simp only [hs]
    · simp only [hs]
    · simp only [hs]
    · simp only [hs]
    · exact absurd hc' hc
  · rw [served, Ev.serveLogoutNow, if_neg]
    rcases hs with hs | hs | hs | hs | ⟨-, hs | hs⟩ <;> simp [hs]

theorem State.LogoutRequest.pends {c : Instr} {cause : Cause} (h : s.LogoutRequest l r c x cause) (hx : x < 1024)
    (hc : c ≠ .forceLogoutNow l) (hs : (s.agent x).state = .busy ∨ (s.agent x).state = .wrapUp) :
    exec c s = .next ((s.answered l r .done (.agent x (s.agent x).state .logout)).setAgent x
      { s.agent x with pending := .logout }) := by
  obtain ⟨-, served⟩ := (h.serves hx).resolve_right fun hn => hc hn.1
  rw [served]
  unfold Ev.serveLogout
  rcases hs with hs | hs
  all_goals
    simp only [hs]
    exact next_eq (State.takeHead_reply_upd_finish _ _ _ _ _ _)

theorem State.LogoutRequest.refused {c : Instr} {cause : Cause} (h : s.LogoutRequest l r c x cause) (hx : x < 1024)
    (hs : (s.agent x).state = .loggedOut) :
    exec c s = .next (s.answered l r .stateConflict (.agent x .loggedOut (s.agent x).pending)) := by
  have result : (s.agent x).result x = .agent x .loggedOut (s.agent x).pending := by rw [Agent.result, hs]
  rcases h.serves hx with ⟨-, served⟩ | ⟨-, -, served⟩
  · rw [served, serveLogout_loggedOut hs, State.takeHead_reply_finish, result]
  · rw [served, serveLogoutNow_loggedOut hs, State.takeHead_reply_finish, result]

/-- An immediate logout of an agent without an offer, at the end of its event (R18, R23). -/
theorem Ev.Quiet.logoutNow {e : Ev} (h : e.Quiet) (cause : Cause) (ho : (e.st.agent x).offer = none) :
    (e.logoutNow x cause).finish = (e.st.dropAgent x).agentLogsOut x cause := by
  rw [Ev.logoutNow_eq, ho]
  exact (h.upd fun s => s.dropAgent x).agentLogsOut x cause

end

/-- Settles O36: a logout request pends the logout, completes it at once, or is refused, by the state of its agent. -/
theorem logoutWithoutOffer : Obligations.LogoutWithoutOffer := by
  intro l r s c x cause hc hx
  have request : s.LogoutRequest l r c x cause := hc
  refine ⟨fun hn hs => request.pends hx hn hs, fun hs ho => ?_, fun _ hs => request.refused hx hs⟩
  have same := s.answered_same l r .done (.agent x .loggedOut .none)
  refine (request.logsOut hx (by tauto)).trans (next_eq ?_)
  refine (((s.takeHead_quiet l).reply l r _ _).logoutNow cause (by rw [State.takeHead_reply, same.agent]; exact ho)).trans ?_
  rw [State.takeHead_reply, State.dropAgent, same.agent] <;> rfl

/-! ## AGENT_UPDATE (O38) -/

/-- An agent's record after an AGENT_UPDATE, and the mask of the fields applied (R19, R20). -/
theorem Agent.update_eq (a : Agent) (b : UpdateBody) :
    let skills := if a.state = .reserved then none else b.skills.map normalizeSkills
    let bit (present : Bool) (n : Nat) : Nat := if present then n else 0
    a.update b =
      { a with skills := skills.getD a.skills
               missLimit := match b.missLimit with | some n => min 7 n | none => a.missLimit
               exitType := b.exitType.getD a.exitType
               penalty := match b.penalty with | some n => max 1 n | none => a.penalty
               id := b.id.getD a.id }
    ∧ b.appliedSkills a = skills
    ∧ b.appliedMask a = bit skills.isSome 1 + bit b.missLimit.isSome 2 + bit b.exitType.isSome 4 + bit b.penalty.isSome 8
      + bit b.id.isSome 16 := by
  refine ⟨?_, rfl, rfl⟩
  unfold Agent.update
  cases b.missLimit <;> cases b.penalty <;> rfl

/-- An update keeps the state and the reason of the agent, so that it is not reported (R171). -/
theorem State.report_update (s : State) (x : Nat) (a : Agent) (b : UpdateBody) (cause : Cause) :
    s.report x a (a.update b) cause = [] := by
  simp [State.report, Agent.reported, Agent.update]

/-- The reply and the record of an AGENT_UPDATE, as an update of the state. -/
theorem State.updated_eq (s : State) (l : Link) (r : Request) (result : Result) (x : Nat) (b : UpdateBody) :
    ((s.takeHead l).reply l r .done result).putAgent x ((s.agent x).update b) .request
      = { st := (s.answered l r .done result).settled x ((s.agent x).update b)
            (if (s.agent x).state = .available then s.available else s.available.filter (· != x)) } := by
  have same := s.answered_same l r .done result
  rw [Ev.putAgent_eq, State.takeHead_reply, same.agent, State.report_update, State.availableWith, same.available]
  rfl

/-- The attempt of an agent whose skill list an update replaced, at the end of the event (R21, R62). -/
theorem Ev.attempted_update (u : State) (x : Nat) (new : Agent) (ls : List Nat) {old : Agent} (hs : new.state = old.state)
    (given : Bool) :
    (if given = true then Ev.agentAttempt { st := u.settled x new ls } x else { st := u.settled x new ls }).finish
      = if old.state = .available ∧ given = true then
          match (u.settled x new ls).bestCall new with
          | none => u.settled x new ls
          | some (y, c) => ((u.settled x new ls).offerMade y c x).agentReport x new (((u.settled x new ls).offerMade y c x).agent x)
              .offer
        else u.settled x new ls := by
  have agent : (u.settled x new ls).agent x = new := (u.settled_agent x new ls x).trans (if_pos rfl)
  have unchanged : Ev.finish { st := u.settled x new ls } = u.settled x new ls := Ev.finish_mk rfl rfl
  cases given with
  | false => simpa using unchanged
  | true =>
    by_cases ha : old.state = .available
    · rw [if_pos rfl, if_pos ⟨ha, rfl⟩, Ev.agentAttempt_finish rfl rfl (by rw [agent, hs, ha]), agent]
      rfl
    · rw [if_pos rfl, if_neg fun h => ha h.1, Ev.agentAttempt, if_neg (by rw [agent, hs]; exact ha)]
      exact unchanged

/-- Settles O38: the record is put in place without a report, since the state stays as it is, and the attempt follows. -/
theorem agentUpdateAppliesFields : Obligations.AgentUpdateAppliesFields := by
  intro l r s b h hb
  refine ⟨fun out => ?_, fun hx hk hl hs => ?_⟩
  · have served : exec (.agentUpdate l) s = .next ((s.takeHead l).forAgent l r b.slot (skillsInRange (b.skills.getD []))
        ((s.takeHead l).serveUpdate l r b)).finish :=
      h.serves (serve := fun r e (b : UpdateBody) =>
        e.forAgent l r b.slot (skillsInRange (b.skills.getD [])) (e.serveUpdate l r b)) h.mine hb rfl
    rw [served, Ev.forAgent, if_neg, State.takeHead_reply_finish]
    rw [Bool.and_eq_true, slotInRange_iff, skillsInRange_iff]
    rintro ⟨hx, hks⟩
    rcases out with out | ⟨ks, hsk, k, hk, hq⟩
    · omega
    · have := hks k (by rw [hsk]; exact hk)
      omega
  · intro a skills new bit applied m
    obtain ⟨update, given, mask⟩ := Agent.update_eq a b
    have hnew : new = a.update b := update.symm
    have happlied : applied = b.appliedMask a := mask.symm
    clear_value new applied
    subst hnew happlied
    rw [(h.agentUpdate hb hk).own hx (.inr hl)]
    unfold Ev.serveUpdate
    dsimp only
    rw [if_neg hs, State.updated_eq]
    exact next_eq (Ev.attempted_update (old := a) (s.answered l r .done _) b.slot (a.update b) _ rfl skills.isSome)

end Sys2Proof.Machine
end

section
/-!
PROOF. Events after which no other work follows: no distribution attempt makes an offer, and nothing waits for the notice space
that the event has freed (R59, R81, R180).
-/
namespace Sys2Proof.Machine

open Sys2Proof

section
variable {s t : State} {e : Ev} {l : Link}

/-! ## Attempts that make no offer (R59, R61) -/

/-- No distribution attempt for a queue would make an offer. -/
def State.Offerless (s : State) : Prop := ∀ q, s.pairIn q (s.queue q).order = none

theorem State.pairIn_none {q : Nat} (h : ∀ c, s.agentFor q c = none) (order : List Nat) : s.pairIn q order = none := by
  induction order with
  | nil => rfl
  | cons y rest ih =>
    unfold State.pairIn
    cases s.call? y with
    | none => exact ih
    | some c => dsimp only; rw [h c, ih, ite_self]

theorem State.agentFor_none {q : Nat} (h : ∀ x ∈ s.available, s.qualified (s.agent x) q = false) (c : Call) :
    s.agentFor q c = none :=
  List.find?_eq_none.2 fun x hx => by simp [h x hx]

theorem State.Offerless.of_unqualified (h : ∀ x ∈ s.available, ∀ q, s.qualified (s.agent x) q = false) : s.Offerless :=
  fun q => State.pairIn_none (State.agentFor_none fun x hx => h x hx q) _

theorem State.Offerless.of_unavailable (h : s.available = []) : s.Offerless :=
  .of_unqualified fun _ hx => absurd (h ▸ hx) List.not_mem_nil

theorem State.Offerless.of_absent (h : ∀ q, ∀ z ∈ (s.queue q).order, s.call? z = none) : s.Offerless := by
  intro q
  have absent := h q
  generalize (s.queue q).order = order at absent
  induction order with
  | nil => rfl
  | cons y rest ih =>
    rw [State.pairIn, absent y List.mem_cons_self]
    exact ih fun z hz => absent z (List.mem_cons_of_mem _ hz)

theorem Ev.queueAttempts_idle (h : e.st.Offerless) (q : Nat) : e.queueAttempts q = e := by
  unfold Ev.queueAttempts Ev.attemptLoop
  rw [h q]

theorem foldl_id {α β : Type} {f : β → α → β} {b : β} (h : ∀ a, f b a = b) (as : List α) : as.foldl f b = b := by
  induction as with
  | nil => rfl
  | cons a as ih => rw [List.foldl_cons, h, ih]

theorem Ev.attemptStage_idle (h : e.st.Offerless) (l : Link) : e.attemptStage l = e :=
  foldl_id (fun q => by rw [Ev.queueAttempts_idle h, ite_self]) _

theorem State.callFor_absent {a : Agent} {order : List Nat} (h : ∀ z ∈ order, s.call? z = none) : s.callFor a order = none := by
  induction order with
  | nil => rfl
  | cons y rest ih =>
    rw [State.callFor, h y List.mem_cons_self]
    exact ih fun z hz => h z (List.mem_cons_of_mem _ hz)

theorem State.bestCall_none {a : Agent} (h : ∀ q, s.qualified a q = false ∨ ∀ z ∈ (s.queue q).order, s.call? z = none) :
    s.bestCall a = none := by
  refine foldl_id (fun q => ?_) _
  rcases h q with hq | hq
  · rw [hq]; rfl
  · rw [State.callFor_absent hq]; exact ite_self _

theorem Ev.agentAttempt_idle {x : Nat} (h : (e.st.agent x).state = .available →
      ∀ q, e.st.qualified (e.st.agent x) q = false ∨ ∀ z ∈ (e.st.queue q).order, e.st.call? z = none) : e.agentAttempt x = e := by
  unfold Ev.agentAttempt
  dsimp only
  split
  · rename_i hx; rw [State.bestCall_none (h hx)]
  · rfl

/-! ## Freed space that nothing waits for (R180) -/

/-- The links on which an event has freed notice space. -/
def Ev.Freed (e : Ev) : Link → Prop
  | .a => e.freedA = true
  | .b => e.freedB = true
  | .s => False

theorem Ev.Quiet.freed (h : e.Quiet) (k : Link) : ¬e.Freed k := by
  cases k with
  | a => exact fun hf => Bool.noConfusion (h.freedA.symm.trans hf)
  | b => exact fun hf => Bool.noConfusion (h.freedB.symm.trans hf)
  | s => exact id

theorem Ev.freed_markFreed {k : Link} (h : (e.markFreed l).Freed k) : e.Freed k ∨ k = l := by
  cases l <;> cases k <;> simp_all [Ev.markFreed, Ev.Freed]

theorem Ev.grants_idle {w : Highway} (h : (e.st.highway w).deferral = []) : e.grants w = e := by
  have none : e.grantHead w = none := by unfold Ev.grantHead; rw [h]
  unfold Ev.grants Ev.grantLoop
  rw [none]

theorem Ev.exitStage_idle (h : (e.st.link l).exitOrder = []) (fuel : Nat) : Ev.exitStage l fuel e = e := by
  cases fuel with
  | zero => rfl
  | succ fuel => rw [Ev.exitStage, h]

theorem Ev.listenStage_idle (h : (e.st.link l).listenOrder = []) (fuel : Nat) : Ev.listenStage l fuel e = e := by
  cases fuel with
  | zero => rfl
  | succ fuel => rw [Ev.listenStage, h]

theorem Ev.resumeWork_idle (w : e.st.NothingWaits l) (h : e.st.Offerless) : e.resumeWork l = e := by
  unfold Ev.resumeWork
  cases hw : l.highway? with
  | none => rfl
  | some k =>
    dsimp only
    rw [Ev.exitStage_idle w.exits, Ev.listenStage_idle w.listens, Ev.grants_idle (w.deferral k hw), Ev.attemptStage_idle h]

/-- An event after which no other work follows ends with its notices. -/
theorem Ev.finish_idle (w : ∀ k, e.Freed k → e.st.NothingWaits k) (h : e.st.Offerless) : e.finish = e.st.delivered e.offered := by
  have a : (if e.freedA = true then e.resumeWork .a else e) = e := by
    split
    · rename_i f; exact Ev.resumeWork_idle (w .a f) h
    · rfl
  have b : (if e.freedB = true then e.resumeWork .b else e) = e := by
    split
    · rename_i f; exact Ev.resumeWork_idle (w .b f) h
    · rfl
  unfold Ev.finish
  dsimp only
  rw [a, b, Ev.deliverOffered_st]
  rfl

/-- What waits for notice space on the links is as it was. -/
structure State.SameWork (s t : State) : Prop where
  exits : ∀ l, (t.link l).exitOrder = (s.link l).exitOrder
  listens : ∀ l, (t.link l).listenOrder = (s.link l).listenOrder
  deferral : ∀ w, (t.highway w).deferral = (s.highway w).deferral

theorem State.SameWork.nothingWaits (k : s.SameWork t) (h : s.NothingWaits l) : t.NothingWaits l :=
  ⟨(k.exits l).trans h.exits, (k.listens l).trans h.listens, fun w hw => (k.deferral w).trans (h.deferral w hw)⟩

theorem State.SameWork.trans {u : State} (h : s.SameWork t) (k : t.SameWork u) : s.SameWork u :=
  ⟨fun l => (k.exits l).trans (h.exits l), fun l => (k.listens l).trans (h.listens l),
    fun w => (k.deferral w).trans (h.deferral w)⟩

theorem State.SameWork.of_eq (link : ∀ l, t.link l = s.link l) (highway : ∀ w, t.highway w = s.highway w) : s.SameWork t :=
  ⟨fun l => by rw [link], fun l => by rw [link], fun w => by rw [highway]⟩

/-! ## Held steps (R81) -/

theorem Ev.runHeldStep_idle {y : Nat} {c : Call} (hc : e.st.call? y = some c) (h : ∀ t, c.treatment = some t → t.state ≠ .held) :
    e.runHeldStep y = e := by
  unfold Ev.runHeldStep
  rw [hc]
  dsimp only
  cases ht : c.treatment with
  | none => rfl
  | some t => exact if_neg fun k => h t ht k.2.2

/-! ## Reservations given up (R58) -/

theorem Ev.useReservation_eq (h : 0 < (e.st.link l).reserved) (n : Notice) :
    e.useReservation l n = e.upd fun s => s.setLink l
      { s.link l with outbound := (s.link l).outbound ++ [.notice n], reserved := (s.link l).reserved - 1 } := if_pos h

theorem Ev.releaseReservation_eq (h : 0 < (e.st.link l).reserved) :
    e.releaseReservation l
      = (e.upd fun s => s.setLink l { s.link l with reserved := (s.link l).reserved - 1 }).markFreed l := if_pos h

@[simp] theorem Ev.markFreed_offered (e : Ev) (l : Link) : (e.markFreed l).offered = e.offered := by cases l <;> rfl

theorem State.endOffer_eq {y : Nat} {c : Call} (hc : s.call? y = some c) (x : Nat) (outcome : OfferOutcome) :
    s.endOffer y x outcome = (s.setCall y { c with state := .waiting, offer := none }).setAgent x
      { s.agent x with offer := none, lastOutcome := some outcome } := by
  rw [State.endOffer, State.updCall, hc]
  dsimp only
  rw [State.setCall_agent]

theorem Ev.cancelOffer_eq {o : CallOffer} {h : Link} (home : (e.st.agent o.agent).home = some h)
    (hr : 0 < (e.st.link h).reserved) (y : Nat) (cause : CancelCause) :
    e.cancelOffer o y cause = e.upd fun s => s.setLink h { s.link h with
      outbound := (s.link h).outbound ++ [.notice (.offerCancel o.token o.agent y cause)]
      reserved := (s.link h).reserved - 1 } := by
  rw [Ev.cancelOffer, home]
  exact Ev.useReservation_eq hr _

/-- What an offer held on the links is given up as: the notice on the agent's home link, and the owner link's entry (R58). -/
def State.offerGivenUp (s : State) (h owner : Link) (es : List OutEntry) : State :=
  let s := s.setLink h { s.link h with outbound := (s.link h).outbound ++ es, reserved := (s.link h).reserved - 1 }
  s.setLink owner { s.link owner with reserved := (s.link owner).reserved - 1 }

theorem State.link_offerGivenUp (s : State) (h owner : Link) (es : List OutEntry) (k : Link) :
    (s.offerGivenUp h owner es).link k = { s.link k with
      outbound := (s.link k).outbound ++ (if k = h then es else [])
      reserved := (s.link k).reserved - (if k = h then 1 else 0) - (if k = owner then 1 else 0) } := by
  simp only [State.offerGivenUp, State.link_setLink]
  by_cases ho : owner = k
  · subst ho
    by_cases hk : h = owner
    · subst hk; simp
    · simp [hk, Ne.symm hk]
  · by_cases hk : h = k
    · subst hk; simp [ho, Ne.symm ho]
    · simp [hk, ho, Ne.symm hk, Ne.symm ho]

theorem State.offerGivenUp_same (s : State) (h owner : Link) (es : List OutEntry) : s.SameRecords (s.offerGivenUp h owner es) :=
  (State.SameRecords.setLink _ _ _).trans (.setLink _ _ _)

theorem State.offerGivenUp_work (s : State) (h owner : Link) (es : List OutEntry) : s.SameWork (s.offerGivenUp h owner es) :=
  ⟨fun l => by rw [State.link_offerGivenUp], fun l => by rw [State.link_offerGivenUp],
    fun w => by simp [State.offerGivenUp]⟩

@[simp] theorem State.endOffer_link (s : State) (y x : Nat) (outcome : OfferOutcome) (k : Link) :
    (s.endOffer y x outcome).link k = s.link k := by simp [State.endOffer]

@[simp] theorem State.endOffer_highway (s : State) (y x : Nat) (outcome : OfferOutcome) (w : Highway) :
    (s.endOffer y x outcome).highway w = s.highway w := by simp [State.endOffer]

@[simp] theorem State.endOffer_agent (s : State) (y x : Nat) (outcome : OfferOutcome) (z : Nat) :
    (s.endOffer y x outcome).agent z = if x = z then (s.agent x).offerEnded outcome else s.agent z := by
  simp [State.endOffer, Agent.offerEnded]

theorem State.endOffer_work (s : State) (y x : Nat) (outcome : OfferOutcome) : s.SameWork (s.endOffer y x outcome) :=
  .of_eq (State.endOffer_link s y x outcome) (State.endOffer_highway s y x outcome)

/-- The end of an offer that is taken back with an OFFER_CANCEL, as an update of the state (R58, R77, R78). -/
theorem Ev.endAndCancel_eq {y : Nat} {owner h : Link} {o : CallOffer} (home : (e.st.agent o.agent).home = some h)
    (hh : 0 < (e.st.link h).reserved) (ho : 0 < (e.st.link owner).reserved) (twice : h = owner → 2 ≤ (e.st.link h).reserved)
    (outcome : OfferOutcome) (cause : CancelCause) :
    ((e.upd fun s => s.endOffer y o.agent outcome).cancelOffer o y cause).releaseReservation owner
      = (e.upd fun s => (s.endOffer y o.agent outcome).offerGivenUp h owner [.notice (.offerCancel o.token o.agent y cause)]).markFreed
          owner := by
  rw [Ev.cancelOffer_eq (h := h), Ev.releaseReservation_eq]
  · rfl
  · simp only [Ev.upd, State.link_setLink, State.endOffer_link]
    split
    · rename_i hk
      have := twice hk
      show 0 < (e.st.link h).reserved - 1
      omega
    · exact ho
  · simp [Ev.upd, Agent.offerEnded, home]
  · simpa [Ev.upd] using hh

/-- After an offer's end, no work follows where the call's step is not held and nothing can be offered (R81). -/
theorem Ev.afterOffer_idle {x y q : Nat} {c : Call} (hc : e.st.call? y = some c)
    (held : ∀ t, c.treatment = some t → t.state ≠ .held) (h : e.st.Offerless)
    (hx : (e.st.agent x).state = .available → ∀ q, e.st.qualified (e.st.agent x) q = false ∨ ∀ z ∈ (e.st.queue q).order, e.st.call? z = none) :
    e.afterOffer y q x = e := by
  rw [Ev.afterOffer, Ev.runHeldStep_idle hc held, Ev.queueAttempts_idle h, Ev.agentAttempt_idle hx]

/-! ## Staffing weights (R102) -/

/-- The record of a queue after an agent's share has been taken from or added to its weight. -/
def Queue.weighed (q : Nat) (a : Agent) (f : Nat → Nat → Nat) (r : Queue) : Queue :=
  if a.state.working then
    a.skills.foldl (fun r k =>
      if k.queue = q ∧ r.config.minProficiency ≤ k.proficiency then { r with weight := f r.weight a.share } else r) r
  else r

/-- The record of a queue after an agent's record has changed. -/
def Queue.reweighed (q : Nat) (old new : Agent) (r : Queue) : Queue :=
  if old.state.working = new.state.working ∧ old.skills = new.skills then r
  else (r.weighed q old (· - ·)).weighed q new (· + ·)

theorem State.adjustWeights_queue (s : State) (a : Agent) (f : Nat → Nat → Nat) (q : Nat) :
    (s.adjustWeights a f).queue q = (s.queue q).weighed q a f := by
  unfold State.adjustWeights Queue.weighed
  split
  · generalize a.skills = ks
    induction ks generalizing s with
    | nil => rfl
    | cons k ks ih =>
      rw [List.foldl_cons, List.foldl_cons, ih]
      congr 1
      by_cases hk : k.queue = q
      · subst hk
        dsimp only
        split
        · rename_i hp; rw [State.queue_setQueue, if_pos rfl, if_pos ⟨rfl, hp⟩]
        · rename_i hp; rw [if_neg fun h => hp (And.right h)]
      · rw [if_neg fun h => hk (And.left h)]
        show State.queue (if _ ≤ _ then _ else s) q = _
        split
        · rw [State.queue_setQueue, if_neg hk]
        · rfl
  · rfl

theorem State.reweigh_queue (s : State) (old new : Agent) (q : Nat) :
    (s.reweigh old new).queue q = (s.queue q).reweighed q old new := by
  unfold State.reweigh Queue.reweighed
  split
  · rfl
  · rw [State.adjustWeights_queue, State.adjustWeights_queue]

/-- Only the weights of queues follow an agent's record. -/
theorem State.reweigh_eq (s : State) (old new : Agent) :
    s.reweigh old new = { s with queues := (s.reweigh old new).queues } := by
  have adjusted : ∀ (a : Agent) (f : Nat → Nat → Nat) (s : State),
      s.adjustWeights a f = { s with queues := (s.adjustWeights a f).queues } := fun a f s => by
    unfold State.adjustWeights
    split
    · generalize a.skills = ks
      induction ks generalizing s with
      | nil => rfl
      | cons k ks ih =>
        rw [List.foldl_cons, ih]
        dsimp only
        split <;> rfl
    · rfl
  unfold State.reweigh
  split
  · rfl
  · rw [adjusted new, adjusted old]

/-- A change of a queue's record that the weights do not look at. -/
theorem Queue.reweighed_of {g : Queue → Queue} (config : ∀ r, (g r).config = r.config) (weight : ∀ r w, g { r with weight := w }
      = { g r with weight := w }) (same : ∀ r, (g r).weight = r.weight) (q : Nat) (old new : Agent) (r : Queue) :
    (g r).reweighed q old new = g (r.reweighed q old new) := by
  have weighed : ∀ (a : Agent) (f : Nat → Nat → Nat) (r : Queue), (g r).weighed q a f = g (r.weighed q a f) := fun a f r => by
    unfold Queue.weighed
    split
    · generalize a.skills = ks
      induction ks generalizing r with
      | nil => rfl
      | cons k ks ih =>
        have least : (g r).config.minProficiency = r.config.minProficiency := by rw [config]
        rw [List.foldl_cons, List.foldl_cons, ← ih, least]
        congr 1
        split
        · exact (congrArg (fun w => { g r with weight := f w a.share }) (same r)).trans (weight r _).symm
        · rfl
    · rfl
  unfold Queue.reweighed
  split
  · rfl
  · rw [weighed, weighed]

/-! ## A logout completed (R18) -/

/-- The state of a logout completed, before its report. -/
def State.outOfTable (s : State) (x : Nat) : State :=
  ({ s with recent := s.recent.filter fun r => r.agent != x }).settled x (s.agent x).out (s.available.filter (· != x))

theorem Ev.completeLogout_eq (e : Ev) (x : Nat) (cause : Cause) :
    e.completeLogout x cause = { e with
      st := e.st.outOfTable x
      offered := e.offered ++ e.st.report x (e.st.agent x) (e.st.agent x).out cause } := by
  rw [Ev.completeLogout, Ev.putAgent_eq, State.availableWith, if_neg]
  · rfl
  · exact AgentState.noConfusion

theorem State.agentLogsOut_eq (s : State) (x : Nat) (cause : Cause) :
    s.agentLogsOut x cause = (s.outOfTable x).delivered (s.report x (s.agent x) (s.agent x).out cause) := by
  rw [State.agentLogsOut, State.agentOut, State.agentReport_eq, (State.settled_reporting _ _ _ _).report]
  rfl

/-- A record of an agent put in place changes the agent's record, the available list and the weights. -/
theorem State.settled_eq (s : State) (x : Nat) (new : Agent) (ls : List Nat) :
    s.settled x new ls = { s.setAgent x new with queues := (s.settled x new ls).queues, available := ls } := by
  unfold State.settled
  rw [State.reweigh_eq]

theorem State.settled_queue (s : State) (x : Nat) (new : Agent) (ls : List Nat) (q : Nat) :
    (s.settled x new ls).queue q = (s.queue q).reweighed q (s.agent x) new := State.reweigh_queue _ _ _ _

theorem State.settled_call (s : State) (x : Nat) (new : Agent) (ls : List Nat) (y : Nat) :
    (s.settled x new ls).call? y = s.call? y := by rw [State.settled_eq]; rfl

theorem State.settled_highway (s : State) (x : Nat) (new : Agent) (ls : List Nat) (w : Highway) :
    (s.settled x new ls).highway w = s.highway w := by rw [State.settled_eq]; cases w <;> rfl

theorem State.settled_work (s : State) (x : Nat) (new : Agent) (ls : List Nat) : s.SameWork (s.settled x new ls) :=
  ⟨fun l => by rw [State.settled_link], fun l => by rw [State.settled_link], fun w => by rw [State.settled_highway]⟩

theorem State.outOfTable_call (s : State) (x y : Nat) : (s.outOfTable x).call? y = s.call? y := State.settled_call _ _ _ _ _

theorem State.outOfTable_agent (s : State) (x z : Nat) :
    (s.outOfTable x).agent z = if x = z then (s.agent x).out else s.agent z := State.settled_agent _ _ _ _ _

theorem State.outOfTable_work (s : State) (x : Nat) : s.SameWork (s.outOfTable x) := by
  have k := State.settled_work { s with recent := s.recent.filter fun r => r.agent != x } x (s.agent x).out
    (s.available.filter (· != x))
  exact ⟨k.exits, k.listens, k.deferral⟩

end

end Sys2Proof.Machine
end

section
/-!
PROOF. The logout of an agent that holds an offer (O37).
-/
namespace Sys2Proof.Machine

open Sys2Proof

section
variable {s : State} {e : Ev}

theorem State.answered_reserved (s : State) (l : Link) (r : Request) (status : Status) (result : Result) (k : Link) :
    ((s.answered l r status result).link k).reserved = (s.link k).reserved := by
  simp only [State.answered, State.repliedWith, State.link_setLink]
  split
  · rename_i h; rw [h]
  · rfl

theorem State.answered_work (s : State) (l : Link) (r : Request) (status : Status) (result : Result) :
    s.SameWork (s.answered l r status result) := by
  refine ⟨fun k => ?_, fun k => ?_, fun w => by simp [State.answered, State.repliedWith]⟩
  all_goals
    simp only [State.answered, State.repliedWith, State.link_setLink]
    split
    · rename_i h; rw [h]
    · rfl

/-- A logout completed after an offer's end, where no other work follows (R18, R81). -/
theorem Ev.completeLogout_finish {x y q : Nat} {c : Call} (ho : e.offered = []) (hc : e.st.call? y = some c)
    (held : ∀ t, c.treatment = some t → t.state ≠ .held) (none : e.st.available = [])
    (w : ∀ k, e.Freed k → e.st.NothingWaits k) (cause : Cause) :
    ((e.completeLogout x cause).afterOffer y q x).finish = e.st.agentLogsOut x cause := by
  have offerless : (e.st.outOfTable x).Offerless := .of_unavailable (by
    show e.st.available.filter _ = []
    rw [none]
    rfl)
  rw [Ev.completeLogout_eq, Ev.afterOffer_idle (c := c) ((State.outOfTable_call _ _ _).trans hc) held offerless]
  · rw [Ev.finish_idle _ offerless, ho, State.agentLogsOut_eq]
    · rfl
    · exact fun k hk => (State.outOfTable_work _ _).nothingWaits (w k hk)
  · intro hx
    dsimp only at hx
    rw [State.outOfTable_agent, if_pos rfl] at hx
    exact AgentState.noConfusion hx

/-- The logout of an agent that holds an offer, where no other work follows (R16, R78). -/
theorem Ev.Quiet.logoutOffered {x y : Nat} {c : Call} {o : CallOffer} {h : Link} (quiet : e.Quiet) (cause : Cause)
    (hcall : (e.st.agent x).call = none) (hoffer : (e.st.agent x).offer = some { token := o.token, call := y })
    (hc : e.st.call? y = some c) (hco : c.offer = some o) (hox : o.agent = x) (home : (e.st.agent x).home = some h)
    (hh : 0 < (e.st.link h).reserved) (ho : 0 < (e.st.link c.owner).reserved)
    (twice : h = c.owner → 2 ≤ (e.st.link h).reserved) (held : ∀ t, c.treatment = some t → t.state ≠ .held)
    (none : e.st.available = []) (nothing : e.st.NothingWaits c.owner) :
    (e.logoutNow x cause).finish
      = ((e.st.endOffer y x .withdrawn).offerGivenUp h c.owner [.notice (.offerCancel o.token x y .agentLoggedOut)]).agentLogsOut x
          cause := by
  subst hox
  have dropped : (e.upd fun s => s.dropAgent o.agent) = e := by
    rw [Ev.upd, State.dropAgent, hcall]
  have same := (e.st.endOffer y o.agent .withdrawn).offerGivenUp_same h c.owner [.notice (.offerCancel o.token o.agent y .agentLoggedOut)]
  have work := (e.st.endOffer_work y o.agent .withdrawn).trans
    (State.offerGivenUp_work _ h c.owner [.notice (.offerCancel o.token o.agent y .agentLoggedOut)])
  rw [Ev.logoutNow_eq, hoffer, dropped]
  dsimp only
  rw [hc]
  dsimp only
  rw [hco]
  dsimp only
  unfold Ev.withdrawFromAgent
  dsimp only
  rw [Ev.endAndCancel_eq home hh ho twice]
  refine (Ev.completeLogout_finish (c := c.offerEnded) ?_ ?_ held ?_ ?_ cause).trans ?_
  · rw [Ev.markFreed_offered]; exact quiet.offered
  · rw [Ev.markFreed_st]
    exact (same.call y).trans (by rw [(State.endOffer_replaced hc _ _).call, if_pos rfl])
  · rw [Ev.markFreed_st]
    exact same.available.trans ((State.endOffer_available _ _ _ _).trans none)
  · intro k hk
    obtain rfl := (Ev.freed_markFreed hk).resolve_left (quiet.upd _ |>.freed k)
    rw [Ev.markFreed_st]
    exact work.nothingWaits nothing
  · rw [Ev.markFreed_st]
    rfl

end

/-- Settles O37: the offer's end, the logout and the entries given up, with no work after them. -/
theorem logoutOfReservedAgent : Obligations.LogoutOfReservedAgent := by
  intro l r s c x y cause k o h hc hx a hs home hcall hoffer hk _ hko hox held hh ho twice none nothing
  have request : s.LogoutRequest l r c x cause := hc
  have same := s.answered_same l r .done (.agent x .loggedOut .none)
  have reserved := s.answered_reserved l r .done (.agent x .loggedOut .none)
  have st := s.takeHead_reply l r .done (.agent x .loggedOut .none)
  refine (request.logsOut hx (.inr (.inr (.inr (.inl hs))))).trans (next_eq ?_)
  have logout := ((s.takeHead_quiet l).reply l r .done (.agent x .loggedOut .none)).logoutOffered (x := x) (y := y) (c := k)
    (o := o) (h := h) cause
  simp only [st, same.agent, same.call, same.available, reserved] at logout
  refine (logout hcall hoffer hk hko hox home hh ho twice held none ((s.answered_work l r _ _).nothingWaits nothing)).trans ?_
  rw [State.endOffer_eq ((same.call y).trans hk), same.agent]
  rfl

end Sys2Proof.Machine
end

section
/-!
PROOF. What the removal of a call changes, part by part, and what the notices at the end of an event change.
-/
namespace Sys2Proof.Machine

open Sys2Proof

section
variable {s t u : State} {e d : Ev} {l : Link}

/-! ## The notices at the end of an event (R170) -/

/-- Only notices joined the outbound queues, or were dropped. -/
structure State.Notified (s t : State) : Prop where
  rest : t = { s with linkA := t.linkA, linkB := t.linkB, linkS := t.linkS }
  link : ∀ k, ∃ (ns : List Notice) (dropped : Bool),
    t.link k = { s.link k with outbound := (s.link k).outbound ++ ns.map OutEntry.notice, dropped := dropped }

theorem State.Notified.refl (s : State) : s.Notified s := ⟨rfl, fun k => ⟨[], (s.link k).dropped, by simp⟩⟩

theorem State.Notified.trans (h : s.Notified t) (k : t.Notified u) : s.Notified u := by
  refine ⟨?_, fun l => ?_⟩
  · rw [k.rest, h.rest]
  · obtain ⟨ms, d, hm⟩ := h.link l
    obtain ⟨ns, d', hn⟩ := k.link l
    exact ⟨ms ++ ns, d', by rw [hn, hm]; simp⟩

theorem LinkRec.told_eq (r : LinkRec) (n : Notice) :
    ∃ (ns : List Notice) (dropped : Bool), r.told n = { r with outbound := r.outbound ++ ns.map OutEntry.notice, dropped := dropped } := by
  unfold LinkRec.told
  split
  · exact ⟨[], r.dropped, by simp⟩
  · split
    · exact ⟨[n], r.dropped, rfl⟩
    · exact ⟨[], true, by simp⟩

theorem State.told_notified (s : State) (ls : List Link) (n : Notice) : s.Notified (s.told ls n) := by
  induction ls generalizing s with
  | nil => exact .refl s
  | cons l ls ih =>
    refine State.Notified.trans (t := s.setLink l ((s.link l).told n)) ⟨by cases l <;> rfl, fun k => ?_⟩ (ih _)
    rw [State.link_setLink]
    split
    · rename_i hk; subst hk; exact LinkRec.told_eq _ n
    · exact ⟨[], (s.link k).dropped, by simp⟩

theorem State.delivered_notified (s : State) (os : List Offered) : s.Notified (s.delivered os) := by
  induction os generalizing s with
  | nil => exact .refl s
  | cons o os ih => exact (s.told_notified _ _).trans (ih _)

namespace State.Notified

theorem agent (h : s.Notified t) (x : Nat) : t.agent x = s.agent x := by rw [h.rest]; rfl
theorem call (h : s.Notified t) (y : Nat) : t.call? y = s.call? y := by rw [h.rest]; rfl
theorem queue (h : s.Notified t) (q : Nat) : t.queue q = s.queue q := by rw [h.rest]; rfl
theorem highway (h : s.Notified t) (w : Highway) : t.highway w = s.highway w := by rw [h.rest]; cases w <;> rfl
theorem channel (h : s.Notified t) (w : Highway) (ts : Nat) : t.channel w ts = s.channel w ts := by
  rw [State.channel, h.highway]; rfl
theorem refs (h : s.Notified t) (b : Bank) : t.refs b = s.refs b := by rw [h.rest]; cases b <;> rfl
theorem available (h : s.Notified t) : t.available = s.available := by rw [h.rest]
theorem recent (h : s.Notified t) : t.recent = s.recent := by rw [h.rest]
theorem token (h : s.Notified t) : t.token = s.token := by rw [h.rest]
theorem agents (h : s.Notified t) : t.agents = s.agents := by rw [h.rest]
theorem useCounts (h : s.Notified t) : t.useCounts = s.useCounts := by rw [h.rest]
theorem reserved (h : s.Notified t) (k : Link) : (t.link k).reserved = (s.link k).reserved := by
  obtain ⟨ns, d, hk⟩ := h.link k; rw [hk]
theorem exitOrder (h : s.Notified t) (k : Link) : (t.link k).exitOrder = (s.link k).exitOrder := by
  obtain ⟨ns, d, hk⟩ := h.link k; rw [hk]
theorem listenOrder (h : s.Notified t) (k : Link) : (t.link k).listenOrder = (s.link k).listenOrder := by
  obtain ⟨ns, d, hk⟩ := h.link k; rw [hk]

end State.Notified

/-! ## Use counts (R144) -/

theorem nodup_eraseDups (gs : List Nat) : gs.eraseDups.Nodup := by
  induction hn : gs.length using Nat.strong_induction_on generalizing gs with
  | _ n ih =>
    cases gs with
    | nil => simp
    | cons g gs =>
      rw [List.eraseDups_cons, List.nodup_cons]
      refine ⟨by simp [List.mem_eraseDups], ih _ ?_ _ rfl⟩
      have := List.length_filter_le (fun b => !b == g) gs
      simp only [List.length_cons] at hn
      omega

theorem State.useCount_updUseCounts (s : State) (gs : List Nat) (f : Nat → Nat) (g : Nat) :
    (s.updUseCounts gs f).useCount g = if g ∈ gs then f (s.useCount g) else s.useCount g := by
  have key : ∀ (gs : List Nat) (t : Table Nat), gs.Nodup →
      Assoc.get 0 g (gs.foldl (fun t g => Assoc.set 0 g (f (Assoc.get 0 g t)) t) t)
        = if g ∈ gs then f (Assoc.get 0 g t) else Assoc.get 0 g t := by
    intro gs
    induction gs with
    | nil => intro t _; rfl
    | cons k gs ih =>
      intro t nodup
      obtain ⟨hk, nodup⟩ := List.nodup_cons.1 nodup
      rw [List.foldl_cons, ih _ nodup, Assoc.get_set]
      by_cases hg : k = g
      · subst hg; simp [hk]
      · simp [hg, Ne.symm hg]
  exact (key gs.eraseDups s.useCounts (nodup_eraseDups gs)).trans (by simp only [List.mem_eraseDups]; rfl)

/-! ## A treatment stopped (R138, R160) -/

section
variable (s : State) (w : Highway) (y ts : Nat)

theorem State.leaveDeferral_deferral (w' : Highway) : ((s.leaveDeferral w y).highway w').deferral =
    if w = w' then (s.highway w').deferral.filter (fun d => d.call != y) else (s.highway w').deferral := by
  rw [State.leaveDeferral, State.highway_setHighway]
  split
  · rename_i hw; subst hw; rfl
  · rfl

@[simp] theorem State.leaveDeferral_channels (w' : Highway) :
    ((s.leaveDeferral w y).highway w').channels = (s.highway w').channels := by
  rw [State.leaveDeferral, State.highway_setHighway]
  split
  · rename_i hw; subst hw; rfl
  · rfl

@[simp] theorem State.leaveDeferral_output (w' : Highway) :
    ((s.leaveDeferral w y).highway w').output = (s.highway w').output := by
  rw [State.leaveDeferral, State.highway_setHighway]
  split
  · rename_i hw; subst hw; rfl
  · rfl

@[simp] theorem State.leaveDeferral_channel (w' : Highway) (ts : Nat) :
    (s.leaveDeferral w y).channel w' ts = s.channel w' ts := by
  rw [State.channel, State.leaveDeferral_channels, State.channel]

@[simp] theorem State.leaveDeferral_heldTimeslot (w' : Highway) (z : Nat) :
    (s.leaveDeferral w y).heldTimeslot w' z = s.heldTimeslot w' z := by
  rw [State.heldTimeslot, State.leaveDeferral_channels, State.heldTimeslot]

@[simp] theorem State.leaveDeferral_refs (b : Bank) : (s.leaveDeferral w y).refs b = s.refs b := by simp [State.leaveDeferral]
@[simp] theorem State.leaveDeferral_useCount (g : Nat) : (s.leaveDeferral w y).useCount g = s.useCount g := by
  simp [State.leaveDeferral]
@[simp] theorem State.leaveDeferral_link (k : Link) : (s.leaveDeferral w y).link k = s.link k := by simp [State.leaveDeferral]

@[simp] theorem State.drainChannel_deferral (w' : Highway) :
    ((s.drainChannel w ts).highway w').deferral = (s.highway w').deferral := by
  rw [State.drainChannel, State.setChannel, State.highway_setHighway]
  split
  · rename_i hw; subst hw; cases w <;> rfl
  · cases w' <;> rfl

@[simp] theorem State.drainChannel_output (w' : Highway) : ((s.drainChannel w ts).highway w').output = (s.highway w').output := by
  rw [State.drainChannel, State.setChannel, State.highway_setHighway]
  split
  · rename_i hw; subst hw; cases w <;> rfl
  · cases w' <;> rfl

theorem State.drainChannel_channel (w' : Highway) (ts' : Nat) :
    (s.drainChannel w ts).channel w' ts' = if w = w' ∧ ts = ts' then Channel.draining else s.channel w' ts' := by
  rw [State.drainChannel, State.channel_setChannel, State.updUseCounts_channel]

theorem State.drainChannel_useCount (g : Nat) : (s.drainChannel w ts).useCount g =
    if g ∈ ((s.channel w ts).phrase).getD [] then s.useCount g - 1 else s.useCount g := by
  rw [State.drainChannel, State.setChannel, State.setHighway_useCount, State.useCount_updUseCounts, Channel.used]

@[simp] theorem State.drainChannel_refs (b : Bank) : (s.drainChannel w ts).refs b = s.refs b := by
  simp [State.drainChannel, State.setChannel]
@[simp] theorem State.drainChannel_link (k : Link) : (s.drainChannel w ts).link k = s.link k := by
  simp [State.drainChannel, State.setChannel]

end

theorem State.updRefs_heldTimeslot (s : State) (b : Bank) (f : Nat → Nat) (w : Highway) (y : Nat) :
    (s.updRefs b f).heldTimeslot w y = s.heldTimeslot w y := by simp [State.heldTimeslot]

/-- A treatment that stops takes a held LISTEN of its call with it, and nothing else of the links. -/
theorem State.stopTreatment_link {y : Nat} {c : Call} (hc : s.call? y = some c) (k : Link) :
    (s.stopTreatment y).link k = { s.link k with
      listenOrder := if c.treatment.isSome ∧ k = c.owner then (s.link k).listenOrder.filter (· != y) else (s.link k).listenOrder } := by
  have audio : ∀ (u : State) (k : Link), (u.stopAudio y c).link k = u.link k := fun u k => by
    unfold State.stopAudio
    cases c.owner.highway? with
    | none => rfl
    | some w =>
      dsimp only
      cases (u.leaveDeferral w y).heldTimeslot w y with
      | none => simp
      | some ts => simp
  unfold State.stopTreatment
  rw [hc]
  dsimp only
  cases ht : c.treatment with
  | none => simp
  | some t =>
    dsimp only
    simp only [State.setCall_link, State.link_setLink, audio, State.updRefs_link, Option.isSome_some, true_and]
    by_cases hk : c.owner = k
    · subst hk; simp
    · simp [hk, Ne.symm hk]

/-- What a call's leaving of its treatment gives back (R138, R160). -/
theorem State.stopTreatment_stopped {y : Nat} {c : Call} (hc : s.call? y = some c) : s.TreatmentStopped (s.stopTreatment y) y c := by
  have listens : ∀ k, ((s.stopTreatment y).link k).listenOrder = if c.treatment.isSome ∧ k = c.owner
      then (s.link k).listenOrder.filter (· != y) else (s.link k).listenOrder := fun k => by rw [State.stopTreatment_link hc]
  unfold State.stopTreatment at listens ⊢
  rw [hc] at listens ⊢
  dsimp only at listens ⊢
  cases ht : c.treatment with
  | none => constructor <;> simp [ht]
  | some t =>
    rw [ht] at listens
    dsimp only at listens ⊢
    unfold State.stopAudio at listens ⊢
    cases hw : c.owner.highway? with
    | none =>
      rw [hw] at listens
      constructor
      case listens => rw [ht]; exact listens
      all_goals simp [ht, hw, State.heldSegments]
    | some w =>
      rw [hw] at listens
      dsimp only at listens ⊢
      rw [State.leaveDeferral_heldTimeslot, State.updRefs_heldTimeslot] at listens ⊢
      cases held : s.heldTimeslot w y with
      | none =>
        rw [held] at listens
        constructor
        case listens => rw [ht]; exact listens
        case channel =>
          intro w' ts'
          rw [if_neg]
          · simp
          · rintro ⟨-, hw', hts⟩
            obtain rfl := Option.some.inj (hw.symm.trans hw')
            rw [held] at hts
            cases hts
        all_goals simp [ht, hw, held, State.heldSegments, State.leaveDeferral_deferral]
      | some ts =>
        rw [held] at listens
        constructor
        case listens => rw [ht]; exact listens
        case channel =>
          intro w' ts'
          simp only [State.setCall_channel, State.setLink_channel, State.drainChannel_channel, State.leaveDeferral_channel,
            State.updRefs_channel, ht, hw, Option.isSome_some, true_and, Option.some.injEq]
          by_cases hw' : w = w'
          · subst hw'; simp [held]
          · simp [hw']
        all_goals
          simp [ht, hw, held, State.heldSegments, State.leaveDeferral_deferral, State.drainChannel_useCount]

end

end Sys2Proof.Machine
end

section
/-!
PROOF. The removal of a call: what it changes, part by part (R49, R51, R138, R164).
-/
namespace Sys2Proof.Machine

open Sys2Proof

section
variable {s t u : State} {e d : Ev} {l : Link}

/-- An event goes on with more notices to give out, and without freed space of its own. -/
structure Ev.Tells (e d : Ev) : Prop where
  offered : ∃ os, d.offered = e.offered ++ os
  freedA : d.freedA = e.freedA
  freedB : d.freedB = e.freedB

theorem Ev.Tells.refl (e : Ev) : e.Tells e := ⟨⟨[], by simp⟩, rfl, rfl⟩

theorem Ev.Tells.trans {f : Ev} (h : e.Tells d) (k : d.Tells f) : e.Tells f := by
  obtain ⟨as, ha⟩ := h.offered
  obtain ⟨bs, hb⟩ := k.offered
  exact ⟨⟨as ++ bs, by rw [hb, ha, List.append_assoc]⟩, k.freedA.trans h.freedA, k.freedB.trans h.freedB⟩

theorem Ev.Tells.upd (e : Ev) (f : State → State) : e.Tells (e.upd f) := ⟨⟨[], by simp⟩, rfl, rfl⟩
theorem Ev.Tells.updLink (e : Ev) (l : Link) (f : LinkRec → LinkRec) : e.Tells (e.updLink l f) := ⟨⟨[], by simp⟩, rfl, rfl⟩
theorem Ev.Tells.offer (e : Ev) (ls : List Link) (n : Notice) : e.Tells (e.offer ls n) := ⟨⟨[_], rfl⟩, rfl, rfl⟩

theorem Ev.Tells.freed (h : e.Tells d) (k : Link) : d.Freed k ↔ e.Freed k := by
  cases k with
  | a => rw [Ev.Freed, Ev.Freed, h.freedA]
  | b => rw [Ev.Freed, Ev.Freed, h.freedB]
  | s => rfl

/-! ## Counters and the closed flag (R43, R164) -/

theorem Ev.count_tells (e : Ev) (q : Nat) (n : CounterName) : e.Tells (e.count q n) := by
  unfold Ev.count
  dsimp only
  split
  · exact (Ev.Tells.upd _ _).trans (.offer _ _ _)
  · exact .upd _ _

theorem Ev.count_st (e : Ev) (q : Nat) (n : CounterName) :
    (e.count q n).st = e.st.setQueue q ((e.st.queue q).counted n) := by
  unfold Ev.count
  dsimp only
  split <;> rfl

theorem Ev.evalOpening_tells (e : Ev) (q : Nat) : e.Tells (e.evalOpening q) := by
  unfold Ev.evalOpening
  dsimp only
  split
  · exact (Ev.Tells.upd _ _).trans (.offer _ _ _)
  · exact .refl e

theorem Ev.evalOpening_frame (e : Ev) (q : Nat) : (e.evalOpening q).st = { e.st with queues := (e.evalOpening q).st.queues } := by
  unfold Ev.evalOpening
  dsimp only
  split <;> rfl

/-- A queue opens when its count falls below its lower threshold. -/
theorem Ev.evalOpening_queue (e : Ev) (q p : Nat) : (e.evalOpening q).st.queue p = if q = p then
    { e.st.queue q with closed := (e.st.queue q).closed && !decide ((e.st.queue q).order.length < (e.st.queue q).config.lower) }
    else e.st.queue p := by
  unfold Ev.evalOpening
  dsimp only
  split
  · rename_i h
    show (e.st.setQueue q _).queue p = _
    rw [State.queue_setQueue, h.1, decide_eq_true h.2]
    rfl
  · rename_i h
    split
    · rename_i hp
      subst hp
      have : (e.st.queue q).closed = ((e.st.queue q).closed && !decide ((e.st.queue q).order.length < (e.st.queue q).config.lower)) := by
        cases hc : (e.st.queue q).closed with
        | false => rfl
        | true => rw [decide_eq_false fun hl => h ⟨hc, hl⟩]; rfl
      rw [← this]
    · rfl

/-! ## The removal of a call -/

/-- What the removal of a call changes, part by part (R39, R49, R51, R138). -/
structure State.CallGone (s t : State) (y : Nat) (c : Call) (n : CounterName) : Prop where
  call : ∀ z, t.call? z = if y = z then none else s.call? z
  agents : s.SameAgents t
  settings : t.settings = s.settings
  stopped : s.TreatmentStopped t y c
  queue : ∀ q, t.queue q = if q = c.queue then ((s.queue q).without y).counted n else s.queue q
  link : ∀ k, t.link k = { s.link k with
    listenOrder := if c.treatment.isSome ∧ k = c.owner then (s.link k).listenOrder.filter (· != y) else (s.link k).listenOrder
    exitOrder := if k = c.owner then (s.link k).exitOrder.filter (· != y) else (s.link k).exitOrder }

theorem State.stopAudio_rest (s : State) (y : Nat) (c : Call) : s.SameAgents (s.stopAudio y c) ∧ (s.stopAudio y c).queues = s.queues := by
  unfold State.stopAudio
  cases c.owner.highway? with
  | none => exact ⟨⟨rfl, rfl, rfl, rfl⟩, rfl⟩
  | some w =>
    dsimp only
    cases (s.leaveDeferral w y).heldTimeslot w y with
    | none => exact ⟨⟨by simp [State.leaveDeferral], by simp [State.leaveDeferral], by simp [State.leaveDeferral],
        by simp [State.leaveDeferral]⟩, by simp [State.leaveDeferral]⟩
    | some ts =>
      have drain : ∀ u : State, (u.drainChannel w ts).agents = u.agents ∧ (u.drainChannel w ts).available = u.available
          ∧ (u.drainChannel w ts).recent = u.recent ∧ (u.drainChannel w ts).token = u.token
          ∧ (u.drainChannel w ts).queues = u.queues := fun u => by simp [State.drainChannel, State.setChannel]
      obtain ⟨agents, available, recent, token, queues⟩ := drain (s.leaveDeferral w y)
      exact ⟨⟨agents.trans (by simp [State.leaveDeferral]), available.trans (by simp [State.leaveDeferral]),
        recent.trans (by simp [State.leaveDeferral]), token.trans (by simp [State.leaveDeferral])⟩,
        queues.trans (by simp [State.leaveDeferral])⟩

/-- A treatment that stops changes no agent and no queue. -/
theorem State.stopTreatment_rest (s : State) (y : Nat) :
    s.SameAgents (s.stopTreatment y) ∧ (s.stopTreatment y).queues = s.queues := by
  unfold State.stopTreatment
  split
  · exact ⟨⟨rfl, rfl, rfl, rfl⟩, rfl⟩
  · split
    · exact ⟨⟨rfl, rfl, rfl, rfl⟩, rfl⟩
    · rename_i c _ _ t _
      obtain ⟨same, queues⟩ := (s.updRefs t.bank (· - 1)).stopAudio_rest y c
      exact ⟨⟨by simpa using same.agents, by simpa using same.available, by simpa using same.recent, by simpa using same.token⟩,
        by simpa using queues⟩

/-- The leaving of a waiting order, part by part (R39, R138). -/
theorem Ev.leaveOrder_queue (e : Ev) (y : Nat) (c : Call) (q : Nat) :
    (e.leaveOrder y c).st.queue q = if q = c.queue then (e.st.queue q).without y else e.st.queue q := by
  have queue : ∀ p, (e.st.stopTreatment y).queue p = e.st.queue p := fun p => by
    rw [State.queue, (e.st.stopTreatment_rest y).2, State.queue]
  unfold Ev.leaveOrder
  dsimp only
  rw [Ev.evalOpening_queue]
  by_cases hq : c.queue = q
  · subst hq
    simp only [Ev.upd_st, State.queue_setQueue, State.updCall_queue, queue, if_true]
    rfl
  · simp [Ev.upd_st, queue, hq, Ne.symm hq]

/-- The leaving of a waiting order stops the treatment and takes the promotion deadline; the rest is in the queue. -/
theorem Ev.leaveOrder_eq (e : Ev) (y : Nat) (c : Call) : (e.leaveOrder y c).st =
    { (e.st.stopTreatment y).updCall y (fun c => { c with promotion := none }) with queues := (e.leaveOrder y c).st.queues } := by
  unfold Ev.leaveOrder
  exact Ev.evalOpening_frame _ _

theorem Ev.removeCall_gone {y : Nat} {c : Call} (hc : e.st.call? y = some c) (n : CounterName) :
    e.st.CallGone (e.removeCall y c n).st y c n := by
  have left := e.leaveOrder_queue y c
  have whole := e.leaveOrder_eq y c
  have settings := (e.removeCall_engine y c n).settings
  obtain ⟨same, -⟩ := e.st.stopTreatment_rest y
  have stopped := State.stopTreatment_stopped hc
  have link := State.stopTreatment_link hc
  have call := (State.stopTreatment_replaced hc).call
  unfold Ev.removeCall at settings ⊢
  dsimp only [Ev.upd, Ev.updLink] at settings ⊢
  rw [Ev.count_st] at settings ⊢
  constructor
  case settings => exact settings
  case queue =>
    intro q
    simp only [State.freeCall_queue, State.setLink_queue, State.queue_setQueue, left]
    by_cases hq : c.queue = q
    · subst hq; simp
    · simp [hq, Ne.symm hq]
  all_goals
    rw [whole]
    generalize (e.leaveOrder y c).st.queues = qs
  case call =>
    intro z
    rw [State.call?_freeCall, State.setLink_call, State.setQueue_call]
    show (if y = z then none else ((e.st.stopTreatment y).updCall y _).call? z) = _
    by_cases hz : y = z
    · rw [if_pos hz, if_pos hz]
    · rw [if_neg hz, if_neg hz, State.call?_updCall, if_neg hz, call, if_neg hz]
  case agents =>
    constructor
    all_goals simp only [State.freeCall_agents, State.freeCall_available, State.freeCall_recent, State.freeCall_token,
      State.setLink_agents, State.setLink_available, State.setLink_recent, State.setLink_token, State.setQueue_agents,
      State.setQueue_available, State.setQueue_recent, State.setQueue_token, State.updCall_agents, State.updCall_available,
      State.updCall_recent, State.updCall_token, same.agents, same.available, same.recent, same.token]
  case stopped =>
    constructor
    case refs =>
      intro b
      rw [State.freeCall_refs, State.setLink_refs, State.setQueue_refs]
      exact (State.updCall_refs _ _ _ _).trans (stopped.refs b)
    case deferral =>
      intro w
      rw [State.freeCall_highway, State.setLink_highway, State.setQueue_highway]
      exact (congrArg HighwayRec.deferral (State.updCall_highway _ _ _ w)).trans (stopped.deferral w)
    case channel =>
      intro w ts
      rw [State.freeCall_channel, State.setLink_channel, State.setQueue_channel]
      exact (State.updCall_channel _ _ _ w ts).trans (stopped.channel w ts)
    case useCount =>
      intro g
      rw [State.freeCall_useCount, State.setLink_useCount, State.setQueue_useCount]
      exact (State.updCall_useCount _ _ _ g).trans (stopped.useCount g)
    case listens =>
      intro k
      have kept : ∀ u : State, ((u.setLink c.owner { u.link c.owner with
          exitOrder := (u.link c.owner).exitOrder.filter (· != y) }).link k).listenOrder = (u.link k).listenOrder := fun u => by
        rw [State.link_setLink]
        split
        · rename_i h; subst h; rfl
        · rfl
      rw [State.freeCall_link, kept, State.setQueue_link]
      exact (congrArg LinkRec.listenOrder (State.updCall_link _ _ _ k)).trans (stopped.listens k)
    case output =>
      intro w
      rw [State.freeCall_highway, State.setLink_highway, State.setQueue_highway]
      exact (congrArg HighwayRec.output (State.updCall_highway _ _ _ w)).trans (stopped.output w)
  case link =>
    intro k
    have links : ∀ k, State.link { (e.st.stopTreatment y).updCall y (fun c => { c with promotion := none }) with queues := qs } k
        = (e.st.stopTreatment y).link k := fun k => State.updCall_link _ _ _ k
    simp only [State.freeCall_link, State.link_setLink, State.setQueue_link, links, link]
    by_cases hk : c.owner = k
    · subst hk; simp
    · simp [hk, Ne.symm hk]

theorem Ev.removeCall_tells (e : Ev) (y : Nat) (c : Call) (n : CounterName) : e.Tells (e.removeCall y c n) := by
  unfold Ev.removeCall Ev.leaveOrder
  exact (((Ev.Tells.upd _ _).trans (Ev.evalOpening_tells _ _)).trans (Ev.count_tells _ _ _)).trans
    ((Ev.Tells.updLink _ _ _).trans (.upd _ _))

end

end Sys2Proof.Machine
end

section
/-!
PROOF. CALL_WITHDRAW (O45).
-/
namespace Sys2Proof.Machine

open Sys2Proof

section
variable {s t u v : State} {e d : Ev} {l : Link}

/-! ## What the work of an event leaves to its links -/

theorem Engine.onlyTold (h : Engine s t) : s.OnlyTold t :=
  fun k => ⟨congrArg (fun p => p.2.2.1) (h.port k), h.grows k⟩

theorem Engine.sameLinks (h : Engine s t) : s.SameLinks t :=
  ⟨fun k => congrArg (fun p => p.1) (h.port k), fun k => congrArg (fun p => p.2.1) (h.port k),
    fun k => congrArg (fun p => p.2.2.2.1) (h.port k), fun k => congrArg (fun p => p.2.2.2.2.1) (h.port k),
    fun k => congrArg (fun p => p.2.2.2.2.2.1) (h.port k)⟩

theorem State.answered_link (s : State) (l : Link) (r : Request) (status : Status) (result : Result) (k : Link) :
    (s.answered l r status result).link k = { s.link k with
      inbound := if k = l then (s.link k).inbound.tail else (s.link k).inbound
      outbound := (s.link k).outbound ++ (if k = l then [.reply (r.answer status result)] else []) } := by
  rw [State.answered, State.repliedWith, State.link_setLink]
  by_cases h : l = k
  · subst h; simp
  · simp [h, Ne.symm h]

theorem State.answered_settings (s : State) (l : Link) (r : Request) (status : Status) (result : Result) :
    (s.answered l r status result).settings = s.settings := by simp [State.answered, State.repliedWith, State.settings]

/-- The work that follows a reply leaves it behind what stood before it, and notices alone follow. -/
theorem Engine.replied {r : Request} {status : Status} {result : Result} (h : Engine (s.answered l r status result) t) :
    s.Replied t l (r.answer status result) := by
  have told := h.onlyTold
  have link := s.answered_link l r status result
  refine ⟨?_, ?_, fun k hk => ?_⟩
  · rw [(told l).1, link, if_pos rfl]
  · obtain ⟨ns, hn⟩ := (told l).2
    exact ⟨ns, by rw [hn, link, if_pos rfl]; simp⟩
  · obtain ⟨inbound, ns, hn⟩ := told k
    exact ⟨by rw [inbound, link]; exact if_neg hk, ns, by rw [hn, link]; simp [hk]⟩

theorem Engine.answered_settings {r : Request} {status : Status} {result : Result} (h : Engine (s.answered l r status result) t) :
    t.settings = s.settings := h.settings.trans (s.answered_settings l r status result)

theorem Engine.answered_sameLinks {r : Request} {status : Status} {result : Result} (h : Engine (s.answered l r status result) t) :
    s.SameLinks t := by
  have same := h.sameLinks
  have link := s.answered_link l r status result
  exact ⟨fun k => by rw [same.up, link], fun k => by rw [same.receiving, link], fun k => by rw [same.permissions, link],
    fun k => by rw [same.enables, link], fun k => by rw [same.faultCount, link]⟩

theorem State.answered_playout (s : State) (l : Link) (r : Request) (status : Status) (result : Result) :
    s.SamePlayout (s.answered l r status result) := by
  constructor <;> simp [State.answered, State.repliedWith]

theorem State.answered_agents (s : State) (l : Link) (r : Request) (status : Status) (result : Result) :
    s.SameAgents (s.answered l r status result) := by
  constructor <;> simp [State.answered, State.repliedWith]

theorem State.answered_queue (s : State) (l : Link) (r : Request) (status : Status) (result : Result) (q : Nat) :
    (s.answered l r status result).queue q = s.queue q := by simp [State.answered, State.repliedWith]

/-! ## What a removed call has given back -/

theorem State.SamePlayout.heldTimeslot (h : s.SamePlayout v) (w : Highway) (y : Nat) : v.heldTimeslot w y = s.heldTimeslot w y := by
  rw [State.heldTimeslot, h.highways, State.heldTimeslot]

theorem State.SamePlayout.channel (h : s.SamePlayout v) (w : Highway) (ts : Nat) : v.channel w ts = s.channel w ts := by
  rw [State.channel, h.highways, State.channel]

theorem State.SamePlayout.heldSegments (h : s.SamePlayout v) (y : Nat) (c : Call) : v.heldSegments y c = s.heldSegments y c := by
  unfold State.heldSegments
  cases c.owner.highway? with
  | none => rfl
  | some w =>
    dsimp only
    rw [h.heldTimeslot]
    cases s.heldTimeslot w y with
    | none => rfl
    | some ts => dsimp only; rw [h.channel]

theorem State.Notified.playout (h : s.Notified t) : s.SamePlayout t := ⟨h.refs, h.useCounts, h.highway⟩

theorem State.SamePlayout.trans (h : s.SamePlayout v) (k : v.SamePlayout t) : s.SamePlayout t :=
  ⟨fun b => (k.refs b).trans (h.refs b), k.useCounts.trans h.useCounts, fun w => (k.highways w).trans (h.highways w)⟩

/-- A treatment stopped before anything else of the playout has changed. -/
theorem State.TreatmentStopped.after {y : Nat} {c d : Call} (k : v.TreatmentStopped t y d) (h : s.SamePlayout v)
    (listens : ∀ k, (v.link k).listenOrder = (s.link k).listenOrder) (ht : d.treatment = c.treatment) (ho : d.owner = c.owner) :
    s.TreatmentStopped t y c := by
  have segments : v.heldSegments y d = s.heldSegments y c := by
    rw [h.heldSegments, State.heldSegments, ho, State.heldSegments]
  have useCount : ∀ g, v.useCount g = s.useCount g := fun g => by rw [State.useCount, h.useCounts, State.useCount]
  constructor
  · intro b; rw [k.refs, h.refs, ht]
  · intro w; rw [k.deferral, h.highways, ht, ho]
  · intro w ts; rw [k.channel, h.channel, h.heldTimeslot, ht, ho]
  · intro g; rw [k.useCount, useCount, segments, ht]
  · intro j; rw [k.listens, listens, ht, ho]
  · intro w; rw [k.output, h.highways]

/-- A treatment stopped before work that changes nothing of the playout. -/
theorem State.TreatmentStopped.before {y : Nat} {c : Call} (k : s.TreatmentStopped t y c) (h : t.SamePlayout u)
    (listens : ∀ k, (u.link k).listenOrder = (t.link k).listenOrder) : s.TreatmentStopped u y c := by
  constructor
  · intro b; rw [h.refs, k.refs]
  · intro w; rw [h.highways, k.deferral]
  · intro w ts; rw [h.channel, k.channel]
  · intro g; rw [State.useCount, h.useCounts, ← State.useCount, k.useCount]
  · intro j; rw [listens, k.listens]
  · intro w; rw [h.highways, k.output]

theorem State.TreatmentStopped.notified {y : Nat} {c : Call} (k : s.TreatmentStopped t y c) (h : t.Notified u) :
    s.TreatmentStopped u y c := k.before h.playout h.listenOrder

/-! ## Requests about a call (R49, R50) -/

theorem State.Served.withdraw {r : Request} {y : Nat} (h : s.Served l r 0x02 .calls) (hb : readSlot r.body = some y) :
    exec (.callWithdraw l) s = .next ((s.takeHead l).forCall l r y ((s.takeHead l).serveWithdraw l r y)).finish :=
  h.serves (serve := fun r e y => e.forCall l r y (e.serveWithdraw l r y)) h.mine hb rfl

theorem State.takeHead_call (s : State) (l : Link) (y : Nat) : (s.takeHead l).st.call? y = s.call? y :=
  (s.takeHead_same l).call y

/-- A call of the link itself gets the request's own rule. -/
theorem Ev.forCall_own {r : Request} {y : Nat} {c : Call} {serve : Call → Ev} (hc : e.st.call? y = some c) (hy : y < 2048)
    (ho : c.owner = l) : e.forCall l r y serve = serve c := by
  have hm : (if y < Config.callSlots then e.st.call? y else none) = some c := (if_pos hy).trans hc
  unfold Ev.forCall
  rw [hm]
  exact if_pos ho

/-! ## An offer withdrawn from the call side (R77) -/

/-- The available list after an agent's settlement by a withdrawal (R9, R24). -/
def State.withdrawnList (s : State) (x : Nat) : List Nat :=
  if (s.agent x).withdrawn.state = .available then s.restoreSlot x (s.agent x).availSince (s.available.filter (· != x))
  else s.available.filter (· != x)

theorem Agent.withdrawn_state (a : Agent) :
    (a.withdrawn = a.restored ∧ a.withdrawn.state = .available ∧ ∀ n, a.pending ≠ .notReady n)
      ∨ ∃ n, a.pending = .notReady n ∧ a.withdrawn = a.madeNotReady n ∧ a.withdrawn.state ≠ .available := by
  unfold Agent.withdrawn
  cases hp : a.pending with
  | none => exact .inl ⟨rfl, rfl, fun _ h => PendingChange.noConfusion h⟩
  | logout => exact .inl ⟨rfl, rfl, fun _ h => PendingChange.noConfusion h⟩
  | notReady n => exact .inr ⟨n, rfl, rfl, AgentState.noConfusion⟩

/-- The agent of an offer withdrawn from the call side, written out (R9, R24). -/
theorem Agent.offerEnded_withdrawn (a : Agent) : (a.offerEnded .withdrawn).withdrawn = match a.pending with
    | .notReady reason => { a with state := .notReady, reason := reason, pending := .none, offer := none
                                   lastOutcome := some .withdrawn }
    | _ => { a with state := .available, pending := .none, offer := none, lastOutcome := some .withdrawn } := by
  have pending : (a.offerEnded .withdrawn).pending = a.pending := rfl
  unfold Agent.withdrawn
  rw [pending]
  cases a.pending <;> rfl

theorem Agent.withdrawn_since (a : Agent) : a.withdrawn.availSince = a.availSince := by
  unfold Agent.withdrawn
  cases a.pending <;> rfl

theorem State.SameAgents.agent (h : s.SameAgents t) (x : Nat) : t.agent x = s.agent x := by
  rw [State.agent, h.agents, State.agent]

theorem Ev.settleWithdrawn_settled (e : Ev) (x : Nat) (cause : Cause) :
    e.settleWithdrawn x cause = { e with
      st := e.st.settled x (e.st.agent x).withdrawn (e.st.withdrawnList x)
      offered := e.offered ++ e.st.report x (e.st.agent x) (e.st.agent x).withdrawn cause } := by
  have since : ∀ ls z, ((e.st.settled x (e.st.agent x).restored ls).agent z).availSince = (e.st.agent z).availSince :=
    fun ls z => by
      rw [State.settled_agent]
      split
      · rename_i hz; subst hz; rfl
      · rfl
  have restored : (∀ n, (e.st.agent x).pending ≠ .notReady n) → e.settleWithdrawn x cause =
      (e.putAgent x (e.st.agent x).restored cause).upd fun s =>
          { s with available := s.restoreSlot x (e.st.agent x).availSince (dropSlot x s.available) } := fun h => by
    rw [Ev.settleWithdrawn_eq]
    cases hp : (e.st.agent x).pending with
    | none => rfl
    | logout => rfl
    | notReady n => exact absurd hp (h n)
  unfold State.withdrawnList
  rcases (e.st.agent x).withdrawn_state with ⟨hw, ha, hp⟩ | ⟨n, hp, hw, ha⟩
  · have available : (e.st.agent x).restored.state = .available := rfl
    rw [restored hp, Ev.putAgent_eq, if_pos ha, hw, State.availableWith, if_pos available,
      ← State.restoreSlot_congr (since e.st.available)]
    rfl
  · rw [if_neg ha, Ev.settleWithdrawn_eq, hp, hw]
    dsimp only
    rw [Ev.putAgent_eq, State.availableWith, if_neg AgentState.noConfusion]

/-- The state after steps 1 to 5 of a withdrawal from the call side (R77). -/
def State.offerWithdrawn (s : State) (y x : Nat) (h owner : Link) (n : Notice) : State :=
  let u := (s.endOffer y x .withdrawn).offerGivenUp h owner [.notice n]
  u.settled x ((s.agent x).offerEnded .withdrawn).withdrawn (u.withdrawnList x)

theorem Ev.withdrawFromCall_eq {y : Nat} {c : Call} {o : CallOffer} {h : Link} (home : (e.st.agent o.agent).home = some h)
    (hh : 0 < (e.st.link h).reserved) (ho : 0 < (e.st.link c.owner).reserved)
    (twice : h = c.owner → 2 ≤ (e.st.link h).reserved) (cause : Cause) :
    e.withdrawFromCall y c o cause = { (e.markFreed c.owner) with
      st := e.st.offerWithdrawn y o.agent h c.owner (.offerCancel o.token o.agent y .callWithdrawn)
      offered := e.offered ++ e.st.report o.agent ((e.st.agent o.agent).offerEnded .withdrawn)
        ((e.st.agent o.agent).offerEnded .withdrawn).withdrawn cause } := by
  have same := (e.st.endOffer y o.agent .withdrawn).offerGivenUp_same h c.owner [.notice (.offerCancel o.token o.agent y .callWithdrawn)]
  have agent : (((e.st.endOffer y o.agent .withdrawn).offerGivenUp h c.owner
      [.notice (.offerCancel o.token o.agent y .callWithdrawn)])).agent o.agent = (e.st.agent o.agent).offerEnded .withdrawn := by
    rw [same.agent, State.endOffer_agent, if_pos rfl]
  unfold Ev.withdrawFromCall
  dsimp only
  have reporting : e.st.SameReporting ((e.st.endOffer y o.agent .withdrawn).offerGivenUp h c.owner
      [.notice (.offerCancel o.token o.agent y .callWithdrawn)]) :=
    ⟨fun k => by rw [State.link_offerGivenUp, State.endOffer_link], same.tick.trans (by simp [State.endOffer])⟩
  rw [Ev.endAndCancel_eq home hh ho twice, Ev.settleWithdrawn_settled, Ev.markFreed_st, Ev.upd_st, agent, reporting.report]
  unfold State.offerWithdrawn
  cases c.owner <;> rfl

/-- What an offer withdrawn from the call side changes, part by part (R9, R24, R77). -/
theorem State.offerWithdrawn_agent (s : State) (y x : Nat) (h owner : Link) (n : Notice) (z : Nat) :
    (s.offerWithdrawn y x h owner n).agent z = if x = z then ((s.agent x).offerEnded .withdrawn).withdrawn else s.agent z := by
  unfold State.offerWithdrawn
  dsimp only
  rw [State.settled_agent, (State.offerGivenUp_same _ _ _ _).agent, State.endOffer_agent]
  by_cases hz : x = z
  · rw [if_pos hz, if_pos hz]
  · rw [if_neg hz, if_neg hz, if_neg hz]

theorem State.offerWithdrawn_call {y : Nat} {c : Call} (hc : s.call? y = some c) (x : Nat) (h owner : Link) (n : Notice)
    (z : Nat) : (s.offerWithdrawn y x h owner n).call? z = if y = z then some c.offerEnded else s.call? z := by
  unfold State.offerWithdrawn
  dsimp only
  rw [State.settled_call, (State.offerGivenUp_same _ _ _ _).call, (State.endOffer_replaced hc _ _).call]

theorem State.offerWithdrawn_link (s : State) (y x : Nat) (h owner : Link) (n : Notice) (k : Link) :
    (s.offerWithdrawn y x h owner n).link k = { s.link k with
      outbound := (s.link k).outbound ++ (if k = h then [.notice n] else [])
      reserved := (s.link k).reserved - (if k = h then 1 else 0) - (if k = owner then 1 else 0) } := by
  unfold State.offerWithdrawn
  dsimp only
  rw [State.settled_link, State.link_offerGivenUp, State.endOffer_link]

theorem State.offerGivenUp_queue (s : State) (h owner : Link) (es : List OutEntry) (q : Nat) :
    (s.offerGivenUp h owner es).queue q = s.queue q := by simp [State.offerGivenUp]

theorem State.endOffer_queue (s : State) (y x : Nat) (outcome : OfferOutcome) (q : Nat) :
    (s.endOffer y x outcome).queue q = s.queue q := by simp [State.endOffer]

theorem State.offerWithdrawn_queue (s : State) (y x : Nat) (h owner : Link) (n : Notice) (q : Nat) :
    (s.offerWithdrawn y x h owner n).queue q
      = (s.queue q).reweighed q (s.agent x) ((s.agent x).offerEnded .withdrawn).withdrawn := by
  unfold State.offerWithdrawn
  dsimp only
  rw [State.settled_queue, State.offerGivenUp_queue, State.endOffer_queue, (State.offerGivenUp_same _ _ _ _).agent,
    State.endOffer_agent, if_pos rfl]
  rfl

theorem State.SamePlayout.endOffer (s : State) (y x : Nat) (outcome : OfferOutcome) : s.SamePlayout (s.endOffer y x outcome) := by
  constructor <;> simp [State.endOffer]

theorem State.SamePlayout.offerGivenUp (s : State) (h owner : Link) (es : List OutEntry) :
    s.SamePlayout (s.offerGivenUp h owner es) := by
  constructor <;> simp [State.offerGivenUp]

theorem State.SamePlayout.settled (s : State) (x : Nat) (new : Agent) (ls : List Nat) : s.SamePlayout (s.settled x new ls) := by
  rw [State.settled_eq]
  exact ⟨fun b => by cases b <;> rfl, rfl, fun w => by cases w <;> rfl⟩

theorem State.offerWithdrawn_playout (s : State) (y x : Nat) (h owner : Link) (n : Notice) :
    s.SamePlayout (s.offerWithdrawn y x h owner n) :=
  ((State.SamePlayout.endOffer _ _ _ _).trans (.offerGivenUp _ _ _ _)).trans (.settled _ _ _ _)

theorem State.offerWithdrawn_rest (s : State) (y x : Nat) (h owner : Link) (n : Notice) :
    (s.offerWithdrawn y x h owner n).recent = s.recent ∧ (s.offerWithdrawn y x h owner n).token = s.token := by
  unfold State.offerWithdrawn
  rw [State.settled_eq]
  simp [State.offerGivenUp, State.endOffer]

/-- The list that the withdrawal leaves: the agent in its old place, or out of it (R9). -/
theorem State.offerWithdrawn_available (s : State) (y x : Nat) (h owner : Link) (n : Notice) :
    (s.offerWithdrawn y x h owner n).available =
      let rest := s.available.filter (· != x)
      if ((s.agent x).offerEnded .withdrawn).withdrawn.state = .available then
        let stays (z : Nat) : Bool := !decide (0 < ((s.agent z).availSince - (s.agent x).availSince).toInt)
        rest.takeWhile stays ++ x :: rest.dropWhile stays
      else rest := by
  have same := (s.endOffer y x .withdrawn).offerGivenUp_same h owner [.notice n]
  have agent : ((s.endOffer y x .withdrawn).offerGivenUp h owner [.notice n]).agent x = (s.agent x).offerEnded .withdrawn := by
    rw [same.agent, State.endOffer_agent, if_pos rfl]
  have since : ∀ z, (((s.endOffer y x .withdrawn).offerGivenUp h owner [.notice n]).agent z).availSince = (s.agent z).availSince := fun z => by
    rw [same.agent, State.endOffer_agent]
    split
    · rename_i hz; subst hz; rfl
    · rfl
  show State.withdrawnList _ x = _
  rw [State.withdrawnList, State.restoreSlot_congr since, agent, same.available, State.endOffer_available, State.restoreSlot_eq]
  rfl

/-! ## The two ways in which a call is withdrawn (R49, R77) -/

/-- A call of the link gets the rule of CALL_WITHDRAW. -/
theorem State.Served.withdraw_own {r : Request} {y : Nat} {c : Call} (h : s.Served l r 0x02 .calls) (hb : readSlot r.body = some y)
    (hc : s.call? y = some c) (hy : y < 2048) (ho : c.owner = l) :
    exec (.callWithdraw l) s = .next ((s.takeHead l).serveWithdraw l r y c).finish := by
  rw [h.withdraw hb, Ev.forCall_own ((s.takeHead_call l y).trans hc) hy ho]

/-- A WAITING call is removed, and its notices end the event. -/
theorem State.Served.withdraw_waiting {r : Request} {y : Nat} {c : Call} (h : s.Served l r 0x02 .calls)
    (hb : readSlot r.body = some y) (hc : s.call? y = some c) (hy : y < 2048) (ho : c.owner = l) (hs : c.state = .waiting) :
    ∃ u t, exec (.callWithdraw l) s = .next t ∧ (s.answered l r .done .bare).CallGone u y c .abandoned ∧ u.Notified t
      ∧ Engine (s.answered l r .done .bare) t := by
  have st := s.takeHead_reply l r .done .bare
  have quiet := (s.takeHead_quiet l).reply l r .done .bare
  rw [h.withdraw_own hb hc hy ho, Ev.serveWithdraw, hs]
  dsimp only
  generalize (s.takeHead l).reply l r .done .bare = e at st quiet ⊢
  have tells := e.removeCall_tells y c .abandoned
  refine ⟨(e.removeCall y c .abandoned).st, _, rfl, ?_, ?_, ?_⟩
  · rw [← st]
    exact Ev.removeCall_gone (by rw [st, (s.answered_same l r .done .bare).call, hc]) .abandoned
  · rw [Ev.finish_unfreed (tells.freedA.trans quiet.freedA) (tells.freedB.trans quiet.freedB)]
    exact State.delivered_notified _ _
  · rw [← st]
    exact (e.removeCall_engine y c .abandoned).trans (Ev.finish_engine _)

/-- An OFFERING call that waits alone, on a link on which nothing else waits. -/
structure State.WithdrawsAlone (s : State) (l : Link) (y : Nat) (c : Call) (o : CallOffer) (h : Link) : Prop where
  call : s.call? y = some c
  owner : c.owner = l
  offering : c.state = .offering
  offer : c.offer = some o
  home : (s.agent o.agent).home = some h
  alone : s.WaitsAlone y
  nothing : s.NothingWaits l
  homeEntry : 0 < (s.link h).reserved
  ownerEntry : 0 < (s.link l).reserved
  twice : h = l → 2 ≤ (s.link h).reserved

/-- The state after the withdrawal of an offer that the request has been answered for. -/
def State.withdrawnFrom (s : State) (l : Link) (r : Request) (y : Nat) (o : CallOffer) (h : Link) : State :=
  (s.answered l r .done .bare).offerWithdrawn y o.agent h l (.offerCancel o.token o.agent y .callWithdrawn)

theorem State.withdrawnFrom_queue (s : State) (r : Request) (y : Nat) (o : CallOffer) (h : Link) (q : Nat) :
    (s.withdrawnFrom l r y o h).queue q
      = (s.reweigh (s.agent o.agent) ((s.agent o.agent).offerEnded .withdrawn).withdrawn).queue q := by
  rw [State.withdrawnFrom, State.offerWithdrawn_queue, State.answered_queue, (s.answered_same l r .done .bare).agent,
    State.reweigh_queue]

theorem State.withdrawnFrom_playout (s : State) (r : Request) (y : Nat) (o : CallOffer) (h : Link) :
    s.SamePlayout (s.withdrawnFrom l r y o h) := (s.answered_playout l r .done .bare).trans (State.offerWithdrawn_playout _ _ _ _ _ _)

/-- The offer is withdrawn, the call removed, and no other work follows. -/
theorem State.WithdrawsAlone.served {r : Request} {y : Nat} {c : Call} {o : CallOffer} {h : Link} (k : s.WithdrawsAlone l y c o h)
    (served : s.Served l r 0x02 .calls) (hb : readSlot r.body = some y) (hy : y < 2048) :
    ∃ u t, exec (.callWithdraw l) s = .next t ∧ (s.withdrawnFrom l r y o h).CallGone u y c.offerEnded .abandoned ∧ u.Notified t
      ∧ Engine (s.answered l r .done .bare) t := by
  have same := s.answered_same l r .done .bare
  have st := s.takeHead_reply l r .done .bare
  have quiet := (s.takeHead_quiet l).reply l r .done .bare
  have reserved := s.answered_reserved l r .done .bare
  have link := s.answered_link l r .done .bare
  rw [served.withdraw_own hb k.call hy k.owner, Ev.serveWithdraw, k.offering]
  dsimp only
  rw [k.offer]
  dsimp only
  generalize State.callCause _ o.agent l = cause
  generalize (s.takeHead l).reply l r .done .bare = e at st quiet ⊢
  have withdrawn := Ev.withdrawFromCall_eq (e := e) (y := y) (c := c) (o := o) (h := h) (by rw [st, same.agent, k.home])
    (by rw [st, reserved]; exact k.homeEntry) (by rw [st, reserved, k.owner]; exact k.ownerEntry)
    (fun n => by rw [st, reserved]; exact k.twice (n.trans k.owner)) cause
  have engine := e.withdrawFromCall_engine y c o cause
  generalize e.withdrawFromCall y c o cause = f at withdrawn engine ⊢
  have fst : f.st = s.withdrawnFrom l r y o h := by
    rw [withdrawn, st, k.owner]
    rfl
  have hcf : f.st.call? y = some c.offerEnded := by
    rw [fst, State.withdrawnFrom, State.offerWithdrawn_call ((same.call y).trans k.call), if_pos rfl]
  have gone := Ev.removeCall_gone hcf .abandoned
  rw [Ev.removeCall_offerEnded, fst] at gone
  have tells := f.removeCall_tells y c .abandoned
  have engine := (engine.trans (f.removeCall_engine y c .abandoned)).trans ((Ev.agentAttempt_engine _ o.agent).trans (Ev.finish_engine _))
  generalize f.removeCall y c .abandoned = g at gone tells engine ⊢
  have absent : ∀ q, ∀ z ∈ (g.st.queue q).order, g.st.call? z = none := fun q z hz => by
    have member : z ∈ ((s.withdrawnFrom l r y o h).queue q).order := by
      rw [gone.queue] at hz
      split at hz
      · exact List.mem_of_mem_filter hz
      · exact hz
    rw [State.withdrawnFrom_queue, (State.reweigh_same _ _ _).order] at member
    rw [gone.call, if_pos (k.alone q z member).symm]
  have waits : ∀ j, g.Freed j → g.st.NothingWaits j := fun j hj => by
    have freed : (e.markFreed c.owner).Freed j := by
      rw [tells.freed, withdrawn] at hj
      cases j <;> exact hj
    have hjl : j = l := ((Ev.freed_markFreed freed).resolve_left (quiet.freed j)).trans k.owner
    subst hjl
    refine ⟨?_, ?_, fun w hw => ?_⟩
    · rw [gone.link, State.withdrawnFrom, State.offerWithdrawn_link, link, k.nothing.exits]; simp
    · rw [gone.link, State.withdrawnFrom, State.offerWithdrawn_link, link, k.nothing.listens]; simp
    · rw [gone.stopped.deferral, (s.withdrawnFrom_playout r y o h).highways, k.nothing.deferral w hw]; simp
  refine ⟨g.st, _, rfl, gone, ?_, st ▸ engine⟩
  rw [Ev.agentAttempt_idle fun _ q => .inr (absent q), Ev.finish_idle waits (.of_absent absent)]
  exact State.delivered_notified _ _

end

/-- Settles O45: the checks, the removal of a WAITING call, and the withdrawal of an offer before the removal. -/
theorem callWithdrawRemovesCall : Obligations.CallWithdrawRemovesCall := by
  intro l r s y h hb
  have call := s.takeHead_call l
  have same := s.answered_same l r .done .bare
  have agents := s.answered_agents l r .done .bare
  have link := s.answered_link l r .done .bare
  refine ⟨fun out => ?_, fun c hc hy => ⟨fun ho => ?_, fun ho hs => ?_, fun ho hs => ?_, ?_⟩⟩
  · have none : (if y < Config.callSlots then (s.takeHead l).st.call? y else none) = none := by
      split
      · rename_i hy; exact (call y).trans (out.resolve_left (not_le.2 hy))
      · rfl
    rw [h.withdraw hb, Ev.forCall, none, State.takeHead_reply_finish]
  · have found : (if y < Config.callSlots then (s.takeHead l).st.call? y else none) = some c := (if_pos hy).trans ((call y).trans hc)
    rw [h.withdraw hb, Ev.forCall, found]
    dsimp only
    rw [if_neg ho, State.takeHead_reply_finish]
  · rw [h.withdraw_own hb hc hy ho, Ev.serveWithdraw, hs]
    dsimp only
    rw [State.takeHead_reply_finish]
  · obtain ⟨u, t, run, gone, notified, engine⟩ := h.withdraw_waiting hb hc hy ho hs
    refine ⟨t, run, engine.replied, ?_, fun z hz => ?_, ?_, engine.answered_settings, engine.answered_sameLinks, ?_, fun q hq => ?_, ?_,
      fun k => ⟨?_, ?_⟩⟩
    · rw [notified.call, gone.call, if_pos rfl]
    · rw [notified.call, gone.call, if_neg (Ne.symm hz), same.call]
    · exact ⟨by rw [notified.agents, gone.agents.agents, agents.agents], by rw [notified.available, gone.agents.available, agents.available],
        by rw [notified.recent, gone.agents.recent, agents.recent], by rw [notified.token, gone.agents.token, agents.token]⟩
    · exact (gone.stopped.after (s.answered_playout l r .done .bare) (fun k => by rw [link]) rfl rfl).notified notified
    · rw [notified.queue, gone.queue, if_neg hq, State.answered_queue]
    · rw [notified.queue, gone.queue, if_pos rfl, State.answered_queue]
    · rw [notified.reserved, gone.link, link]
    · rw [notified.exitOrder, gone.link, link, ho]
  · intro o h' new ho hs hoff _ home alone nothing hh hl twice hnew
    obtain ⟨u, t, run, gone, notified, engine⟩ :=
      State.WithdrawsAlone.served ⟨hc, ho, hs, hoff, home, alone, nothing, hh, hl, twice⟩ h hb hy
    have hm : (s.answered l r .done .bare).call? y = some c := (same.call y).trans hc
    have new_eq : new = ((s.agent o.agent).offerEnded .withdrawn).withdrawn := by
      rw [Agent.offerEnded_withdrawn]
      cases hp : (s.agent o.agent).pending with
      | none => rw [hp] at hnew; exact hnew
      | notReady n => rw [hp] at hnew; exact hnew
      | logout => rw [hp] at hnew; exact hnew
    obtain ⟨recent, token⟩ := (s.answered l r .done .bare).offerWithdrawn_rest y o.agent h' l (.offerCancel o.token o.agent y .callWithdrawn)
    refine ⟨t, run, engine.replied, ?_, fun z hz => ?_, engine.answered_settings, engine.answered_sameLinks, ?_, ?_, ?_, fun x => ?_,
      ?_, fun q => ?_, ?_, fun k => ?_⟩
    · rw [notified.call, gone.call, if_pos rfl]
    · rw [notified.call, gone.call, if_neg (Ne.symm hz), State.withdrawnFrom, State.offerWithdrawn_call hm, if_neg (Ne.symm hz),
        same.call]
    · refine (gone.stopped.after (c := c) (s.withdrawnFrom_playout r y o h') (fun k => ?_) rfl rfl).notified notified
      rw [State.withdrawnFrom, State.offerWithdrawn_link, link]
    · rw [notified.recent, gone.agents.recent]
      exact recent.trans agents.recent
    · rw [notified.token, gone.agents.token]
      exact token.trans agents.token
    · rw [notified.agent, gone.agents.agent, State.withdrawnFrom, State.offerWithdrawn_agent, same.agent, same.agent, new_eq]
      simp only [eq_comm]
    · rw [notified.available, gone.agents.available, State.withdrawnFrom, State.offerWithdrawn_available]
      simp only [same.available, same.agent, new_eq, Agent.withdrawn_since]
      rfl
    · rw [notified.queue, gone.queue, State.withdrawnFrom_queue, new_eq]
      rfl
    · obtain ⟨ns, d, hn⟩ := notified.link h'
      refine ⟨ns, ?_⟩
      rw [hn, gone.link, State.withdrawnFrom, State.offerWithdrawn_link, link]
      simp
    · rw [notified.reserved, gone.link, State.withdrawnFrom, State.offerWithdrawn_link, link]

end Sys2Proof.Machine
end

section
/-!
PROOF. The failure of an offer by its agent (O48).
-/
namespace Sys2Proof.Machine

open Sys2Proof

section
variable {s t u v : State} {e d : Ev} {l : Link}

/-! ## The end of a failed offer on the links (R58, R74, R75) -/

/-- An event goes on in a state, with no more notices to give out, and with space freed on the links of an offer alone. -/
structure Ev.GivesUp (e d : Ev) (u : State) (h owner : Link) : Prop where
  st : d.st = u
  offered : d.offered = e.offered
  freed : ∀ k, d.Freed k → e.Freed k ∨ k = h ∨ k = owner

theorem Ev.failedLinks {x y : Nat} {owner h : Link} {o : CallOffer} (hx : o.agent = x) (home : (e.st.agent x).home = some h)
    (hh : 0 < (e.st.link h).reserved) (ho : 0 < (e.st.link owner).reserved) (twice : owner = h → 2 ≤ (e.st.link h).reserved)
    (outcome : OfferOutcome) :
    let f := e.upd fun s => s.endOffer y o.agent outcome
    e.GivesUp ((if outcome = .expired then f.cancelOffer o y .ringExpired else f.releaseHome o.agent).releaseReservation owner)
      ((e.st.endOffer y x outcome).offerGivenUp h owner
        (if outcome = .expired then [.notice (.offerCancel o.token x y .ringExpired)] else [])) h owner := by
  subst hx
  dsimp only
  split
  · rw [Ev.endAndCancel_eq home hh ho fun k => twice k.symm]
    refine ⟨Ev.markFreed_st _ _, Ev.markFreed_offered _ _, fun k hk => ?_⟩
    rcases Ev.freed_markFreed hk with hk | hk
    · exact .inl ((Ev.Tells.upd e _).freed k |>.1 hk)
    · exact .inr (.inr hk)
  · have released : (e.upd fun s => s.endOffer y o.agent outcome).releaseHome o.agent
        = (e.upd fun s => s.endOffer y o.agent outcome).releaseReservation h := by
      rw [Ev.releaseHome, Ev.upd_st, State.endOffer_agent, if_pos rfl, show ((e.st.agent o.agent).offerEnded outcome).home = some h
        from home]
    rw [released, Ev.releaseReservation_eq (l := h) (by rw [Ev.upd_st, State.endOffer_link]; exact hh), Ev.releaseReservation_eq]
    · refine ⟨?_, ?_, fun k hk => ?_⟩
      · simp only [Ev.markFreed_st, Ev.upd_st, State.offerGivenUp, List.append_nil]
      · simp only [Ev.markFreed_offered, Ev.upd_offered]
      · rcases Ev.freed_markFreed hk with hk | hk
        · rw [(Ev.Tells.upd _ _).freed] at hk
          rcases Ev.freed_markFreed hk with hk | hk
          · exact .inl (((Ev.Tells.upd e _).trans (.upd _ _)).freed k |>.1 hk)
          · exact .inr (.inl hk)
        · exact .inr (.inr hk)
    · simp only [Ev.markFreed_st, Ev.upd_st, State.link_setLink, State.endOffer_link]
      split
      · rename_i hk
        have := twice hk.symm
        show 0 < (e.st.link h).reserved - 1
        omega
      · exact ho

/-! ## The agent of a failed offer (R25, R26) -/

/-- The available list after an agent's settlement by a failure (R26). -/
def State.failedList (s : State) (x : Nat) (new : Agent) : List Nat :=
  if new.state = .available then s.available.filter (· != x) ++ [x] else s.available.filter (· != x)

theorem Ev.settleFailed_settled (e : Ev) (x : Nat) (cause : Cause) :
    let new := (e.st.agent x).failedOffer e.st.tick
    e.settleFailed x cause = { e with
      st := e.st.settled x new (e.st.failedList x new)
      offered := e.offered ++ e.st.report x (e.st.agent x) new cause } := by
  dsimp only
  unfold State.failedList Ev.settleFailed
  split
  · rename_i h; rw [Ev.putAgentAtTail_eq _ _ _ _ h]
  · rename_i h; rw [Ev.putAgentAtTail, if_neg h, Ev.putAgent_eq, State.availableWith, if_neg h]

/-- RONA counted and the agent settled (R74 steps 5 and 6). -/
def State.failureSettled (s : State) (q x : Nat) : State :=
  let u := s.setQueue q ((s.queue q).counted .rona)
  u.settled x ((s.agent x).failedOffer s.tick) (s.failedList x ((s.agent x).failedOffer s.tick))

theorem Ev.failureSettled_eq (e : Ev) (q x : Nat) (cause : Cause) :
    ((e.count q .rona).settleFailed x cause).st = e.st.failureSettled q x
      ∧ e.Tells ((e.count q .rona).settleFailed x cause) := by
  rw [Ev.settleFailed_settled]
  refine ⟨?_, (e.count_tells q .rona).trans ⟨⟨_, rfl⟩, rfl, rfl⟩⟩
  dsimp only
  rw [Ev.count_st]
  rfl

theorem State.failureSettled_agent (s : State) (q x z : Nat) :
    (s.failureSettled q x).agent z = if x = z then (s.agent x).failedOffer s.tick else s.agent z := State.settled_agent _ _ _ _ _

theorem State.failureSettled_call (s : State) (q x y : Nat) : (s.failureSettled q x).call? y = s.call? y := State.settled_call _ _ _ _ _

theorem State.failureSettled_link (s : State) (q x : Nat) (k : Link) : (s.failureSettled q x).link k = s.link k :=
  (State.settled_link _ _ _ _ _).trans (State.setQueue_link _ _ _ _)

theorem State.failureSettled_queue (s : State) (q x p : Nat) : (s.failureSettled q x).queue p =
    (if p = q then (s.queue p).counted .rona else s.queue p).reweighed p (s.agent x) ((s.agent x).failedOffer s.tick) := by
  unfold State.failureSettled
  rw [State.settled_queue, State.queue_setQueue, State.setQueue_agent]
  by_cases h : q = p
  · subst h; simp
  · simp [h, Ne.symm h]

theorem State.failureSettled_playout (s : State) (q x : Nat) : s.SamePlayout (s.failureSettled q x) := by
  refine State.SamePlayout.trans (v := s.setQueue q ((s.queue q).counted .rona)) ?_ (.settled _ _ _ _)
  constructor <;> simp

theorem State.failureSettled_available (s : State) (q x : Nat) :
    (s.failureSettled q x).available = s.failedList x ((s.agent x).failedOffer s.tick) := rfl

theorem State.failureSettled_pattern (s : State) (q x : Nat) (b : Bank) (p : Nat) :
    (s.failureSettled q x).pattern b p = s.pattern b p := by
  unfold State.failureSettled
  rw [State.settled_eq]
  cases b <;> rfl

theorem State.failureSettled_rest (s : State) (q x : Nat) :
    (s.failureSettled q x).recent = s.recent ∧ (s.failureSettled q x).token = s.token := by
  unfold State.failureSettled
  rw [State.settled_eq]
  exact ⟨rfl, rfl⟩

/-! ## What a failure leaves of the agents and the links -/

/-- The agents, the clock, the reservations and the waiting work of the links are as they were. -/
structure State.SameSide (s t : State) : Prop where
  agents : s.SameAgents t
  tick : t.tick = s.tick
  reserved : ∀ k, (t.link k).reserved = (s.link k).reserved
  exits : ∀ k, (t.link k).exitOrder = (s.link k).exitOrder
  listens : ∀ k, (t.link k).listenOrder = (s.link k).listenOrder

/-- What a failed offer leaves of the agents and the links, with `new` for the record of its agent. -/
structure State.FailureShown (s t : State) (x : Nat) (h owner : Link) (new : Agent) : Prop where
  agent : ∀ z, t.agent z = if z = x then new else s.agent z
  available : t.available = if new.state = .available then [x] else []
  recent : t.recent = s.recent
  token : t.token = s.token
  reserved : ∀ k, (t.link k).reserved = (s.link k).reserved - (if k = owner then 1 else 0) - (if k = h then 1 else 0)
  exits : ∀ k, (t.link k).exitOrder = (s.link k).exitOrder
  listens : ∀ k, (t.link k).listenOrder = (s.link k).listenOrder

theorem State.FailureShown.andThen {x : Nat} {h owner : Link} {new : Agent} (k : s.FailureShown t x h owner new)
    (m : t.SameSide u) : s.FailureShown u x h owner new where
  agent z := (m.agents.agent z).trans (k.agent z)
  available := m.agents.available.trans k.available
  recent := m.agents.recent.trans k.recent
  token := m.agents.token.trans k.token
  reserved j := (m.reserved j).trans (k.reserved j)
  exits j := (m.exits j).trans (k.exits j)
  listens j := (m.listens j).trans (k.listens j)

/-- The agent is settled at any time after the offer's end and the links' share of it. -/
theorem State.FailureShown.of_settled {x y q : Nat} {h owner : Link} {outcome : OfferOutcome} {es : List OutEntry}
    (none : s.available = []) (k : ((s.endOffer y x outcome).offerGivenUp h owner es).SameSide t) :
    s.FailureShown (t.failureSettled q x) x h owner (((s.agent x).offerEnded outcome).failedOffer s.tick) := by
  have same := (s.endOffer y x outcome).offerGivenUp_same h owner es
  have agent : ∀ z, t.agent z = if x = z then (s.agent x).offerEnded outcome else s.agent z := fun z => by
    rw [k.agents.agent, same.agent, State.endOffer_agent]
  have tick : t.tick = s.tick := k.tick.trans (same.tick.trans (by simp [State.endOffer]))
  have available : t.available = [] := k.agents.available.trans (same.available.trans ((s.endOffer_available y x outcome).trans none))
  obtain ⟨recent, token⟩ := t.failureSettled_rest q x
  constructor
  · intro z
    rw [State.failureSettled_agent, agent x, if_pos rfl, tick, agent]
    by_cases hz : x = z
    · subst hz; simp
    · simp [hz, Ne.symm hz]
  · rw [State.failureSettled_available, State.failedList, agent x, if_pos rfl, tick, available]
    rfl
  · rw [recent, k.agents.recent]; simp [State.offerGivenUp, State.endOffer]
  · rw [token, k.agents.token]; simp [State.offerGivenUp, State.endOffer]
  · intro j
    rw [State.failureSettled_link, k.reserved, State.link_offerGivenUp, State.endOffer_link]
    exact Nat.sub_right_comm _ _ _
  · intro j; rw [State.failureSettled_link, k.exits, State.link_offerGivenUp, State.endOffer_link]
  · intro j; rw [State.failureSettled_link, k.listens, State.link_offerGivenUp, State.endOffer_link]

theorem State.qualified_congr {a b : Agent} (skills : a.skills = b.skills)
    (config : ∀ q, (t.queue q).config = (s.queue q).config) (q : Nat) : t.qualified a q = s.qualified b q := by
  rw [State.qualified, State.qualified, skills]
  simp only [config]

/-- No offer follows a failure whose agent does not come back AVAILABLE or is qualified for no queue. -/
theorem State.FailureShown.unqualified {x : Nat} {h owner : Link} {new : Agent} (k : s.FailureShown t x h owner new)
    (config : ∀ q, (t.queue q).config = (s.queue q).config) (skills : new.skills = (s.agent x).skills)
    (out : new.state = .available → ∀ q, s.qualified (s.agent x) q = false) :
    t.Offerless ∧ ((t.agent x).state = .available → ∀ q, t.qualified (t.agent x) q = false) := by
  have agent : t.agent x = new := (k.agent x).trans (if_pos rfl)
  have mine : new.state = .available → ∀ q, t.qualified (t.agent x) q = false := fun hn q => by
    rw [agent, State.qualified_congr skills config, out hn q]
  refine ⟨.of_unqualified fun z hz q => ?_, fun hx => mine (agent ▸ hx)⟩
  rw [k.available] at hz
  split at hz
  · rename_i hn
    rw [List.mem_singleton.1 hz]
    exact mine hn q
  · cases hz

theorem State.settled_config (s : State) (x : Nat) (new : Agent) (ls : List Nat) (q : Nat) :
    ((s.settled x new ls).queue q).config = (s.queue q).config := by
  rw [State.settled_queue, ← State.reweigh_queue]
  exact (s.reweigh_weightsOnly _ _).engine.config q

theorem State.failureSettled_config (s : State) (q x p : Nat) : ((s.failureSettled q x).queue p).config = (s.queue p).config := by
  refine (State.settled_config _ _ _ _ _).trans ?_
  rw [State.queue_setQueue]
  split
  · rename_i h; subst h; rfl
  · rfl

/-! ## The three ways in which a failure ends (R51, R81, R135) -/

/-- An offer that can fail with no other work after it. -/
structure State.FailingOffer (s : State) (x y : Nat) (c : Call) (o : CallOffer) (h : Link) : Prop where
  named : o.agent = x
  home : (s.agent x).home = some h
  call : s.call? y = some c
  available : s.available = []
  homeIdle : s.NothingWaits h
  ownerIdle : s.NothingWaits c.owner
  ownerEntry : 0 < (s.link c.owner).reserved
  homeEntry : 0 < (s.link h).reserved
  twice : c.owner = h → 2 ≤ (s.link h).reserved

/-- The entries that a failure puts on the agent's home link (R75). -/
def failureEntries (o : CallOffer) (x y : Nat) (outcome : OfferOutcome) : List OutEntry :=
  if outcome = .expired then [.notice (.offerCancel o.token x y .ringExpired)] else []

/-- The state after the end of a failed offer and its share of the links (R74 steps 1 to 3). -/
def State.offerFailed (s : State) (x y : Nat) (c : Call) (o : CallOffer) (h : Link) (outcome : OfferOutcome) : State :=
  (s.endOffer y x outcome).offerGivenUp h c.owner (failureEntries o x y outcome)

/-- A call whose offer has failed, charged with a redirect (R51). -/
def Call.charged (c : Call) : Call := { c.offerEnded with redirects := c.redirects + 1 }

/-- A CALL_EXIT queued on a link. -/
def State.exitTold (s : State) (y : Nat) (c : Call) (reason : Nat) : State :=
  s.setLink c.owner { s.link c.owner with outbound := (s.link c.owner).outbound ++ [.notice (.callExit y c.ref reason)] }

theorem Ev.exitCall_eq {y : Nat} {c : Call} {reason : Nat} (free : 0 < e.st.freeNotices c.owner) :
    e.exitCall y c reason = (e.upd fun s => s.exitTold y c reason).removeCall y c .exited := by
  rw [Ev.exitCall, if_pos free, Ev.queueNotice, if_pos free]
  rfl

section
variable {x y : Nat} {c : Call} {o : CallOffer} {h : Link}

theorem State.FailingOffer.failed_call (k : s.FailingOffer x y c o h) (outcome : OfferOutcome) (z : Nat) :
    (s.offerFailed x y c o h outcome).call? z = if y = z then some c.offerEnded else s.call? z := by
  rw [State.offerFailed, (State.offerGivenUp_same _ _ _ _).call, (State.endOffer_replaced k.call _ _).call]

theorem State.offerFailed_link (s : State) (outcome : OfferOutcome) (k : Link) :
    (s.offerFailed x y c o h outcome).link k = { s.link k with
      outbound := (s.link k).outbound ++ (if k = h then failureEntries o x y outcome else [])
      reserved := (s.link k).reserved - (if k = h then 1 else 0) - (if k = c.owner then 1 else 0) } := by
  rw [State.offerFailed, State.link_offerGivenUp, State.endOffer_link]

theorem State.offerFailed_queue (s : State) (outcome : OfferOutcome) (q : Nat) :
    (s.offerFailed x y c o h outcome).queue q = s.queue q := by
  rw [State.offerFailed, State.offerGivenUp_queue, State.endOffer_queue]

theorem State.offerFailed_playout (s : State) (outcome : OfferOutcome) : s.SamePlayout (s.offerFailed x y c o h outcome) :=
  (State.SamePlayout.endOffer _ _ _ _).trans (.offerGivenUp _ _ _ _)

/-- The owner link of a failed offer has a free notice entry again. -/
theorem State.FailingOffer.free (k : s.FailingOffer x y c o h) (outcome : OfferOutcome) (up : (s.link c.owner).up = true)
    (kept : (s.link c.owner).SpaceKept) : 0 < (s.offerFailed x y c o h outcome).freeNotices c.owner := by
  have entries : LinkRec.noticeCount { s.link c.owner with outbound := failureEntries o x y outcome } ≤ 1 := by
    unfold failureEntries
    split
    · exact le_refl 1
    · exact Nat.zero_le 1
  have space := kept.1
  have ownerEntry := k.ownerEntry
  have twice := k.twice
  simp only [State.freeNotices, State.offerFailed_link, LinkRec.freeNotices, up, if_true, LinkRec.noticeCount, List.countP_append,
    Config.noticeEntries] at entries space ⊢
  by_cases hk : c.owner = h
  · have := twice hk
    rw [← hk] at this
    simp only [if_pos hk]
    omega
  · simp only [if_neg hk, List.countP_nil]
    omega

/-- What the agent of a failed offer becomes (R25, R26). -/
def Agent.failed (a : Agent) (outcome : OfferOutcome) (now : Tick) : Agent := (a.offerEnded outcome).failedOffer now

theorem Agent.failed_skills (a : Agent) (outcome : OfferOutcome) (now : Tick) : (a.failed outcome now).skills = a.skills := by
  unfold Agent.failed Agent.failedOffer
  dsimp only
  split
  · rfl
  · split <;> rfl

/-- No other offer follows the failure: the agent does not come back AVAILABLE or is qualified for no queue. -/
def State.FailsAlone (s : State) (x : Nat) (outcome : OfferOutcome) : Prop :=
  ((s.agent x).failed outcome s.tick).state = .available → ∀ q, s.qualified (s.agent x) q = false

/-- The event of a failure up to the charge of the redirect, and what follows it (R74, R75, R81). -/
theorem Ev.failOffer_eq (e : Ev) (y : Nat) (c : Call) (o : CallOffer) (outcome : OfferOutcome) (cause : Cause) :
    let f := e.upd fun s => s.endOffer y o.agent outcome
    e.failOffer y c o outcome cause =
      ((((((if outcome = .expired then f.cancelOffer o y .ringExpired else f.releaseHome o.agent).releaseReservation
        c.owner).chargeRedirect y).count c.queue .rona).settleFailed o.agent cause).afterOffer y c.queue o.agent) := rfl

/-- An event whose links and notices stand so after the failure ends with its notices, where no offer follows. -/
theorem State.FailingOffer.ends {q : Nat} {outcome : OfferOutcome} (k : s.FailingOffer x y c o h)
    (alone : s.FailsAlone x outcome) (shown : s.FailureShown d.st x h c.owner ((s.agent x).failed outcome s.tick))
    (config : ∀ q, (d.st.queue q).config = (s.queue q).config)
    (deferral : ∀ w, (s.highway w).deferral = [] → (d.st.highway w).deferral = [])
    (freed : ∀ j, d.Freed j → j = h ∨ j = c.owner) :
    d.st.Notified ((d.queueAttempts q).agentAttempt x).finish := by
  obtain ⟨offerless, mine⟩ := shown.unqualified config (Agent.failed_skills _ _ _) alone
  have waits : ∀ j, d.Freed j → d.st.NothingWaits j := fun j hj => by
    have idle : s.NothingWaits j := by
      rcases freed j hj with hj | hj
      · exact hj ▸ k.homeIdle
      · exact hj ▸ k.ownerIdle
    exact ⟨(shown.exits j).trans idle.exits, (shown.listens j).trans idle.listens, fun w hw => deferral w (idle.deferral w hw)⟩
  rw [Ev.queueAttempts_idle offerless, Ev.agentAttempt_idle fun hx q => .inl (mine hx q), Ev.finish_idle waits offerless]
  exact State.delivered_notified _ _

/-- The event of a failure before the charge of the redirect. -/
theorem State.FailingOffer.begins (k : e.st.FailingOffer x y c o h) (outcome : OfferOutcome) (cause : Cause) :
    ∃ f : Ev, e.GivesUp f (e.st.offerFailed x y c o h outcome) h c.owner ∧ e.failOffer y c o outcome cause
      = (((f.chargeRedirect y).count c.queue .rona).settleFailed x cause).afterOffer y c.queue x := by
  refine ⟨_, Ev.failedLinks k.named k.home k.homeEntry k.ownerEntry k.twice outcome, ?_⟩
  rw [Ev.failOffer_eq, k.named]

theorem Ev.chargeRedirect_below (hc : e.st.call? y = some c) (hr : c.redirects < 7) :
    e.chargeRedirect y = e.upd fun s => s.setCall y { c with redirects := c.redirects + 1 } := by
  rw [Ev.chargeRedirect, hc]
  exact if_pos hr

theorem Ev.chargeRedirect_full (hc : e.st.call? y = some c) (hr : c.redirects = 7) : e.chargeRedirect y = e.exitCall y c 16 := by
  rw [Ev.chargeRedirect, hc]
  exact if_neg (by rw [hr]; exact lt_irrefl _)

theorem State.SamePlayout.setCall (s : State) (y : Nat) (c : Call) : s.SamePlayout (s.setCall y c) :=
  ⟨fun _ => by simp, by simp, fun _ => by simp⟩

theorem State.SameSide.setCall (s : State) (y : Nat) (c : Call) : s.SameSide (s.setCall y c) :=
  ⟨⟨rfl, rfl, rfl, rfl⟩, rfl, fun _ => by simp, fun _ => by simp, fun _ => by simp⟩

theorem State.exitTold_link (s : State) (y : Nat) (c : Call) (reason : Nat) (k : Link) :
    (s.exitTold y c reason).link k = { s.link k with
      outbound := (s.link k).outbound ++ (if k = c.owner then [.notice (.callExit y c.ref reason)] else []) } := by
  rw [State.exitTold, State.link_setLink]
  by_cases hk : c.owner = k
  · subst hk; simp
  · simp [hk, Ne.symm hk]

/-- A call that exits while nothing waits on its link leaves the agents and the links as they are, but for its notice. -/
theorem State.CallGone.exited_sameSide {reason : Nat} {n : CounterName} (gone : (s.exitTold y c reason).CallGone t y c n)
    (exits : (s.link c.owner).exitOrder = []) (listens : (s.link c.owner).listenOrder = []) : s.SameSide t := by
  have rest : s.SameAgents (s.exitTold y c reason) := by constructor <;> simp [State.exitTold]
  have tick : (s.exitTold y c reason).tick = s.tick := by simp [State.exitTold]
  refine ⟨⟨gone.agents.agents.trans rest.agents, gone.agents.available.trans rest.available, gone.agents.recent.trans rest.recent,
    gone.agents.token.trans rest.token⟩, (congrArg Settings.tick gone.settings).trans tick, fun k => ?_, fun k => ?_, fun k => ?_⟩
  · rw [gone.link, State.exitTold_link]
  · rw [gone.link, State.exitTold_link]
    by_cases hk : k = c.owner
    · subst hk; simp [exits]
    · simp [hk]
  · rw [gone.link, State.exitTold_link]
    by_cases hk : k = c.owner
    · subst hk; simp [listens]
    · simp [hk]

/-- A failure that charges a redirect and settles its agent, and nothing else (R74, R75). -/
theorem State.FailingOffer.charged (k : e.st.FailingOffer x y c o h) (quiet : e.Quiet) {outcome : OfferOutcome}
    (alone : e.st.FailsAlone x outcome) (hr : c.redirects < 7) (held : ∀ t, c.treatment = some t → t.state ≠ .held)
    (cause : Cause) :
    (((e.st.offerFailed x y c o h outcome).setCall y c.charged).failureSettled c.queue x).Notified
      (e.failOffer y c o outcome cause).finish := by
  obtain ⟨f, gives, eq⟩ := k.begins outcome cause
  have call : f.st.call? y = some c.offerEnded := by rw [gives.st, k.failed_call, if_pos rfl]
  rw [eq, Ev.chargeRedirect_below call hr]
  obtain ⟨st, tells⟩ := (f.upd fun s => s.setCall y { c.offerEnded with redirects := c.offerEnded.redirects + 1 }).failureSettled_eq
    c.queue x cause
  generalize Ev.settleFailed _ x cause = d at st tells ⊢
  rw [Ev.upd_st, gives.st] at st
  have charged : d.st.call? y = some c.charged := by
    rw [st, State.failureSettled_call, State.call?_setCall, if_pos rfl]
    rfl
  rw [Ev.afterOffer, Ev.runHeldStep_idle charged held]
  rw [← show d.st = ((e.st.offerFailed x y c o h outcome).setCall y c.charged).failureSettled c.queue x from st]
  refine k.ends alone ?_ (fun q => ?_) (fun w hw => ?_) fun j hj => ?_
  · rw [st]
    exact .of_settled k.available (.setCall _ _ _)
  · rw [st, State.failureSettled_config, State.setCall_queue, State.offerFailed_queue]
  · rw [st, (State.failureSettled_playout _ _ _).highways, State.setCall_highway, (State.offerFailed_playout _ _).highways, hw]
  · exact (gives.freed j (((Ev.Tells.upd _ _).freed j).1 ((tells.freed j).1 hj))).resolve_left (quiet.freed j)

theorem State.exitTold_playout (s : State) (y : Nat) (c : Call) (reason : Nat) : s.SamePlayout (s.exitTold y c reason) := by
  constructor <;> simp [State.exitTold]

theorem State.exitTold_queue (s : State) (y : Nat) (c : Call) (reason q : Nat) : (s.exitTold y c reason).queue q = s.queue q := by
  simp [State.exitTold]

/-- The removal of a call looks at its treatment, its owner and its queue alone. -/
theorem State.CallGone.of_call {c' : Call} {n : CounterName} (gone : s.CallGone t y c n) (ht : c.treatment = c'.treatment)
    (ho : c.owner = c'.owner) (hq : c.queue = c'.queue) : s.CallGone t y c' n where
  call := gone.call
  agents := gone.agents
  settings := gone.settings
  stopped := gone.stopped.after ⟨fun _ => rfl, rfl, fun _ => rfl⟩ (fun _ => rfl) ht ho
  queue q := hq ▸ gone.queue q
  link k := by rw [gone.link, ht, ho]

theorem State.CallGone.config {n : CounterName} (gone : s.CallGone t y c n) (q : Nat) :
    (t.queue q).config = (s.queue q).config := by
  rw [gone.queue]
  split <;> rfl

theorem State.CallGone.deferral_nil {n : CounterName} (gone : s.CallGone t y c n) (w : Highway)
    (hw : (s.highway w).deferral = []) : (t.highway w).deferral = [] := by
  rw [gone.stopped.deferral, hw]
  exact ite_self _

theorem Ev.runHeldStep_gone (hc : e.st.call? y = none) : e.runHeldStep y = e := by rw [Ev.runHeldStep, hc]

/-- A failure of a call with 7 redirects makes it exit, before its agent is settled (R51). -/
theorem State.FailingOffer.redirected (k : e.st.FailingOffer x y c o h) (quiet : e.Quiet) {outcome : OfferOutcome}
    (alone : e.st.FailsAlone x outcome) (hr : c.redirects = 7) (up : (e.st.link c.owner).up = true)
    (kept : (e.st.link c.owner).SpaceKept) (cause : Cause) :
    ∃ u, ((e.st.offerFailed x y c o h outcome).exitTold y c 16).CallGone u y c .exited
      ∧ (u.failureSettled c.queue x).Notified (e.failOffer y c o outcome cause).finish := by
  obtain ⟨f, gives, eq⟩ := k.begins outcome cause
  have call : f.st.call? y = some c.offerEnded := by rw [gives.st, k.failed_call, if_pos rfl]
  have free : 0 < f.st.freeNotices c.offerEnded.owner := by rw [gives.st]; exact k.free outcome up kept
  have exits := Ev.exitCall_eq (y := y) (reason := 16) free
  have gone := Ev.removeCall_gone (e := f.upd fun s => s.exitTold y c.offerEnded 16) (y := y) (c := c.offerEnded)
    (by simp [State.exitTold, call, Ev.upd_st]) .exited
  rw [eq, Ev.chargeRedirect_full call hr, exits]
  have told := (f.upd fun s => s.exitTold y c.offerEnded 16).removeCall_tells y c.offerEnded .exited
  generalize (f.upd fun s => s.exitTold y c.offerEnded 16).removeCall y c.offerEnded .exited = g at gone told ⊢
  rw [Ev.upd_st, gives.st] at gone
  have side := gone.exited_sameSide (by rw [State.offerFailed_link]; exact k.ownerIdle.exits)
    (by rw [State.offerFailed_link]; exact k.ownerIdle.listens)
  obtain ⟨st, tells⟩ := g.failureSettled_eq c.queue x cause
  generalize Ev.settleFailed _ x cause = d at st tells ⊢
  refine ⟨g.st, gone.of_call rfl rfl rfl, ?_⟩
  rw [Ev.afterOffer, Ev.runHeldStep_gone (by rw [st, State.failureSettled_call, gone.call, if_pos rfl]), ← st]
  refine k.ends alone ?_ (fun q => ?_) (fun w hw => ?_) fun j hj => ?_
  · rw [st]
    exact .of_settled k.available side
  · rw [st, State.failureSettled_config, gone.config, State.exitTold_queue, State.offerFailed_queue]
  · rw [st, (State.failureSettled_playout _ _ _).highways]
    refine gone.deferral_nil w ?_
    rw [(State.exitTold_playout _ _ _ _).highways, (State.offerFailed_playout _ _).highways, hw]
  · exact (gives.freed j (((Ev.Tells.upd _ _).freed j).1 ((told.freed j).1 ((tells.freed j).1 hj)))).resolve_left (quiet.freed j)

/-- A call that waits with a held EXIT step exits when the step is run (R81, R135). -/
theorem Ev.runHeldStep_exit {t : Treatment} {reason : Nat} (hc : e.st.call? y = some c) (hs : c.state = .waiting)
    (hp : c.exitPending = none) (ht : c.treatment = some t) (held : t.state = .held)
    (step : (e.st.pattern t.bank t.pattern)[t.step]? = some (.exit reason)) : e.runHeldStep y = e.exitCall y c reason := by
  have run : e.runStep 0 y c t = .waits (e.exitCall y c reason) := by
    rw [Ev.runStep, step]
    exact if_neg (by rw [hs]; exact CallState.noConfusion)
  have steps : Ev.runSteps (4095 + 1) 0 y e = e.exitCall y c reason := by
    rw [Ev.runSteps, hc]
    dsimp only
    rw [ht]
    dsimp only
    rw [run]
  rw [Ev.runHeldStep, hc]
  dsimp only
  rw [ht]
  exact (if_pos ⟨hs, hp, held⟩).trans steps

/-- A failure after which a held EXIT step is run makes the call exit, after its agent is settled (R81, R135). -/
theorem State.FailingOffer.held (k : e.st.FailingOffer x y c o h) (quiet : e.Quiet) {outcome : OfferOutcome}
    (alone : e.st.FailsAlone x outcome) (hr : c.redirects < 7) {t : Treatment} {reason : Nat} (hp : c.exitPending = none)
    (ht : c.treatment = some t) (held : t.state = .held)
    (step : (e.st.pattern t.bank t.pattern)[t.step]? = some (.exit reason)) (up : (e.st.link c.owner).up = true)
    (kept : (e.st.link c.owner).SpaceKept) (cause : Cause) :
    ∃ u, ((((e.st.offerFailed x y c o h outcome).setCall y c.charged).failureSettled c.queue x).exitTold y c reason).CallGone u
        y c .exited ∧ u.Notified (e.failOffer y c o outcome cause).finish := by
  obtain ⟨f, gives, eq⟩ := k.begins outcome cause
  have call : f.st.call? y = some c.offerEnded := by rw [gives.st, k.failed_call, if_pos rfl]
  rw [eq, Ev.chargeRedirect_below call hr]
  obtain ⟨st, tells⟩ := (f.upd fun s => s.setCall y { c.offerEnded with redirects := c.offerEnded.redirects + 1 }).failureSettled_eq
    c.queue x cause
  generalize Ev.settleFailed _ x cause = d at st tells ⊢
  rw [Ev.upd_st, gives.st] at st
  have charged : d.st.call? y = some c.charged := by
    rw [st, State.failureSettled_call, State.call?_setCall, if_pos rfl]
    rfl
  have pattern : ∀ b p, d.st.pattern b p = e.st.pattern b p := fun b p => by
    rw [st, State.failureSettled_pattern, State.setCall_pattern, State.offerFailed, State.offerGivenUp, State.setLink_pattern,
      State.setLink_pattern, State.endOffer, State.setAgent_pattern, State.updCall_pattern]
  have free : 0 < d.st.freeNotices c.charged.owner := by
    have := k.free outcome up kept
    rw [State.freeNotices] at this ⊢
    rw [st, State.failureSettled_link, State.setCall_link]
    exact this
  rw [Ev.afterOffer, Ev.runHeldStep_exit charged rfl hp ht held (by rw [pattern, step]), Ev.exitCall_eq free]
  have gone := Ev.removeCall_gone (e := d.upd fun s => s.exitTold y c.charged reason) (y := y) (c := c.charged)
    (by simp [State.exitTold, charged, Ev.upd_st]) .exited
  have told := (d.upd fun s => s.exitTold y c.charged reason).removeCall_tells y c.charged .exited
  generalize (d.upd fun s => s.exitTold y c.charged reason).removeCall y c.charged .exited = g at gone told ⊢
  rw [Ev.upd_st, st] at gone
  have side := gone.exited_sameSide
    (by rw [State.failureSettled_link, State.setCall_link, State.offerFailed_link]; exact k.ownerIdle.exits)
    (by rw [State.failureSettled_link, State.setCall_link, State.offerFailed_link]; exact k.ownerIdle.listens)
  refine ⟨g.st, gone.of_call rfl rfl rfl, k.ends alone ?_ (fun q => ?_) (fun w hw => ?_) fun j hj => ?_⟩
  · exact (State.FailureShown.of_settled k.available (.setCall _ _ _)).andThen side
  · rw [gone.config, State.exitTold_queue, State.failureSettled_config, State.setCall_queue, State.offerFailed_queue]
  · refine gone.deferral_nil w ?_
    rw [(State.exitTold_playout _ _ _ _).highways, (State.failureSettled_playout _ _ _).highways, State.setCall_highway,
      (State.offerFailed_playout _ _).highways, hw]
  · exact (gives.freed j (((Ev.Tells.upd _ _).freed j).1 ((tells.freed j).1 (((Ev.Tells.upd _ _).freed j).1
      ((told.freed j).1 hj))))).resolve_left (quiet.freed j)

end

end

end Sys2Proof.Machine
end

section
/-!
PROOF. A DECLINE and a ring expiry (O48).
-/
namespace Sys2Proof.Machine

open Sys2Proof

section
variable {s t u m : State} {e d : Ev} {l h : Link} {x y : Nat} {c : Call} {o : CallOffer} {before : List OutEntry}

/-! ## The two commands -/

theorem readOfferReply_answer {bytes : List Byte} {b : OfferReplyBody} (hb : readOfferReply bytes = some b) :
    answer? (u8 bytes 4) = some b.accepts := by
  unfold readOfferReply at hb
  split at hb
  · obtain ⟨a, ha, rfl⟩ := Option.map_eq_some_iff.1 hb
    exact ha
  · cases hb

/-- A DECLINE of a current offer fails it after its reply (R71, R74). -/
theorem State.Served.decline {r : Request} (served : s.Served h r 0x0B .agents)
    (hb : readOfferReply r.body = some { slot := x, token := o.token, accepts := false }) (hx : x < 1024)
    (home : (s.agent x).home = some h) (hs : (s.agent x).state = .reserved)
    (hoffer : (s.agent x).offer = some { token := o.token, call := y }) (hc : s.call? y = some c) (hco : c.offer = some o) :
    exec (.decline h) s = .next (((s.takeHead h).reply h r .done (.offerReply x o.token ((s.agent x).failedOffer s.tick).state
      ((s.agent x).failedOffer s.tick).pending)).failOffer y c o .declined .inference).finish := by
  have kind : ofKind 0x0B r = true := served.mine
  have mine : ofAnswer false r = true := by
    rw [ofAnswer, kind, readOfferReply_answer hb]
    rfl
  have run : exec (.decline h) s = .next ((s.takeHead h).forOffer h r { slot := x, token := o.token, accepts := false }
      fun a slot c co => ((s.takeHead h).reply h r .done (.offerReply x o.token (a.failedOffer (s.takeHead h).st.tick).state
        (a.failedOffer (s.takeHead h).st.tick).pending)).failOffer slot c co .declined .inference).finish :=
    served.serves (serve := fun r e (b : OfferReplyBody) => e.forOffer h r b fun a slot c co =>
        (e.reply h r .done (.offerReply b.slot b.token (a.failedOffer e.st.tick).state (a.failedOffer e.st.tick).pending)).failOffer
          slot c co .declined .inference) mine hb rfl
  have current : (s.takeHead h).st.currentOffer (s.agent x) o.token = some (y, c, o) := by
    unfold State.currentOffer
    rw [hs, hoffer]
    dsimp only
    rw [if_pos rfl, State.takeHead_call, hc]
    dsimp only
    rw [hco]
    rfl
  rw [run, Ev.forOffer, if_pos hx]
  dsimp only
  rw [State.takeHead_agent, if_neg fun k => k.2 home, current]
  dsimp only
  rw [State.takeHead_tick]

/-- A ring deadline that is reached fails its offer (R75). -/
theorem State.ringExpiry_exec (hc : s.call? y = some c) (hco : c.offer = some o) (due : 0 ≤ (s.tick - o.deadline).toInt) :
    exec (.ringExpiry y) s = .next (s.event.failOffer y c o .expired .expiry).finish := by
  refine next_eq ?_
  rw [State.takeRingExpiry, hc]
  dsimp only
  rw [hco]
  exact if_pos (decide_eq_true due)

/-! ## The state in which the failure begins -/

/-- The state after a request, where there was one, has been taken and answered with these entries on its link. -/
structure State.Answers (s m : State) (h : Link) (before : List OutEntry) : Prop where
  side : s.SameSide m
  records : s.SameRecords m
  playout : s.SamePlayout m
  queue : ∀ q, m.queue q = s.queue q
  outbound : ∀ k, (m.link k).outbound = (s.link k).outbound ++ if k = h then before else []
  up : ∀ k, (m.link k).up = (s.link k).up
  replies : ∀ x ∈ before, x.isNotice = false
  settings : m.settings = s.settings

theorem State.Answers.refl (s : State) (h : Link) : s.Answers s h [] where
  side := ⟨⟨rfl, rfl, rfl, rfl⟩, rfl, fun _ => rfl, fun _ => rfl, fun _ => rfl⟩
  records := .refl s
  playout := ⟨fun _ => rfl, rfl, fun _ => rfl⟩
  queue _ := rfl
  outbound _ := by simp
  up _ := rfl
  replies _ hx := absurd hx List.not_mem_nil
  settings := rfl

theorem State.Answers.answered (s : State) (h : Link) (r : Request) (status : Status) (result : Result) :
    s.Answers (s.answered h r status result) h [.reply (r.answer status result)] where
  side := ⟨s.answered_agents _ _ _ _, (s.answered_same _ _ _ _).tick, s.answered_reserved _ _ _ _,
    fun k => by rw [State.answered_link], fun k => by rw [State.answered_link]⟩
  records := s.answered_same _ _ _ _
  playout := s.answered_playout _ _ _ _
  queue := s.answered_queue _ _ _ _
  outbound k := by rw [State.answered_link]
  up k := by rw [State.answered_link]
  replies x hx := by rw [List.mem_singleton.1 hx]; rfl
  settings := s.answered_settings _ _ _ _

theorem State.Answers.pattern (a : s.Answers m h before) (b : Bank) (p : Nat) : m.pattern b p = s.pattern b p := by
  cases b
  · exact congrArg (Assoc.get [] p) (congrArg Settings.patterns0 a.settings)
  · exact congrArg (Assoc.get [] p) (congrArg Settings.patterns1 a.settings)

theorem State.FailingOffer.answers (k : s.FailingOffer x y c o h) (a : s.Answers m h before) : m.FailingOffer x y c o h where
  named := k.named
  home := by rw [a.records.agent, k.home]
  call := by rw [a.records.call, k.call]
  available := by rw [a.records.available, k.available]
  homeIdle := ⟨(a.side.exits h).trans k.homeIdle.exits, (a.side.listens h).trans k.homeIdle.listens,
    fun w hw => by rw [a.playout.highways, k.homeIdle.deferral w hw]⟩
  ownerIdle := ⟨(a.side.exits _).trans k.ownerIdle.exits, (a.side.listens _).trans k.ownerIdle.listens,
    fun w hw => by rw [a.playout.highways, k.ownerIdle.deferral w hw]⟩
  ownerEntry := by rw [a.side.reserved]; exact k.ownerEntry
  homeEntry := by rw [a.side.reserved]; exact k.homeEntry
  twice := by rw [a.side.reserved]; exact k.twice

theorem State.Answers.spaceKept (a : s.Answers m h before) {l : Link} (kept : (s.link l).SpaceKept) (up : (s.link l).up = true) :
    (m.link l).SpaceKept := by
  have replies : before.countP OutEntry.isNotice = 0 := List.countP_eq_zero.2 fun x hx => by simp [a.replies x hx]
  refine ⟨?_, fun down => absurd (up.symm.trans ((a.up l).symm.trans down)) (by decide)⟩
  have count : (m.link l).noticeCount = (s.link l).noticeCount := by
    rw [LinkRec.noticeCount, a.outbound, List.countP_append, LinkRec.noticeCount]
    split
    · rw [replies, Nat.add_zero]
    · rfl
  rw [count, a.side.reserved]
  exact kept.1

theorem State.Answers.failsAlone (a : s.Answers m h before) {outcome : OfferOutcome} (alone : s.FailsAlone x outcome) :
    m.FailsAlone x outcome := by
  intro hs q
  rw [a.records.agent] at hs ⊢
  rw [a.records.tick] at hs
  rw [State.qualified_congr (s := s) (b := s.agent x) rfl fun q => by rw [a.queue]]
  exact alone hs q

theorem State.FailureShown.answers {owner : Link} {new : Agent} (a : s.Answers m h before)
    (k : m.FailureShown t x h owner new) : s.FailureShown t x h owner new where
  agent z := by rw [k.agent, a.records.agent]
  available := k.available
  recent := k.recent.trans a.side.agents.recent
  token := k.token.trans a.side.agents.token
  reserved j := by rw [k.reserved, a.side.reserved]
  exits j := (k.exits j).trans (a.side.exits j)
  listens j := (k.listens j).trans (a.side.listens j)

theorem State.FailureShown.notified {owner : Link} {new : Agent} (k : s.FailureShown t x h owner new) (n : t.Notified u) :
    s.FailureShown u x h owner new where
  agent z := by rw [n.agent, k.agent]
  available := n.available.trans k.available
  recent := n.recent.trans k.recent
  token := n.token.trans k.token
  reserved j := (n.reserved j).trans (k.reserved j)
  exits j := (n.exitOrder j).trans (k.exits j)
  listens j := (n.listenOrder j).trans (k.listens j)

/-! ## The queues after a failure (R102, R164) -/

theorem Queue.counted_reweighed (r : Queue) (n : CounterName) (q : Nat) (old new : Agent) :
    (r.counted n).reweighed q old new = (r.reweighed q old new).counted n :=
  Queue.reweighed_of (g := fun r => r.counted n) (fun _ => rfl) (fun _ _ => rfl) (fun _ => rfl) q old new r

theorem Queue.without_reweighed (r : Queue) (y q : Nat) (old new : Agent) :
    (r.without y).reweighed q old new = (r.reweighed q old new).without y :=
  Queue.reweighed_of (g := fun r => r.without y) (fun _ => rfl) (fun _ _ => rfl) (fun _ => rfl) q old new r

theorem State.offerFailed_tick (s : State) (outcome : OfferOutcome) : (s.offerFailed x y c o h outcome).tick = s.tick :=
  (State.offerGivenUp_same _ _ _ _).tick.trans (by simp [State.endOffer])

theorem State.offerFailed_agent (s : State) (outcome : OfferOutcome) (z : Nat) :
    (s.offerFailed x y c o h outcome).agent z = if x = z then (s.agent x).offerEnded outcome else s.agent z := by
  rw [State.offerFailed, (State.offerGivenUp_same _ _ _ _).agent, State.endOffer_agent]

/-- RONA counted and the agent settled, over the queues of any state that follows the offer's end. -/
theorem State.failureSettled_reweigh {outcome : OfferOutcome} (side : (s.offerFailed x y c o h outcome).SameSide t) (q p : Nat) :
    (t.failureSettled q x).queue p = (if p = q then (t.queue p).counted .rona else t.queue p).reweighed p (s.agent x)
      ((s.agent x).failed outcome s.tick) := by
  rw [State.failureSettled_queue, side.agents.agent, State.offerFailed_agent, if_pos rfl, side.tick, State.offerFailed_tick]
  rfl

theorem State.charged_queue (s : State) (outcome : OfferOutcome) (d : Call) (q p : Nat) :
    (((s.offerFailed x y c o h outcome).setCall y d).failureSettled q x).queue p =
      let k := (s.reweigh (s.agent x) ((s.agent x).failed outcome s.tick)).queue p
      if p = q then k.counted .rona else k := by
  rw [State.failureSettled_reweigh (.setCall _ _ _), State.setCall_queue, State.offerFailed_queue]
  dsimp only
  rw [State.reweigh_queue]
  split
  · rw [Queue.counted_reweighed]
  · rfl

/-! ## The three ways, from the state before the event -/

/-- What a failure that makes no call exit leaves (R74, R75). -/
theorem State.FailingOffer.charged_shown (k : s.FailingOffer x y c o h) (a : s.Answers m h before) (outcome : OfferOutcome)
    (n : (((m.offerFailed x y c o h outcome).setCall y c.charged).failureSettled c.queue x).Notified t) :
    t.call? y = some c.charged ∧ s.SameCallsBut t y
      ∧ s.FailureShown t x h c.owner ((s.agent x).failed outcome s.tick) ∧ s.SamePlayout t
      ∧ (∀ q, t.queue q = let k := (s.reweigh (s.agent x) ((s.agent x).failed outcome s.tick)).queue q
          if q = c.queue then k.counted .rona else k)
      ∧ ∀ j, ∃ ns : List Notice, (t.link j).outbound = (s.link j).outbound ++ (if j = h then before else [])
          ++ (if j = h then failureEntries o x y outcome else []) ++ ns.map OutEntry.notice := by
  have km := k.answers a
  have shown := (State.FailureShown.of_settled (q := c.queue) (outcome := outcome) km.available
    (State.SameSide.setCall (m.offerFailed x y c o h outcome) y c.charged)).answers a
  rw [a.records.agent, a.records.tick] at shown
  refine ⟨?_, fun z hz => ?_, shown.notified n, ?_, fun q => ?_, fun j => ?_⟩
  · rw [n.call, State.failureSettled_call, State.call?_setCall, if_pos rfl]
  · rw [n.call, State.failureSettled_call, State.call?_setCall, if_neg (Ne.symm hz), km.failed_call, if_neg (Ne.symm hz), a.records.call]
  · exact (((a.playout.trans (m.offerFailed_playout outcome)).trans (.setCall _ y c.charged)).trans
      (State.failureSettled_playout _ c.queue x)).trans n.playout
  · rw [n.queue, State.charged_queue, a.records.agent, a.records.tick, State.reweigh_queue, State.reweigh_queue, a.queue]
  · obtain ⟨ns, d, hn⟩ := n.link j
    refine ⟨ns, ?_⟩
    rw [hn, State.failureSettled_link, State.setCall_link, State.offerFailed_link, a.outbound]

/-- What a failure that makes its call exit leaves (R51, R74, R75, R81). -/
structure State.FailureExits (s t : State) (x y : Nat) (c : Call) (h : Link) (new : Agent) (reason : Nat)
    (before : List OutEntry) : Prop where
  call : t.call? y = none
  others : s.SameCallsBut t y
  shown : s.FailureShown t x h c.owner new
  stopped : s.TreatmentStopped t y c
  queue : ∀ q, t.queue q = let k := (s.reweigh (s.agent x) new).queue q
    if q = c.queue then ((k.without y).counted .rona).counted .exited else k
  outbound : ∃ ns : List Notice, (t.link c.owner).outbound = (s.link c.owner).outbound ++ (if c.owner = h then before else [])
    ++ .notice (.callExit y c.ref reason) :: ns.map OutEntry.notice

theorem Queue.counted_exited_rona (r : Queue) : (r.counted .exited).counted .rona = (r.counted .rona).counted .exited := rfl

theorem State.FailingOffer.redirected_shown (k : s.FailingOffer x y c o h) (a : s.Answers m h before) (outcome : OfferOutcome)
    (gone : ((m.offerFailed x y c o h outcome).exitTold y c 16).CallGone u y c .exited)
    (n : (u.failureSettled c.queue x).Notified t) :
    s.FailureExits t x y c h ((s.agent x).failed outcome s.tick) 16 (before ++ failureEntries o x y outcome) := by
  have km := k.answers a
  have side := gone.exited_sameSide (by rw [State.offerFailed_link]; exact km.ownerIdle.exits)
    (by rw [State.offerFailed_link]; exact km.ownerIdle.listens)
  have shown := (State.FailureShown.of_settled (q := c.queue) (outcome := outcome) km.available side).answers a
  rw [a.records.agent, a.records.tick] at shown
  have playout := (a.playout.trans (m.offerFailed_playout (x := x) (y := y) (c := c) (o := o) (h := h) outcome)).trans
    (State.exitTold_playout _ y c 16)
  constructor
  · rw [n.call, State.failureSettled_call, gone.call, if_pos rfl]
  · intro z hz
    rw [n.call, State.failureSettled_call, gone.call, if_neg (Ne.symm hz), State.exitTold, State.setLink_call, km.failed_call,
      if_neg (Ne.symm hz), a.records.call]
  · exact shown.notified n
  · refine ((gone.stopped.after playout (fun j => ?_) rfl rfl).before (State.failureSettled_playout u c.queue x)
      fun j => by rw [State.failureSettled_link]).notified n
    rw [State.exitTold_link, State.offerFailed_link, a.side.listens]
  · intro q
    rw [n.queue, State.failureSettled_reweigh side, gone.queue, State.exitTold_queue, State.offerFailed_queue, a.queue,
      a.records.agent, a.records.tick, State.reweigh_queue]
    dsimp only
    by_cases hq : q = c.queue
    · rw [if_pos hq, if_pos hq, if_pos hq, Queue.counted_exited_rona, Queue.counted_reweighed, Queue.counted_reweighed,
        Queue.without_reweighed]
    · rw [if_neg hq, if_neg hq, if_neg hq]
  · obtain ⟨ns, d, hn⟩ := n.link c.owner
    refine ⟨ns, ?_⟩
    rw [hn, State.failureSettled_link, gone.link, State.exitTold_link, State.offerFailed_link, a.outbound]
    by_cases ho : c.owner = h
    · simp [ho]
    · simp [ho]

theorem State.FailingOffer.held_shown (k : s.FailingOffer x y c o h) (a : s.Answers m h before) (outcome : OfferOutcome)
    {reason : Nat} (gone : ((((m.offerFailed x y c o h outcome).setCall y c.charged).failureSettled c.queue x).exitTold y c
      reason).CallGone u y c .exited) (n : u.Notified t) :
    s.FailureExits t x y c h ((s.agent x).failed outcome s.tick) reason (before ++ failureEntries o x y outcome) := by
  have km := k.answers a
  have side := gone.exited_sameSide
    (by rw [State.failureSettled_link, State.setCall_link, State.offerFailed_link]; exact km.ownerIdle.exits)
    (by rw [State.failureSettled_link, State.setCall_link, State.offerFailed_link]; exact km.ownerIdle.listens)
  have shown := ((State.FailureShown.of_settled (q := c.queue) (outcome := outcome) km.available
    (State.SameSide.setCall (m.offerFailed x y c o h outcome) y c.charged)).andThen side).answers a
  rw [a.records.agent, a.records.tick] at shown
  have playout := (((a.playout.trans (m.offerFailed_playout (x := x) (y := y) (c := c) (o := o) (h := h) outcome)).trans
    (.setCall _ y c.charged)).trans (State.failureSettled_playout _ c.queue x)).trans (State.exitTold_playout _ y c reason)
  constructor
  · rw [n.call, gone.call, if_pos rfl]
  · intro z hz
    rw [n.call, gone.call, if_neg (Ne.symm hz), State.exitTold, State.setLink_call, State.failureSettled_call,
      State.call?_setCall, if_neg (Ne.symm hz), km.failed_call, if_neg (Ne.symm hz), a.records.call]
  · exact shown.notified n
  · refine (gone.stopped.after playout (fun j => ?_) rfl rfl).notified n
    rw [State.exitTold_link, State.failureSettled_link, State.setCall_link, State.offerFailed_link, a.side.listens]
  · intro q
    rw [n.queue, gone.queue, State.exitTold_queue, State.charged_queue, a.records.agent, a.records.tick, State.reweigh_queue,
      State.reweigh_queue, a.queue]
    dsimp only
    by_cases hq : q = c.queue
    · rw [if_pos hq, if_pos hq, if_pos hq]
      rfl
    · rw [if_neg hq, if_neg hq, if_neg hq]
  · obtain ⟨ns, d, hn⟩ := n.link c.owner
    refine ⟨ns, ?_⟩
    rw [hn, gone.link, State.exitTold_link, State.failureSettled_link, State.setCall_link, State.offerFailed_link, a.outbound]
    by_cases ho : c.owner = h
    · simp [ho]
    · simp [ho]

theorem Ev.failOffer_engine (e : Ev) (y : Nat) (c : Call) (o : CallOffer) (outcome : OfferOutcome) (cause : Cause) :
    Engine e.st (e.failOffer y c o outcome cause).finish := by
  rw [Ev.failOffer_eq]
  have ended : Engine e.st (e.upd fun s => s.endOffer y o.agent outcome).st := State.endOffer_engine e.st y o.agent outcome
  have links : Engine e.st (if outcome = .expired then (e.upd fun s => s.endOffer y o.agent outcome).cancelOffer o y .ringExpired
      else (e.upd fun s => s.endOffer y o.agent outcome).releaseHome o.agent).st := by
    split
    · exact ended.trans (Ev.cancelOffer_engine _ _ _ _)
    · exact ended.trans (Ev.releaseHome_engine _ _)
  exact (((((links.trans (Ev.releaseReservation_engine _ _)).trans (Ev.chargeRedirect_engine _ _)).trans
    (Ev.count_engine _ _ _)).trans (Ev.settleFailed_engine _ _ _)).trans (Ev.afterOffer_engine _ _ _ _)).trans (Ev.finish_engine _)

/-- The record of the agent of a failed offer, written out (R25, R26). -/
theorem Agent.failed_eq (a : Agent) (outcome : OfferOutcome) (now : Tick) :
    a.failed outcome now =
      let miss := min 7 (a.miss + 1)
      let b := { a with offer := none, lastOutcome := some outcome, miss := miss }
      if a.missLimit ≠ 0 ∧ a.missLimit ≤ miss then
        { b with state := .inferredAbsent, pending := .none
                 penaltyDeadline := match a.exitType with
                   | .timed => some (now + BitVec.ofNat 32 a.penalty)
                   | .manual => none }
      else match a.pending with
        | .notReady reason => { b with state := .notReady, reason := reason, pending := .none }
        | _ => { b with state := .available, pending := .none, availSince := now } := by
  unfold Agent.failed Agent.failedOffer Agent.offerEnded
  dsimp only
  split
  · rfl
  · cases a.pending <;> rfl

/-- The reply to a DECLINE gives the state and the pending value of the agent as settled (R74). -/
theorem Agent.failedOffer_shown (a : Agent) (outcome : OfferOutcome) (now : Tick) :
    (a.failedOffer now).state = (a.failed outcome now).state ∧ (a.failedOffer now).pending = (a.failed outcome now).pending := by
  unfold Agent.failed Agent.failedOffer Agent.offerEnded
  dsimp only
  split
  · exact ⟨rfl, rfl⟩
  · cases a.pending <;> exact ⟨rfl, rfl⟩

end

/-- A call that exits when its offer fails: for its redirects, or for the EXIT step that its treatment is held at (R51, R81). -/
def State.ExitsOnFailure (s : State) (c : Call) (reason : Nat) : Prop :=
  (c.redirects = 7 ∧ reason = 16)
    ∨ (c.redirects < 7 ∧ c.exitPending = none ∧ ∃ t, c.treatment = some t ∧ t.state = .held
      ∧ (s.pattern t.bank t.pattern)[t.step]? = some (.exit reason))

theorem State.FailingOffer.exits_finish {x y : Nat} {c : Call} {o : CallOffer} {h : Link} {s : State} {e : Ev}
    {before : List OutEntry} (k : s.FailingOffer x y c o h) (a : s.Answers e.st h before) (quiet : e.Quiet)
    {outcome : OfferOutcome} (alone : s.FailsAlone x outcome) {reason : Nat} (which : s.ExitsOnFailure c reason)
    (up : (s.link c.owner).up = true) (kept : (s.link c.owner).SpaceKept) (cause : Cause) :
    s.FailureExits (e.failOffer y c o outcome cause).finish x y c h ((s.agent x).failed outcome s.tick) reason
      (before ++ failureEntries o x y outcome) := by
  have km := k.answers a
  have upm := (a.up c.owner).trans up
  have keptm := a.spaceKept kept up
  rcases which with ⟨hr, rfl⟩ | ⟨hr, hp, t, ht, held, step⟩
  · obtain ⟨u, gone, n⟩ := km.redirected quiet (a.failsAlone alone) hr upm keptm cause
    exact k.redirected_shown a outcome gone n
  · obtain ⟨u, gone, n⟩ := km.held quiet (a.failsAlone alone) hr hp ht held (by rw [a.pattern, step]) upm keptm cause
    exact k.held_shown a outcome gone n

/-- Settles O48: the failure's event ends in one of three ways, each from the state in which the request has been answered. -/
theorem failedOfferSettlesCallAndAgent : Obligations.FailedOfferSettlesCallAndAgent := by
  intro s x y c o h a home hs hoffer hc hcs hco hox available waitsHome waitsOwner ownerEntry homeEntry twice miss settled agents
    failed exits declined cancel out
  have settled_eq : ∀ outcome, settled outcome = a.failed outcome s.tick := fun outcome => (a.failed_eq outcome s.tick).symm
  have fails : s.FailingOffer x y c o h := ⟨hox, home, hc, available, waitsHome, waitsOwner, ownerEntry, homeEntry, twice⟩
  have alone : ∀ outcome, s.FailsAlone x outcome := fun outcome hn => out outcome (by rw [settled_eq]; exact hn)
  have agents_of : ∀ {t outcome}, s.FailureShown t x h c.owner (a.failed outcome s.tick) → t.settings = s.settings → s.SameLinks t →
      agents t outcome := fun {t outcome} shown settings links => by
    rw [← settled_eq] at shown
    exact ⟨shown.agent, shown.available, shown.recent, shown.token, settings, links,
      fun k => ⟨shown.reserved k, shown.exits k, shown.listens k⟩⟩
  have exits_of : ∀ {t outcome reason before}, s.FailureExits t x y c h (a.failed outcome s.tick) reason [before] →
      t.settings = s.settings → s.SameLinks t → exits t outcome reason before := fun {t outcome reason before} shown settings links =>
    ⟨shown.call, shown.others, agents_of shown.shown settings links, shown.stopped,
      by rw [settled_eq]; exact shown.queue, shown.outbound⟩
  clear_value settled
  -- the event of a DECLINE begins in the state in which its request has been answered
  have decline : ∀ r : Request, s.Served h r 0x0B .agents →
      readOfferReply r.body = some { slot := x, token := o.token, accepts := false } → x < 1024 →
      ∃ e : Ev, e.Quiet ∧ s.Answers e.st h [.reply { declined with tag := r.tag }]
        ∧ exec (.decline h) s = .next (e.failOffer y c o .declined .inference).finish
        ∧ ∀ {t}, Engine e.st t → s.Replied t h { declined with tag := r.tag } ∧ t.settings = s.settings ∧ s.SameLinks t :=
    fun r served hb hx => by
      have reply : ({ declined with tag := r.tag } : Reply) = r.answer .done (.offerReply x o.token (a.failedOffer s.tick).state
          (a.failedOffer s.tick).pending) := by
        obtain ⟨state, pending⟩ := a.failedOffer_shown .declined s.tick
        rw [state, pending, ← settled_eq, Request.answer, served.isKind]
        rfl
      refine ⟨_, (s.takeHead_quiet h).reply h r _ _, ?_, served.decline hb hx home hs hoffer hc hco, ?_⟩
      · rw [State.takeHead_reply, reply]
        exact .answered _ _ _ _ _
      · intro t engine
        rw [State.takeHead_reply] at engine
        rw [reply]
        exact ⟨engine.replied, engine.answered_settings, engine.answered_sameLinks⟩
  have expires := State.ringExpiry_exec hc hco
  have quiet := s.event_quiet
  have event := State.Answers.refl s h
  have failed_of : ∀ {e : Ev} {before outcome} (cause : Cause), e.Quiet → s.Answers e.st h before → c.redirects < 7 →
      (∀ t, c.treatment = some t → t.state ≠ .held) → (e.failOffer y c o outcome cause).finish.settings = s.settings →
      s.SameLinks (e.failOffer y c o outcome cause).finish →
      failed (e.failOffer y c o outcome cause).finish outcome
        ∧ ∀ j, ∃ ns : List Notice, ((e.failOffer y c o outcome cause).finish.link j).outbound = (s.link j).outbound
          ++ (if j = h then before else []) ++ (if j = h then failureEntries o x y outcome else []) ++ ns.map OutEntry.notice :=
    fun cause quiet a hr held settings links => by
      obtain ⟨call, others, shown, playout, queue, outbound⟩ := fails.charged_shown a _
        ((fails.answers a).charged quiet (a.failsAlone (alone _)) hr held cause)
      exact ⟨⟨call, others, agents_of shown settings links, playout, by rw [settled_eq]; exact queue⟩, outbound⟩
  refine ⟨fun hr held => ⟨fun r served hb hx => ?_, fun due => ?_⟩,
    fun reason up kept which => ⟨fun r served hb hx => ?_, fun due => ?_⟩⟩
  · obtain ⟨e, quiet, a, run, follows⟩ := decline r served hb hx
    obtain ⟨replied, settings, links⟩ := follows (e.failOffer_engine y c o .declined .inference)
    exact ⟨_, run, replied, (failed_of .inference quiet a hr held settings links).1⟩
  · have engine := s.event.failOffer_engine y c o .expired .expiry
    obtain ⟨shown, outbound⟩ := failed_of .expiry quiet event hr held engine.settings engine.sameLinks
    obtain ⟨ns, hn⟩ := outbound h
    exact ⟨_, expires due, engine.onlyTold, shown, ns, by rw [hn]; simp [failureEntries, cancel]⟩
  · obtain ⟨e, quiet, a, run, follows⟩ := decline r served hb hx
    obtain ⟨replied, settings, links⟩ := follows (e.failOffer_engine y c o .declined .inference)
    exact ⟨_, run, replied, exits_of (fails.exits_finish a quiet (alone _) which up kept .inference) settings links⟩
  · have engine := s.event.failOffer_engine y c o .expired .expiry
    exact ⟨_, expires due, engine.onlyTold, exits_of (fails.exits_finish event quiet (alone _) which up kept .expiry) engine.settings
      engine.sameLinks⟩

end Sys2Proof.Machine
end

section
/-!
PROOF. The loss of a link: what it leaves of the link itself, what a settled agent leaves of the calls, and the loss of one call
(R53, R182).
-/
namespace Sys2Proof.Machine

open Sys2Proof

/-! ## Tables whose keys rise -/

theorem Assoc.mem_of_find {α : Type} {k : Nat} {v : α} {t : List (Nat × α)} (h : Assoc.find k t = some v) : (k, v) ∈ t := by
  induction t with
  | nil => cases h
  | cons f t ih =>
    obtain ⟨k', v'⟩ := f
    unfold Assoc.find at h
    split at h
    · rename_i hk
      subst hk
      cases h
      exact List.mem_cons_self
    · exact List.mem_cons_of_mem _ (ih h)

theorem Assoc.find_of_mem {α : Type} {e : Nat × α} {t : List (Nat × α)} (rising : Assoc.rising t = true) (h : e ∈ t) :
    Assoc.find e.1 t = some e.2 := by
  induction t with
  | nil => cases h
  | cons f t ih =>
    obtain ⟨k, v⟩ := f
    obtain ⟨below, rising⟩ := Assoc.rising_cons.1 rising
    rcases List.mem_cons.1 h with rfl | h
    · exact if_pos rfl
    · exact (if_neg (below e h).ne).trans (ih rising h)

theorem Assoc.nodup_keys {α : Type} {t : List (Nat × α)} (rising : Assoc.rising t = true) : (t.map (·.1)).Nodup := by
  induction t with
  | nil => exact List.nodup_nil
  | cons f t ih =>
    obtain ⟨below, rising⟩ := Assoc.rising_cons.1 rising
    refine List.nodup_cons.2 ⟨fun hm => ?_, ih rising⟩
    obtain ⟨e, he, hk⟩ := List.mem_map.1 hm
    exact (below e he).ne hk.symm

section
variable {s t u v : State} {e d : Ev} {l : Link}

theorem State.call_of_mem (rising : Assoc.rising s.calls = true) {f : Nat × Call} (h : f ∈ s.calls) : s.call? f.1 = some f.2 :=
  Assoc.find_of_mem rising h

theorem State.agent_of_mem (rising : Assoc.rising s.agents = true) {f : Nat × Agent} (h : f ∈ s.agents) : s.agent f.1 = f.2 := by
  rw [State.agent, Assoc.get, Assoc.find_of_mem rising h]
  rfl

theorem State.mem_ownedCalls (rising : Assoc.rising s.calls = true) {y : Nat} :
    y ∈ s.ownedCalls l ↔ ∃ c, s.call? y = some c ∧ c.owner = l := by
  refine ⟨fun h => ?_, fun ⟨c, hc, ho⟩ => ?_⟩
  · obtain ⟨f, hf, rfl⟩ := List.mem_map.1 h
    obtain ⟨hf, ho⟩ := List.mem_filter.1 hf
    exact ⟨f.2, State.call_of_mem rising hf, of_decide_eq_true ho⟩
  · exact List.mem_map.2 ⟨(y, c), List.mem_filter.2 ⟨Assoc.mem_of_find hc, decide_eq_true ho⟩, rfl⟩

theorem State.nodup_ownedCalls (rising : Assoc.rising s.calls = true) (l : Link) : (s.ownedCalls l).Nodup :=
  (Assoc.nodup_keys rising).sublist (List.filter_sublist.map _)

theorem State.mem_homedAgents_iff (rising : Assoc.rising s.agents = true) {x : Nat} :
    x ∈ s.homedAgents l ↔ (s.agent x).home = some l ∧ (s.agent x).state ≠ .loggedOut := by
  refine ⟨fun h => ?_, fun h => State.mem_homedAgents h.1 h.2⟩
  obtain ⟨f, hf, rfl⟩ := List.mem_map.1 h
  obtain ⟨hf, ho⟩ := List.mem_filter.1 hf
  rw [State.agent_of_mem rising hf]
  exact of_decide_eq_true ho

theorem State.nodup_homedAgents (rising : Assoc.rising s.agents = true) (l : Link) : (s.homedAgents l).Nodup :=
  (Assoc.nodup_keys rising).sublist (List.filter_sublist.map _)

/-! ## The link itself (R182, R183) -/

/-- The event of a link's loss, with the link's own record lost. -/
def State.linkLost (s : State) (l : Link) : Ev := s.event.updLink l LinkRec.lost

theorem State.linkLost_st (s : State) (l : Link) : (s.linkLost l).st = s.setLink l (s.link l).lost := rfl

theorem exec_linkDown_lost {w : Highway} (up : (s.link l).up = true) (hw : l.highway? = some w) :
    exec (.linkDown l) s = .next ((s.linkLost l).loseSwitchingLink l w).finish := by
  refine next_eq ((if_pos up).trans ?_)
  dsimp only
  rw [hw]
  rfl

theorem exec_linkDown_statistics (up : (s.link .s).up = true) : exec (.linkDown .s) s = .next (s.setLink .s (s.link .s).lost) :=
  next_eq ((if_pos up).trans (Ev.finish_quiet rfl rfl rfl))

theorem Link.highway_of_switching (h : l ≠ .s) : ∃ w, l.highway? = some w := by
  cases l with
  | a => exact ⟨.a, rfl⟩
  | b => exact ⟨.b, rfl⟩
  | s => exact absurd rfl h

/-- The loss of a link is the loss of its record, and then work of the engine. -/
theorem exec_linkDown_engine (up : (s.link l).up = true) :
    ∃ t, exec (.linkDown l) s = .next t ∧ Engine (s.linkLost l).st t := by
  by_cases h : l = .s
  · subst h
    exact ⟨_, exec_linkDown_statistics up, Engine.refl _⟩
  · obtain ⟨w, hw⟩ := Link.highway_of_switching h
    exact ⟨_, exec_linkDown_lost up hw, ((s.linkLost l).loseSwitchingLink_engine l w).trans (Ev.finish_engine _)⟩

theorem State.linkLost_link (s : State) (l k : Link) : (s.linkLost l).st.link k = if l = k then (s.link l).lost else s.link k := by
  rw [State.linkLost_st, State.link_setLink]

theorem State.linkLost_same (s : State) (l : Link) : s.SameRecords (s.linkLost l).st := .setLink _ _ _

theorem State.linkLost_settings (s : State) (l : Link) : (s.linkLost l).st.settings = s.settings := by
  simp [State.linkLost_st, State.settings]

/-- A lost link holds nothing and reserves nothing, whatever the engine does after. -/
theorem Engine.lost (h : Engine (s.linkLost l).st t) :
    (t.link l).up = false ∧ (t.link l).receiving = [] ∧ (t.link l).inbound = [] ∧ (t.link l).outbound = [] ∧ (t.link l).reserved = 0
      ∧ (t.link l).permissions = (s.link l).permissions ∧ (t.link l).enables = (s.link l).enables
      ∧ (t.link l).faultCount = (s.link l).faultCount := by
  have same := h.sameLinks
  have told := h.onlyTold
  have link : (s.linkLost l).st.link l = (s.link l).lost := by rw [State.linkLost_link, if_pos rfl]
  have up : (t.link l).up = false := by rw [same.up, link]; rfl
  have kept := h.space l (by rw [link]; exact ⟨Nat.zero_le _, fun _ => ⟨rfl, rfl⟩⟩)
  obtain ⟨outbound, reserved⟩ := kept.2 up
  exact ⟨up, by rw [same.receiving, link]; rfl, by rw [(told l).1, link]; rfl, outbound, reserved, by rw [same.permissions, link]; rfl,
    by rw [same.enables, link]; rfl, by rw [same.faultCount, link]; rfl⟩

/-- The other links get notices alone. -/
theorem Engine.lost_others (h : Engine (s.linkLost l).st t) {k : Link} (hk : k ≠ l) :
    (t.link k).inbound = (s.link k).inbound ∧ ∃ ns : List Notice, (t.link k).outbound = (s.link k).outbound ++ ns.map OutEntry.notice := by
  have told := h.onlyTold k
  rw [State.linkLost_link, if_neg (Ne.symm hk)] at told
  exact told

/-! ## What the settling of an agent leaves -/

/-- The calls, the waiting orders, the counters, the token, the links and the highways are as they were, and the agent table stays
in its canonical form. -/
structure State.CallsKept (s t : State) : Prop where
  calls : t.calls = s.calls
  order : ∀ q, (t.queue q).order = (s.queue q).order
  stats : ∀ q, (t.queue q).stats = (s.queue q).stats
  token : t.token = s.token
  link : ∀ k, t.link k = s.link k
  highway : ∀ w, t.highway w = s.highway w
  rising : Assoc.rising s.agents = true → Assoc.rising t.agents = true

namespace State.CallsKept

theorem trans (h : s.CallsKept t) (k : t.CallsKept u) : s.CallsKept u :=
  ⟨k.calls.trans h.calls, fun q => (k.order q).trans (h.order q), fun q => (k.stats q).trans (h.stats q), k.token.trans h.token,
    fun j => (k.link j).trans (h.link j), fun w => (k.highway w).trans (h.highway w), fun r => k.rising (h.rising r)⟩

theorem call (h : s.CallsKept t) (y : Nat) : t.call? y = s.call? y := by rw [State.call?, h.calls, State.call?]

theorem setAgent (s : State) (x : Nat) (new : Agent) : s.CallsKept (s.setAgent x new) :=
  ⟨rfl, fun _ => rfl, fun _ => rfl, rfl, fun k => by simp, fun w => by simp, Assoc.rising_set _ _ _⟩

theorem updateAht (s : State) (q sample : Nat) : s.CallsKept (s.updateAht q sample) := by
  have queue : ∀ p, ((s.updateAht q sample).queue p).order = (s.queue p).order
      ∧ ((s.updateAht q sample).queue p).stats = (s.queue p).stats := fun p => by
    rw [State.updateAht, State.queue_setQueue]
    split
    · rename_i h; subst h; exact ⟨rfl, rfl⟩
    · exact ⟨rfl, rfl⟩
  exact ⟨by simp [State.updateAht], fun p => (queue p).1, fun p => (queue p).2, by simp [State.updateAht],
    by simp [State.updateAht], by simp [State.updateAht], by simp [State.updateAht]⟩

end State.CallsKept

theorem Queue.weighed_stats (q : Nat) (a : Agent) (f : Nat → Nat → Nat) (r : Queue) : (r.weighed q a f).stats = r.stats := by
  unfold Queue.weighed
  split
  · generalize a.skills = ks
    induction ks generalizing r with
    | nil => rfl
    | cons k ks ih =>
      rw [List.foldl_cons, ih]
      split <;> rfl
  · rfl

theorem Queue.reweighed_stats (q : Nat) (old new : Agent) (r : Queue) : (r.reweighed q old new).stats = r.stats := by
  unfold Queue.reweighed
  split
  · rfl
  · rw [Queue.weighed_stats, Queue.weighed_stats]

theorem State.CallsKept.settled (s : State) (x : Nat) (new : Agent) (ls : List Nat) : s.CallsKept (s.settled x new ls) := by
  have order := ((s.setAgent x new).reweigh_same (s.agent x) new).order
  refine ⟨?_, order, fun q => ?_, ?_, State.settled_link s x new ls, State.settled_highway s x new ls, fun h => ?_⟩
  · rw [State.settled_eq]; rfl
  · rw [State.settled_queue, Queue.reweighed_stats]
  · rw [State.settled_eq]; rfl
  · rw [State.settled_eq]
    exact Assoc.rising_set _ _ _ h

theorem State.CallsKept.putAgent (e : Ev) (x : Nat) (new : Agent) (cause : Cause) : e.st.CallsKept (e.putAgent x new cause).st := by
  rw [Ev.putAgent_eq]
  exact .settled _ _ _ _

theorem State.CallsKept.putAgentAtTail (e : Ev) (x : Nat) (new : Agent) (cause : Cause) :
    e.st.CallsKept (e.putAgentAtTail x new cause).st := by
  by_cases h : new.state = .available
  · rw [Ev.putAgentAtTail_eq _ _ _ _ h]
    exact .settled _ _ _ _
  · rw [Ev.putAgentAtTail, if_neg h]
    exact .putAgent _ _ _ _

theorem State.CallsKept.outOfTable (s : State) (x : Nat) : s.CallsKept (s.outOfTable x) := by
  have k := State.CallsKept.settled { s with recent := s.recent.filter fun r => r.agent != x } x (s.agent x).out
    (s.available.filter (· != x))
  exact ⟨k.calls, k.order, k.stats, k.token, k.link, k.highway, k.rising⟩

theorem State.CallsKept.completeLogout (e : Ev) (x : Nat) (cause : Cause) : e.st.CallsKept (e.completeLogout x cause).st := by
  rw [Ev.completeLogout_eq]
  exact .outOfTable _ _

theorem State.CallsKept.leave (e : Ev) (x : Nat) (cause : Cause) : e.st.CallsKept (e.leave x cause).st := by
  unfold Ev.leave
  dsimp only
  split
  · exact .completeLogout _ _ _
  · exact .putAgent _ _ _ _
  · exact .putAgentAtTail _ _ _ _

theorem State.CallsKept.startWrap (e : Ev) (x q : Nat) (connect : Tick) (cause : Cause) :
    e.st.CallsKept (e.startWrap x q connect cause).st := by
  unfold Ev.startWrap
  dsimp only
  split
  · refine State.CallsKept.trans ?_ (.leave _ _ _)
    exact (State.CallsKept.setAgent _ _ _).trans (.updateAht _ _ _)
  · exact .putAgent _ _ _ _

theorem State.CallsKept.settleWithdrawn (e : Ev) (x : Nat) (cause : Cause) : e.st.CallsKept (e.settleWithdrawn x cause).st := by
  rw [Ev.settleWithdrawn_settled]
  exact .settled _ _ _ _

end

end Sys2Proof.Machine
end

section
/-!
PROOF. The loss of one call of a lost link, part by part (R53, R182 step 1).
-/
namespace Sys2Proof.Machine

open Sys2Proof

section
variable {s t u v : State} {e d : Ev} {l : Link} {y : Nat} {c : Call}

/-! ## The call's partner -/

/-- The agent that a call names: that of its offer, or that of its connection. -/
def Call.partner (c : Call) : Option Nat :=
  match c.state with
  | .waiting => none
  | .offering => c.offer.map (·.agent)
  | .connected => c.agent

/-- What the agent that a lost call names becomes: its offer ends WITHDRAWN, and an agent of the other link is settled; or an agent
of the other link starts wrap-up (R79, R84 to R86). -/
def Call.loses (c : Call) (l : Link) (now : Tick) (limit : Nat) (a : Agent) : Agent :=
  match c.state with
  | .waiting => a
  | .offering => if a.home = some l then a.offerEnded .withdrawn else (a.offerEnded .withdrawn).withdrawn
  | .connected =>
      if a.home = some l then a
      else
        match c.connectTick with
        | some since => a.startedWrap now c.queue limit since
        | none => a

/-- The agent of a call's offer has its home on a link. -/
def Call.offeredOn (c : Call) (s : State) (k : Link) : Bool :=
  match c.state, c.offer with
  | .offering, some o => decide ((s.agent o.agent).home = some k)
  | _, _ => false

theorem Ev.updLink_st (e : Ev) (k : Link) (f : LinkRec → LinkRec) : (e.updLink k f).st = e.st.setLink k (f (e.st.link k)) := rfl

/-! ## What the loss of one call leaves -/

/-- The other calls, the waiting orders, the counters, the token, the waiting work and the highways are as they were. -/
structure State.OthersKept (s t : State) (y : Nat) : Prop where
  call : ∀ z, y ≠ z → t.call? z = s.call? z
  order : ∀ q, (t.queue q).order = (s.queue q).order
  stats : ∀ q, (t.queue q).stats = (s.queue q).stats
  token : t.token = s.token
  exits : ∀ k, (t.link k).exitOrder = (s.link k).exitOrder
  listens : ∀ k, (t.link k).listenOrder = (s.link k).listenOrder
  highway : ∀ w, t.highway w = s.highway w
  rising : Assoc.rising s.agents = true → Assoc.rising t.agents = true

namespace State.OthersKept

theorem refl (s : State) (y : Nat) : s.OthersKept s y :=
  ⟨fun _ _ => rfl, fun _ => rfl, fun _ => rfl, rfl, fun _ => rfl, fun _ => rfl, fun _ => rfl, id⟩

theorem trans (h : s.OthersKept t y) (k : t.OthersKept u y) : s.OthersKept u y :=
  ⟨fun z hz => (k.call z hz).trans (h.call z hz), fun q => (k.order q).trans (h.order q), fun q => (k.stats q).trans (h.stats q),
    k.token.trans h.token, fun j => (k.exits j).trans (h.exits j), fun j => (k.listens j).trans (h.listens j),
    fun w => (k.highway w).trans (h.highway w), fun r => k.rising (h.rising r)⟩

theorem of_kept (h : s.CallsKept t) (y : Nat) : s.OthersKept t y :=
  ⟨fun z _ => h.call z, h.order, h.stats, h.token, fun k => by rw [h.link], fun k => by rw [h.link], h.highway, h.rising⟩

theorem freeCall (s : State) (y : Nat) : s.OthersKept (s.freeCall y) y :=
  ⟨fun z hz => by rw [State.call?_freeCall, if_neg hz], by simp, by simp, by simp, by simp, by simp, by simp, id⟩

theorem endOffer (s : State) (y x : Nat) (outcome : OfferOutcome) : s.OthersKept (s.endOffer y x outcome) y := by
  refine ⟨fun z hz => ?_, ?_, ?_, ?_, ?_, ?_, ?_, fun h => ?_⟩
  · rw [State.endOffer, State.setAgent_call, State.call?_updCall, if_neg hz]
  · simp [State.endOffer]
  · simp [State.endOffer]
  · simp [State.endOffer]
  · simp
  · simp
  · simp
  · refine Assoc.rising_set _ _ _ ?_
    rw [State.updCall_agents]
    exact h

/-- A link's outbound queue and reservations are not among what is kept. -/
theorem setLink (s : State) (k : Link) {r : LinkRec} (exits : r.exitOrder = (s.link k).exitOrder)
    (listens : r.listenOrder = (s.link k).listenOrder) (y : Nat) : s.OthersKept (s.setLink k r) y := by
  have link : ∀ j, ((s.setLink k r).link j).exitOrder = (s.link j).exitOrder
      ∧ ((s.setLink k r).link j).listenOrder = (s.link j).listenOrder := fun j => by
    rw [State.link_setLink]
    split
    · rename_i h; subst h; exact ⟨exits, listens⟩
    · exact ⟨rfl, rfl⟩
  exact ⟨by simp, by simp, by simp, by simp, fun j => (link j).1, fun j => (link j).2, by simp, by simp⟩

theorem cancelOffer (e : Ev) (o : CallOffer) (z : Nat) (cause : CancelCause) (y : Nat) :
    e.st.OthersKept (e.cancelOffer o z cause).st y := by
  unfold Ev.cancelOffer
  split
  · unfold Ev.useReservation
    split
    · rw [Ev.updLink_st]
      exact setLink _ _ (by rfl) (by rfl) _
    · exact .refl _ _
  · exact .refl _ _

theorem releaseReservation (e : Ev) (k : Link) (y : Nat) : e.st.OthersKept (e.releaseReservation k).st y := by
  unfold Ev.releaseReservation
  split
  · rw [Ev.markFreed_st]
    exact setLink _ _ (by rfl) (by rfl) _
  · exact .refl _ _

theorem withdrawFromCall (e : Ev) (y : Nat) (c : Call) (o : CallOffer) (cause : Cause) :
    e.st.OthersKept (e.withdrawFromCall y c o cause).st y := by
  unfold Ev.withdrawFromCall
  refine State.OthersKept.trans ?_ (.of_kept (.settleWithdrawn _ _ _) _)
  refine State.OthersKept.trans ?_ (releaseReservation _ _ _)
  exact State.OthersKept.trans (endOffer _ _ _ _) (cancelOffer (e.upd fun s => s.endOffer y o.agent .withdrawn) _ _ _ _)

end State.OthersKept

/-- What the loss of one call changes beside the agents and the entries of its offer (R53). -/
structure State.CallLost (s t : State) (l : Link) (y : Nat) (c : Call) : Prop where
  call : ∀ z, t.call? z = if y = z then none else s.call? z
  order : ∀ q, (t.queue q).order
    = if q = c.queue ∧ c.state ≠ .connected then (s.queue q).order.filter (· != y) else (s.queue q).order
  abandoned : ∀ q, (t.queue q).stats.abandoned.value
    = (s.queue q).stats.abandoned.value + if q = c.queue ∧ c.state ≠ .connected then 1 else 0
  token : t.token = s.token
  exits : ∀ k, k ≠ l → (t.link k).exitOrder = (s.link k).exitOrder
  listens : ∀ k, k ≠ l → (t.link k).listenOrder = (s.link k).listenOrder
  deferral : ∀ k w, k ≠ l → k.highway? = some w → (t.highway w).deferral = (s.highway w).deferral
  noExits : (s.link l).exitOrder = [] → (t.link l).exitOrder = []
  noListens : (s.link l).listenOrder = [] → (t.link l).listenOrder = []
  channel : ∀ w ts, t.channel w ts = s.channel w ts ∨ t.channel w ts = Channel.draining
  rising : Assoc.rising s.agents = true → Assoc.rising t.agents = true

theorem Link.highway_inj {k j : Link} {w : Highway} (h : k.highway? = some w) (h' : j.highway? = some w) : k = j :=
  (Link.highway_link h).symm.trans (Link.highway_link h')

/-- A call that waited is removed, after the end of its offer where it had one. -/
theorem State.CallLost.of_gone {d : State} {c' : Call} (k : s.OthersKept d y) (gone : d.CallGone t y c' .abandoned)
    (hq : c'.queue = c.queue) (ho : c'.owner = l) (hs : c.state ≠ .connected) : s.CallLost t l y c where
  call z := by
    rw [gone.call]
    by_cases hz : y = z
    · rw [if_pos hz, if_pos hz]
    · rw [if_neg hz, if_neg hz, k.call z hz]
  order q := by
    rw [gone.queue, hq]
    by_cases h : q = c.queue
    · rw [if_pos h, if_pos ⟨h, hs⟩, ← k.order]
      rfl
    · rw [if_neg h, if_neg fun n => h n.1, k.order]
  abandoned q := by
    rw [gone.queue, hq]
    by_cases h : q = c.queue
    · rw [if_pos h, if_pos ⟨h, hs⟩, ← k.stats]
      rfl
    · rw [if_neg h, if_neg fun n => h n.1, k.stats]
      exact (BitVec.add_zero _).symm
  token := gone.agents.token.trans k.token
  exits j hj := by rw [gone.link, ← k.exits]; exact if_neg fun h => hj (h.trans ho)
  listens j hj := by rw [gone.link, ← k.listens]; exact if_neg fun h => hj (h.2.trans ho)
  deferral j w hj hw := by
    rw [gone.stopped.deferral, if_neg, k.highway]
    rintro ⟨-, h⟩
    rw [ho] at h
    exact hj (Link.highway_inj hw h)
  noExits h := by
    rw [gone.link, ho, if_pos rfl, k.exits, h]
    rfl
  noListens h := by
    rw [gone.link]
    dsimp only
    rw [k.listens, h]
    split <;> rfl
  channel w ts := by
    rw [gone.stopped.channel, State.channel, k.highway, ← State.channel]
    split
    · exact .inr rfl
    · exact .inl rfl
  rising h := by
    rw [gone.agents.agents]
    exact k.rising h

/-- A connected call is freed. -/
theorem State.CallLost.of_freed (k : s.OthersKept t y) (freed : t.call? y = none) (hs : c.state = .connected) :
    s.CallLost t l y c where
  call z := by
    by_cases hz : y = z
    · rw [if_pos hz, ← hz, freed]
    · rw [if_neg hz, k.call z hz]
  order q := by rw [if_neg fun n => n.2 hs, k.order]
  abandoned q := by
    rw [if_neg fun n => n.2 hs, k.stats]
    exact (BitVec.add_zero _).symm
  token := k.token
  exits j _ := k.exits j
  listens j _ := k.listens j
  deferral _ w _ _ := by rw [k.highway]
  noExits h := (k.exits l).trans h
  noListens h := (k.listens l).trans h
  channel w ts := .inl (by rw [State.channel, k.highway, State.channel])
  rising := k.rising

/-! ## The three cases (R53) -/

theorem Ev.loseCall_waiting (hc : e.st.call? y = some c) (hs : c.state = .waiting) :
    Ev.loseCall l e y = e.removeCall y c .abandoned := by
  unfold Ev.loseCall
  rw [hc]
  dsimp only
  rw [hs]

/-- The end of a lost call's offer. -/
def Ev.loseOffer (l : Link) (e : Ev) (y : Nat) (c : Call) : Ev :=
  match c.offer with
  | none => e
  | some o =>
      if (e.st.agent o.agent).home = some l then e.upd fun s => s.endOffer y o.agent .withdrawn
      else e.withdrawFromCall y c o .linkLoss

theorem Ev.loseCall_offering (hc : e.st.call? y = some c) (hs : c.state = .offering) :
    Ev.loseCall l e y = (Ev.loseOffer l e y c).removeCall y c .abandoned := by
  unfold Ev.loseCall
  rw [hc]
  dsimp only
  rw [hs]
  rfl

/-- The end of a lost call's connection. -/
def Ev.loseConnection (l : Link) (e : Ev) (c : Call) : Ev :=
  match c.agent, c.connectTick with
  | some x, some t => if (e.st.agent x).home = some l then e else e.startWrap x c.queue t .linkLoss
  | _, _ => e

theorem Ev.loseCall_connected (hc : e.st.call? y = some c) (hs : c.state = .connected) :
    Ev.loseCall l e y = Ev.loseConnection l (e.upd fun s => s.freeCall y) c := by
  unfold Ev.loseCall
  rw [hc]
  dsimp only
  rw [hs]
  rfl

theorem Ev.loseOffer_kept (l : Link) (e : Ev) (y : Nat) (c : Call) : e.st.OthersKept (Ev.loseOffer l e y c).st y := by
  unfold Ev.loseOffer
  split
  · exact .refl _ _
  · split
    · exact .endOffer _ _ _ _
    · exact .withdrawFromCall _ _ _ _ _

/-- The call after the end of its offer. -/
theorem Ev.loseOffer_call (hc : e.st.call? y = some c) :
    ∃ c', (Ev.loseOffer l e y c).st.call? y = some c' ∧ (c' = c ∨ c' = c.offerEnded) := by
  unfold Ev.loseOffer
  split
  · exact ⟨c, hc, .inl rfl⟩
  · rename_i o ho
    refine ⟨c.offerEnded, ?_, .inr rfl⟩
    split
    · rw [Ev.upd_st, (State.endOffer_replaced hc o.agent .withdrawn).call, if_pos rfl]
    · rw [(Ev.withdrawFromCall_replaced hc o .linkLoss).call, if_pos rfl]

/-- The removal of a call whose offer has just ended. -/
theorem Ev.loseOffer_gone (hc : e.st.call? y = some c) : ∃ c', (c' = c ∨ c' = c.offerEnded) ∧
    (Ev.loseOffer l e y c).st.CallGone ((Ev.loseOffer l e y c).removeCall y c .abandoned).st y c' .abandoned := by
  obtain ⟨c', hc', h⟩ := Ev.loseOffer_call (l := l) hc
  have gone := Ev.removeCall_gone hc' .abandoned
  refine ⟨c', h, ?_⟩
  rcases h with rfl | rfl
  · exact gone
  · rwa [Ev.removeCall_offerEnded] at gone

theorem Ev.loseConnection_kept (l : Link) (e : Ev) (c : Call) : e.st.CallsKept (Ev.loseConnection l e c).st := by
  have refl : e.st.CallsKept e.st := ⟨rfl, fun _ => rfl, fun _ => rfl, rfl, fun _ => rfl, fun _ => rfl, id⟩
  unfold Ev.loseConnection
  split
  · split
    · exact refl
    · exact .startWrap _ _ _ _ _
  · exact refl

/-- The loss of one call, beside the agents and the entries of its offer (R53). -/
theorem Ev.loseCall_lost (hc : e.st.call? y = some c) (ho : c.owner = l) : e.st.CallLost (Ev.loseCall l e y).st l y c := by
  cases hs : c.state with
  | waiting =>
    rw [Ev.loseCall_waiting hc hs]
    exact .of_gone (.refl _ _) (Ev.removeCall_gone hc _) rfl ho (by rw [hs]; exact CallState.noConfusion)
  | offering =>
    rw [Ev.loseCall_offering hc hs]
    obtain ⟨c', h, gone⟩ := Ev.loseOffer_gone (l := l) hc
    have same : c'.queue = c.queue ∧ c'.owner = c.owner := by
      rcases h with rfl | rfl
      · exact ⟨rfl, rfl⟩
      · exact ⟨rfl, rfl⟩
    exact .of_gone (Ev.loseOffer_kept l e y c) gone same.1 (same.2.trans ho) (by rw [hs]; exact CallState.noConfusion)
  | connected =>
    rw [Ev.loseCall_connected hc hs]
    have kept := Ev.loseConnection_kept l (e.upd fun s => s.freeCall y) c
    refine .of_freed ((State.OthersKept.freeCall e.st y).trans (.of_kept kept y)) ?_ hs
    rw [kept.call, Ev.upd_st, State.call?_freeCall, if_pos rfl]

/-! ## Its agent -/

theorem State.endOffer_withdrawn_agent (hc : s.call? y = some c) (o : CallOffer) (z : Nat) :
    (s.endOffer y o.agent .withdrawn).agent z = if o.agent = z then (s.agent o.agent).offerEnded .withdrawn else s.agent z :=
  (State.endOffer_replaced hc o.agent .withdrawn).agent z

/-- The agents after the loss of one call: the one that it names loses it, and the others are as they were. -/
theorem Ev.loseCall_agent (hc : e.st.call? y = some c) (x : Nat) : (Ev.loseCall l e y).st.agent x =
    if c.partner = some x then c.loses l e.st.tick (e.st.queue c.queue).config.wrapLimit (e.st.agent x) else e.st.agent x := by
  cases hs : c.state with
  | waiting =>
    rw [Ev.loseCall_waiting hc hs, Ev.removeCall_agent hc, Call.partner, hs]
    rfl
  | offering =>
    obtain ⟨c', -, gone⟩ := Ev.loseOffer_gone (l := l) hc
    rw [Ev.loseCall_offering hc hs, gone.agents.agent, Ev.loseOffer]
    simp only [Call.partner, Call.loses, hs]
    cases c.offer with
    | none => rfl
    | some o =>
      simp only [Option.map_some, Option.some.injEq]
      by_cases home : (e.st.agent o.agent).home = some l
      · rw [if_pos home, Ev.upd_st, (State.endOffer_replaced hc o.agent .withdrawn).agent]
        by_cases hx : o.agent = x
        · subst hx; simp [home]
        · simp [hx]
      · rw [if_neg home, (Ev.withdrawFromCall_replaced hc o .linkLoss).agent]
        by_cases hx : o.agent = x
        · subst hx; simp [home]
        · simp [hx]
  | connected =>
    rw [Ev.loseCall_connected hc hs, Ev.loseConnection]
    simp only [Call.partner, Call.loses, hs]
    cases c.agent with
    | none => simp [Ev.upd_st]
    | some z =>
      cases c.connectTick with
      | none => simp [Ev.upd_st]
      | some since =>
        dsimp only
        rw [Ev.upd_st, State.freeCall_agent]
        by_cases home : (e.st.agent z).home = some l
        · rw [if_pos home]
          by_cases hx : z = x
          · subst hx; simp [home, Ev.upd_st]
          · simp [hx, Ev.upd_st]
        · rw [if_neg home, (Ev.startWrap_replaced _ _ _ _ _).agent]
          by_cases hx : z = x
          · subst hx; simp [home, Ev.upd_st]
          · simp [hx, Ev.upd_st]

/-! ## The entries of its offer (R58) -/

theorem Ev.settleWithdrawn_link (e : Ev) (x : Nat) (cause : Cause) (k : Link) :
    (e.settleWithdrawn x cause).st.link k = e.st.link k := (State.CallsKept.settleWithdrawn e x cause).link k

theorem Ev.releaseReservation_other {k j : Link} (h : j ≠ k) (e : Ev) : (e.releaseReservation k).st.link j = e.st.link j := by
  unfold Ev.releaseReservation
  split
  · rw [Ev.markFreed_st, Ev.updLink_st, State.link_setLink, if_neg (Ne.symm h)]
  · rfl

/-- The entry reserved for an offer on the agent's home link carries its OFFER_CANCEL. -/
theorem Ev.cancelOffer_entry (e : Ev) (o : CallOffer) (z : Nat) (cause : CancelCause) (k : Link) :
    ((e.cancelOffer o z cause).st.link k).reserved
        = (e.st.link k).reserved - (if (e.st.agent o.agent).home = some k then 1 else 0)
      ∧ ((e.st.agent o.agent).home = some k → 0 < (e.st.link k).reserved →
        OutEntry.notice (.offerCancel o.token o.agent z cause) ∈ ((e.cancelOffer o z cause).st.link k).outbound) := by
  unfold Ev.cancelOffer
  cases (e.st.agent o.agent).home with
  | none => exact ⟨rfl, nofun⟩
  | some j =>
    dsimp only
    unfold Ev.useReservation
    by_cases hk : j = k
    · subst hk
      split
      · rw [Ev.updLink_st, State.link_setLink, if_pos rfl, if_pos rfl]
        exact ⟨rfl, fun _ _ => List.mem_append_right _ (List.mem_singleton.2 rfl)⟩
      · rename_i h
        refine ⟨?_, fun _ h' => absurd h' h⟩
        rw [if_pos rfl]
        omega
    · have hn : ¬(some j = some k) := fun h => hk (Option.some.inj h)
      rw [if_neg hn]
      split
      · rw [Ev.updLink_st, State.link_setLink, if_neg hk]
        exact ⟨rfl, fun h => absurd h hn⟩
      · exact ⟨rfl, fun h => absurd h hn⟩

theorem State.CallGone.reserved {n : CounterName} (k : s.CallGone t y c n) (j : Link) :
    (t.link j).reserved = (s.link j).reserved := by rw [k.link]

theorem State.CallGone.outbound {n : CounterName} (k : s.CallGone t y c n) (j : Link) :
    (t.link j).outbound = (s.link j).outbound := by rw [k.link]

/-- The other links after the loss of one call: the entry reserved on the agent's home link is used. -/
theorem Ev.loseCall_entry (hc : e.st.call? y = some c) (ho : c.owner = l) {k : Link} (hk : k ≠ l) :
    ((Ev.loseCall l e y).st.link k).reserved = (e.st.link k).reserved - (if c.offeredOn e.st k = true then 1 else 0)
      ∧ ∀ o, c.offer = some o → c.offeredOn e.st k = true → 0 < (e.st.link k).reserved →
        OutEntry.notice (.offerCancel o.token o.agent y .callWithdrawn) ∈ ((Ev.loseCall l e y).st.link k).outbound := by
  cases hs : c.state with
  | waiting =>
    have none : c.offeredOn e.st k = false := by rw [Call.offeredOn, hs]
    rw [Ev.loseCall_waiting hc hs, (Ev.removeCall_gone hc _).reserved, none]
    exact ⟨rfl, fun _ _ h => Bool.noConfusion h⟩
  | connected =>
    have none : c.offeredOn e.st k = false := by rw [Call.offeredOn, hs]
    rw [Ev.loseCall_connected hc hs, (Ev.loseConnection_kept l (e.upd fun s => s.freeCall y) c).link, none]
    exact ⟨by simp [Ev.upd_st], fun _ _ h => Bool.noConfusion h⟩
  | offering =>
    obtain ⟨c', -, gone⟩ := Ev.loseOffer_gone (l := l) hc
    rw [Ev.loseCall_offering hc hs, gone.reserved, gone.outbound, Ev.loseOffer]
    cases hco : c.offer with
    | none =>
      have none : c.offeredOn e.st k = false := by rw [Call.offeredOn, hs, hco]
      rw [none]
      exact ⟨rfl, nofun⟩
    | some o =>
      have on : c.offeredOn e.st k = decide ((e.st.agent o.agent).home = some k) := by rw [Call.offeredOn, hs, hco]
      dsimp only
      rw [on]
      simp only [decide_eq_true_iff]
      by_cases home : (e.st.agent o.agent).home = some l
      · have hn : ¬(e.st.agent o.agent).home = some k := fun h => hk (Option.some.inj (h.symm.trans home))
        rw [if_pos home, if_neg hn, Ev.upd_st, State.endOffer_link]
        exact ⟨rfl, fun _ _ h => absurd h hn⟩
      · have pair := State.endOffer_withdrawn_agent hc o o.agent
        rw [if_pos rfl] at pair
        have entry := (e.upd fun s => s.endOffer y o.agent .withdrawn).cancelOffer_entry o y .callWithdrawn k
        rw [Ev.upd_st, State.endOffer_link, pair] at entry
        rw [if_neg home]
        unfold Ev.withdrawFromCall
        dsimp only
        rw [Ev.settleWithdrawn_link, ho, Ev.releaseReservation_other hk]
        refine ⟨entry.1, fun o' ho' h free => ?_⟩
        cases ho'
        exact entry.2 h free

end

end Sys2Proof.Machine
end

section
/-!
PROOF. The loss of all the calls of a lost link (R182 step 1).
-/
namespace Sys2Proof.Machine

open Sys2Proof

/-- What holds of the part of a list that a fold has gone through holds of the whole list at its end. -/
theorem foldl_through {α β : Type} {f : β → α → β} {P : List α → β → Prop} {as : List α} {b : β} (start : P [] b)
    (step : ∀ done a rest b, as = done ++ a :: rest → P done b → P (done ++ [a]) (f b a)) : P as (as.foldl f b) := by
  have key : ∀ (rest done : List α) (b : β), as = done ++ rest → P done b → P as (rest.foldl f b) := by
    intro rest
    induction rest with
    | nil => intro done b h hb; rw [h, List.append_nil]; exact hb
    | cons a rest ih =>
      intro done b h hb
      exact ih (done ++ [a]) (f b a) (by rw [h, List.append_assoc]; rfl) (step done a rest b h hb)
  exact key as [] b rfl start

theorem not_mem_of_nodup_append {α : Type} {as done rest : List α} {a : α} (h : as = done ++ a :: rest) (nodup : as.Nodup) :
    a ∉ done := by
  intro ha
  rw [h] at nodup
  exact (List.nodup_append.1 nodup).2.2 a ha a List.mem_cons_self rfl

section
variable {s t u : State} {e d : Ev} {l : Link} {y : Nat} {c : Call} {ys : List Nat}

/-- The call in a slot is in a queue and not CONNECTED. -/
def State.waitsIn (s : State) (q y : Nat) : Bool :=
  (s.call? y).any fun c => decide (c.queue = q ∧ c.state ≠ .connected)

theorem State.waitsIn_iff {q : Nat} (hc : s.call? y = some c) : s.waitsIn q y = true ↔ q = c.queue ∧ c.state ≠ .connected := by
  rw [State.waitsIn, hc, Option.any_some, decide_eq_true_iff, eq_comm]

/-- The call in a slot has an offer to an agent whose home is on a link. -/
def State.offersOn (s : State) (k : Link) (y : Nat) : Bool := (s.call? y).any fun c => c.offeredOn s k

/-- What the loss of calls changes beside the agents and the entries of their offers (R53). -/
structure State.CallsLost (s t : State) (l : Link) (ys : List Nat) : Prop where
  call : ∀ z, t.call? z = if z ∈ ys then none else s.call? z
  order : ∀ q, (t.queue q).order = (s.queue q).order.filter fun z => !(decide (z ∈ ys) && s.waitsIn q z)
  abandoned : ∀ q, (t.queue q).stats.abandoned.value
    = (s.queue q).stats.abandoned.value + BitVec.ofNat 32 (ys.countP (s.waitsIn q))
  token : t.token = s.token
  exits : ∀ k, k ≠ l → (t.link k).exitOrder = (s.link k).exitOrder
  listens : ∀ k, k ≠ l → (t.link k).listenOrder = (s.link k).listenOrder
  deferral : ∀ k w, k ≠ l → k.highway? = some w → (t.highway w).deferral = (s.highway w).deferral
  noExits : (t.link l).exitOrder = []
  noListens : (t.link l).listenOrder = []
  channel : ∀ w ts, t.channel w ts = s.channel w ts ∨ t.channel w ts = Channel.draining
  rising : Assoc.rising t.agents = true
  engine : Engine s t

theorem State.CallsLost.none (exits : (s.link l).exitOrder = []) (listens : (s.link l).listenOrder = [])
    (rising : Assoc.rising s.agents = true) : s.CallsLost s l [] where
  call _ := rfl
  order q := by simp
  abandoned q := by simp
  token := rfl
  exits _ _ := rfl
  listens _ _ := rfl
  deferral _ _ _ _ := rfl
  noExits := exits
  noListens := listens
  channel _ _ := .inl rfl
  rising := rising
  engine := Engine.refl s

theorem State.CallsLost.step (k : s.CallsLost t l ys) (hc : s.call? y = some c) (hy : y ∉ ys) (m : t.CallLost u l y c)
    (engine : Engine t u) : s.CallsLost u l (ys ++ [y]) where
  call z := by
    rw [m.call, k.call]
    by_cases hz : y = z
    · subst hz; simp
    · simp [hz, Ne.symm hz]
  order q := by
    rw [m.order, k.order]
    by_cases hq : q = c.queue ∧ c.state ≠ .connected
    · have waits : s.waitsIn q y = true := (State.waitsIn_iff hc).2 hq
      rw [if_pos hq, List.filter_filter]
      congr 1
      funext z
      by_cases hz : z = y
      · subst hz; simp [waits]
      · simp [hz]
    · have waits : s.waitsIn q y = false := Bool.eq_false_iff.2 fun h => hq ((State.waitsIn_iff hc).1 h)
      rw [if_neg hq]
      congr 1
      funext z
      by_cases hz : z = y
      · subst hz; simp [waits]
      · simp [hz]
  abandoned q := by
    rw [m.abandoned, k.abandoned, List.countP_append, List.countP_singleton]
    by_cases hq : q = c.queue ∧ c.state ≠ .connected
    · rw [if_pos hq, if_pos ((State.waitsIn_iff hc).2 hq), BitVec.ofNat_add, BitVec.add_assoc]
      rfl
    · rw [if_neg hq, if_neg fun h => hq ((State.waitsIn_iff hc).1 h)]
      exact BitVec.add_zero _
  token := m.token.trans k.token
  exits j hj := (m.exits j hj).trans (k.exits j hj)
  listens j hj := (m.listens j hj).trans (k.listens j hj)
  deferral j w hj hw := (m.deferral j w hj hw).trans (k.deferral j w hj hw)
  noExits := m.noExits k.noExits
  noListens := m.noListens k.noListens
  channel w ts := by
    rcases m.channel w ts with h | h
    · rw [h]; exact k.channel w ts
    · exact .inr h
  rising := m.rising k.rising
  engine := k.engine.trans engine

/-- The calls that a link owns, as a fold goes through them. -/
theorem State.ownedCalls_split {done rest : List Nat} (rising : Assoc.rising s.calls = true) (h : s.ownedCalls l = done ++ y :: rest) :
    y ∉ done ∧ ∃ c, s.call? y = some c ∧ c.owner = l :=
  ⟨not_mem_of_nodup_append h (State.nodup_ownedCalls rising l),
    (State.mem_ownedCalls rising).1 (by rw [h]; exact List.mem_append_right _ List.mem_cons_self)⟩

/-- The loss of the calls of a link, as a fold goes through them. -/
def Ev.loseCalls (l : Link) (e : Ev) (ys : List Nat) : Ev := ys.foldl (Ev.loseCall l) e

theorem Ev.loseCalls_lost (rising : Assoc.rising e.st.calls = true) (agents : Assoc.rising e.st.agents = true)
    (exits : (e.st.link l).exitOrder = []) (listens : (e.st.link l).listenOrder = []) :
    e.st.CallsLost (Ev.loseCalls l e (e.st.ownedCalls l)).st l (e.st.ownedCalls l) := by
  refine foldl_through (P := fun ys (d : Ev) => e.st.CallsLost d.st l ys) (.none exits listens agents) fun done y rest d h k => ?_
  obtain ⟨hy, c, hc, ho⟩ := State.ownedCalls_split rising h
  have hd : d.st.call? y = some c := by rw [k.call, if_neg hy, hc]
  exact k.step hc hy (Ev.loseCall_lost hd ho) (Ev.loseCall_engine l d y)

/-- The loss of WAITING calls changes no agent and frees nothing. -/
theorem Ev.loseCalls_waiting (rising : Assoc.rising e.st.calls = true)
    (waiting : ∀ y c, e.st.call? y = some c → c.owner = l → c.state = .waiting) :
    e.st.SameAgents (Ev.loseCalls l e (e.st.ownedCalls l)).st ∧ e.Tells (Ev.loseCalls l e (e.st.ownedCalls l)) := by
  have key : (∀ z, (Ev.loseCalls l e (e.st.ownedCalls l)).st.call? z = if z ∈ e.st.ownedCalls l then none else e.st.call? z)
      ∧ e.st.SameAgents (Ev.loseCalls l e (e.st.ownedCalls l)).st ∧ e.Tells (Ev.loseCalls l e (e.st.ownedCalls l)) := by
    refine foldl_through (P := fun ys (d : Ev) => (∀ z, d.st.call? z = if z ∈ ys then none else e.st.call? z)
      ∧ e.st.SameAgents d.st ∧ e.Tells d) ⟨fun _ => rfl, ⟨rfl, rfl, rfl, rfl⟩, .refl e⟩ fun done y rest d h ⟨call, same, tells⟩ => ?_
    obtain ⟨hy, c, hc, ho⟩ := State.ownedCalls_split rising h
    have hd : d.st.call? y = some c := by rw [call, if_neg hy, hc]
    rw [Ev.loseCall_waiting hd (waiting y c hc ho)]
    have gone := Ev.removeCall_gone hd .abandoned
    refine ⟨fun z => ?_, ?_, tells.trans (Ev.removeCall_tells _ _ _ _)⟩
    · rw [gone.call, call]
      by_cases hz : y = z
      · subst hz; simp
      · simp [hz, Ne.symm hz]
    · exact ⟨gone.agents.agents.trans same.agents, gone.agents.available.trans same.available,
        gone.agents.recent.trans same.recent, gone.agents.token.trans same.token⟩
  exact key.2

/-! ## The agents of the lost calls -/

/-- No agent is named by two calls. -/
def State.PartnersApart (s : State) : Prop :=
  ∀ y z c b x, s.call? y = some c → s.call? z = some b → c.partner = some x → b.partner = some x → y = z

/-- What an agent becomes when the call that names it is lost. -/
def State.bereaved (s : State) (l : Link) (c : Call) (x : Nat) : Agent :=
  c.loses l s.tick (s.queue c.queue).config.wrapLimit (s.agent x)

/-- What the loss of calls makes of the agents, and of the entries of their offers on the other links (R58, R182 step 1). -/
structure State.PartnersLost (s t : State) (l : Link) (ys : List Nat) : Prop where
  lost : ∀ y ∈ ys, ∀ c x, s.call? y = some c → c.partner = some x → t.agent x = s.bereaved l c x
  kept : ∀ x, (∀ y ∈ ys, ∀ c, s.call? y = some c → c.partner ≠ some x) → t.agent x = s.agent x
  reserved : ∀ k, k ≠ l → (t.link k).reserved = (s.link k).reserved - ys.countP (s.offersOn k)
  cancelled : ∀ k, k ≠ l → ∀ y ∈ ys, ∀ c o, s.call? y = some c → c.offer = some o → c.offeredOn s k = true →
    OutEntry.notice (.offerCancel o.token o.agent y .callWithdrawn) ∈ (t.link k).outbound

theorem Call.offeredOn_partner {k : Link} (h : c.offeredOn s k = true) :
    ∃ o, c.offer = some o ∧ c.partner = some o.agent ∧ (s.agent o.agent).home = some k := by
  unfold Call.offeredOn at h
  split at h
  · rename_i o hs ho
    exact ⟨o, ho, by rw [Call.partner, hs, ho]; rfl, of_decide_eq_true h⟩
  · cases h

theorem Call.offeredOn_congr (h : ∀ x, c.partner = some x → t.agent x = s.agent x) (k : Link) :
    c.offeredOn t k = c.offeredOn s k := by
  unfold Call.offeredOn
  split
  · rename_i o hs ho
    rw [h o.agent (by rw [Call.partner, hs, ho]; rfl)]
  · rfl

/-- An entry that stands in an outbound queue stays while the engine works. -/
theorem Engine.keeps {n : Notice} {k : Link} (h : Engine s t) (hn : OutEntry.notice n ∈ (s.link k).outbound) :
    OutEntry.notice n ∈ (t.link k).outbound := by
  obtain ⟨ns, hns⟩ := h.grows k
  rw [hns]
  exact List.mem_append_left _ hn

theorem State.PartnersLost.step (apart : s.PartnersApart) (hc : s.call? y = some c) (hy : y ∉ ys)
    (owned : c.owner = l) (lost : s.CallsLost d.st l ys) (k : s.PartnersLost d.st l ys)
    (entries : ∀ k, k ≠ l → (ys ++ [y]).countP (s.offersOn k) ≤ (s.link k).reserved) :
    s.PartnersLost (Ev.loseCall l d y).st l (ys ++ [y]) := by
  have hd : d.st.call? y = some c := by rw [lost.call, if_neg hy, hc]
  have own : ∀ x, c.partner = some x → d.st.agent x = s.agent x := fun x hx =>
    k.kept x fun z hz b hb hbx => hy (apart y z c b x hc hb hx hbx ▸ hz)
  have agent := Ev.loseCall_agent (l := l) hd
  have on := Call.offeredOn_congr (t := d.st) own
  refine ⟨fun z hz b x hb hx => ?_, fun x hx => ?_, fun j hj => ?_, fun j hj z hz b o hb ho hoff => ?_⟩
  · rw [agent]
    rcases List.mem_append.1 hz with hz | hz
    · rw [if_neg fun h => hy (apart y z c b x hc hb h hx ▸ hz)]
      exact k.lost z hz b x hb hx
    · obtain rfl := List.mem_singleton.1 hz
      obtain rfl := Option.some.inj (hc.symm.trans hb)
      rw [if_pos hx, own x hx, lost.engine.tick, lost.engine.config]
      rfl
  · rw [agent, if_neg (hx y (List.mem_append_right _ (List.mem_singleton.2 rfl)) c hc)]
    exact k.kept x fun z hz => hx z (List.mem_append_left _ hz)
  · rw [(Ev.loseCall_entry hd owned hj).1, k.reserved j hj, on, List.countP_append, List.countP_singleton, State.offersOn, hc,
      Nat.sub_sub]
    rfl
  · rcases List.mem_append.1 hz with hz | hz
    · exact (Ev.loseCall_engine l d y).keeps (k.cancelled j hj z hz b o hb ho hoff)
    · obtain rfl := List.mem_singleton.1 hz
      obtain rfl := Option.some.inj (hc.symm.trans hb)
      refine (Ev.loseCall_entry hd owned hj).2 o ho (by rw [on, hoff]) ?_
      have mine : s.offersOn j z = true := by rw [State.offersOn, hc]; exact hoff
      have := entries j hj
      rw [List.countP_append, List.countP_singleton, mine, if_pos rfl] at this
      rw [k.reserved j hj]
      omega

theorem Ev.loseCalls_partners (rising : Assoc.rising e.st.calls = true) (agents : Assoc.rising e.st.agents = true)
    (exits : (e.st.link l).exitOrder = []) (listens : (e.st.link l).listenOrder = []) (apart : e.st.PartnersApart)
    (entries : ∀ k, k ≠ l → (e.st.ownedCalls l).countP (e.st.offersOn k) ≤ (e.st.link k).reserved) :
    e.st.PartnersLost (Ev.loseCalls l e (e.st.ownedCalls l)).st l (e.st.ownedCalls l) := by
  have key : e.st.CallsLost (Ev.loseCalls l e (e.st.ownedCalls l)).st l (e.st.ownedCalls l)
      ∧ e.st.PartnersLost (Ev.loseCalls l e (e.st.ownedCalls l)).st l (e.st.ownedCalls l) := by
    refine foldl_through (P := fun ys (d : Ev) => e.st.CallsLost d.st l ys ∧ e.st.PartnersLost d.st l ys)
      ⟨.none exits listens agents, nofun, fun _ _ => rfl, fun _ _ => rfl, nofun⟩ fun done y rest d h ⟨lost, k⟩ => ?_
    obtain ⟨hy, c, hc, ho⟩ := State.ownedCalls_split rising h
    have hd : d.st.call? y = some c := by rw [lost.call, if_neg hy, hc]
    refine ⟨lost.step hc hy (Ev.loseCall_lost hd ho) (Ev.loseCall_engine l d y), State.PartnersLost.step apart hc hy ho lost k fun j hj => ?_⟩
    refine le_trans ?_ (entries j hj)
    rw [h]
    exact List.Sublist.countP_le ((List.singleton_sublist.2 List.mem_cons_self).append_left done)
  exact key.2

end

end Sys2Proof.Machine
end

section
/-!
PROOF. The highway of a lost link, and the logout of the agents that the link homes (R161, R182 step 2).
-/
namespace Sys2Proof.Machine

open Sys2Proof

section
variable {s t u : State} {e d : Ev} {l : Link} {y : Nat} {c : Call} {xs : List Nat}

/-! ## The highway of a lost link (R161) -/

/-- What the loss of a highway changes: its deferral list and its channels. -/
structure State.Drained (s t : State) (w : Highway) : Prop where
  agents : s.SameAgents t
  queues : t.queues = s.queues
  calls : t.calls = s.calls
  link : ∀ k, t.link k = s.link k
  others : ∀ v, v ≠ w → (t.highway v).deferral = (s.highway v).deferral
  deferral : (t.highway w).deferral = []
  channel : ∀ ts, t.channel w ts = Channel.draining
    ∨ (t.channel w ts = s.channel w ts ∧ (s.channel w ts).state ≠ .bound ∧ (s.channel w ts).state ≠ .playing)

theorem State.drainChannel_rest (s : State) (w : Highway) (ts : Nat) :
    s.SameAgents (s.drainChannel w ts) ∧ (s.drainChannel w ts).queues = s.queues ∧ (s.drainChannel w ts).calls = s.calls := by
  refine ⟨⟨?_, ?_, ?_, ?_⟩, ?_, ?_⟩ <;> simp [State.drainChannel, State.setChannel]

/-- The highway after the deferral list has been emptied and some of its channels have been drained. -/
structure State.DrainedThrough (s t : State) (w : Highway) (fs : List (Nat × Channel)) : Prop where
  agents : s.SameAgents t
  queues : t.queues = s.queues
  calls : t.calls = s.calls
  link : ∀ k, t.link k = s.link k
  deferral : ∀ v, (t.highway v).deferral = if w = v then [] else (s.highway v).deferral
  channel : ∀ ts, t.channel w ts = Channel.draining ∨ t.channel w ts = s.channel w ts
  drained : ∀ f ∈ fs, f.2.state = .bound ∨ f.2.state = .playing → t.channel w f.1 = Channel.draining

theorem State.DrainedThrough.start (s : State) (w : Highway) :
    s.DrainedThrough (s.setHighway w { s.highway w with deferral := [] }) w [] where
  agents := ⟨by simp, by simp, by simp, by simp⟩
  queues := by simp
  calls := by simp
  link := by simp
  deferral v := by
    rw [State.highway_setHighway]
    split <;> rfl
  channel ts := .inr (by
    rw [State.channel, State.highway_setHighway, if_pos rfl]
    rfl)
  drained := nofun

theorem State.DrainedThrough.step {w : Highway} {fs : List (Nat × Channel)} (k : s.DrainedThrough t w fs) (f : Nat × Channel) :
    s.DrainedThrough (if f.2.state = .bound ∨ f.2.state = .playing then t.drainChannel w f.1 else t) w (fs ++ [f]) := by
  split
  · obtain ⟨same, queues, calls⟩ := t.drainChannel_rest w f.1
    refine ⟨⟨same.agents.trans k.agents.agents, same.available.trans k.agents.available, same.recent.trans k.agents.recent,
      same.token.trans k.agents.token⟩, queues.trans k.queues, calls.trans k.calls, fun j => ?_, fun v => ?_, fun ts => ?_,
      fun g hg hs => ?_⟩
    · rw [State.drainChannel_link, k.link]
    · rw [State.drainChannel_deferral, k.deferral]
    · rw [State.drainChannel_channel]
      split
      · exact .inl rfl
      · exact k.channel ts
    · rw [State.drainChannel_channel]
      split
      · rfl
      · rename_i hn
        rcases List.mem_append.1 hg with hg | hg
        · exact k.drained g hg hs
        · exact absurd ⟨rfl, by rw [List.mem_singleton.1 hg]⟩ hn
  · rename_i hf
    refine ⟨k.agents, k.queues, k.calls, k.link, k.deferral, k.channel, fun g hg hs => ?_⟩
    rcases List.mem_append.1 hg with hg | hg
    · exact k.drained g hg hs
    · rw [List.mem_singleton.1 hg] at hs
      exact absurd hs hf

theorem State.drainHighway_through (s : State) (w : Highway) : s.DrainedThrough (s.drainHighway w) w (s.highway w).channels := by
  have entries : ((s.setHighway w { s.highway w with deferral := [] }).highway w).channels = (s.highway w).channels := by
    rw [State.highway_setHighway, if_pos rfl]
  unfold State.drainHighway
  dsimp only
  rw [entries]
  exact foldl_through (P := fun fs t => s.DrainedThrough t w fs) (.start s w) fun _ f _ _ _ k => k.step f

theorem State.drainHighway_drained (s : State) (w : Highway) : s.Drained (s.drainHighway w) w := by
  have k := s.drainHighway_through w
  refine ⟨k.agents, k.queues, k.calls, k.link, fun v hv => by rw [k.deferral, if_neg (Ne.symm hv)],
    by rw [k.deferral, if_pos rfl], fun ts => ?_⟩
  by_cases hs : (s.channel w ts).state = .bound ∨ (s.channel w ts).state = .playing
  · left
    cases hf : Assoc.find ts (s.highway w).channels with
    | none =>
      have free : s.channel w ts = Channel.free := by rw [State.channel, Assoc.get, hf]; rfl
      rw [free] at hs
      rcases hs with hs | hs <;> cases hs
    | some r =>
      have hr : s.channel w ts = r := by rw [State.channel, Assoc.get, hf]; rfl
      rw [hr] at hs
      exact k.drained (ts, r) (Assoc.mem_of_find hf) hs
  · rcases k.channel ts with h | h
    · exact .inl h
    · exact .inr ⟨h, fun hb => hs (.inl hb), fun hp => hs (.inr hp)⟩

end

end Sys2Proof.Machine
end

section
/-!
PROOF. The logout of the agents that a lost link homes (R28, R182 step 2).
-/
namespace Sys2Proof.Machine

open Sys2Proof

section
variable {s t u : State} {e d : Ev} {l : Link} {x y : Nat} {c : Call} {xs : List Nat} {loose unplaced : Nat → Prop} {sorted : Prop}

/-! ## One agent -/

/-- The waiting orders, the counters, the token, the waiting work and the highways are as they were, and the agent table stays in its
canonical form. -/
structure State.RestKept (s t : State) : Prop where
  order : ∀ q, (t.queue q).order = (s.queue q).order
  stats : ∀ q, (t.queue q).stats = (s.queue q).stats
  token : t.token = s.token
  exits : ∀ k, (t.link k).exitOrder = (s.link k).exitOrder
  listens : ∀ k, (t.link k).listenOrder = (s.link k).listenOrder
  highway : ∀ w, t.highway w = s.highway w
  rising : Assoc.rising s.agents = true → Assoc.rising t.agents = true

namespace State.RestKept

theorem refl (s : State) : s.RestKept s :=
  ⟨fun _ => rfl, fun _ => rfl, rfl, fun _ => rfl, fun _ => rfl, fun _ => rfl, id⟩

theorem trans (h : s.RestKept t) (k : t.RestKept u) : s.RestKept u :=
  ⟨fun q => (k.order q).trans (h.order q), fun q => (k.stats q).trans (h.stats q), k.token.trans h.token,
    fun j => (k.exits j).trans (h.exits j), fun j => (k.listens j).trans (h.listens j), fun w => (k.highway w).trans (h.highway w),
    fun r => k.rising (h.rising r)⟩

theorem of_others (h : s.OthersKept t y) : s.RestKept t := ⟨h.order, h.stats, h.token, h.exits, h.listens, h.highway, h.rising⟩

theorem of_kept (h : s.CallsKept t) : s.RestKept t := of_others (.of_kept h 0)

end State.RestKept

/-- What an agent of a lost link becomes. -/
def Agent.bereft (a : Agent) : Agent :=
  { a.out with lastOutcome := if a.offer.isSome then some .withdrawn else a.lastOutcome }

/-- What a call becomes when its agent is lost. -/
def Call.unserved (c : Call) : Call :=
  match c.state with
  | .waiting => c
  | .offering => c.offerEnded
  | .connected => { c with agent := none }

theorem Call.unserved_connected (hs : c.state = .connected) : c.unserved = { c with agent := none } := by
  unfold Call.unserved
  split
  · rename_i h; rw [hs] at h; cases h
  · rename_i h; rw [hs] at h; cases h
  · rfl

/-- The offer of an agent of a lost link ends. -/
def Ev.endAgentOffer (e : Ev) (x : Nat) : Ev :=
  match (e.st.agent x).offer with
  | none => e
  | some o =>
      match e.st.call? o.call with
      | none => e
      | some c => (e.upd fun s => s.endOffer o.call x .withdrawn).releaseReservation c.owner

theorem Ev.loseAgent_eq (e : Ev) (x : Nat) :
    e.loseAgent x = ((e.upd fun s => s.dropAgent x).endAgentOffer x).completeLogout x .linkLoss := by
  have agent : (e.upd fun s => s.dropAgent x).st.agent x = e.st.agent x := State.dropAgent_agent _ _ _
  unfold Ev.endAgentOffer
  rw [agent]
  rfl

theorem State.RestKept.updCall (s : State) (y : Nat) (f : Call → Call) : s.RestKept (s.updCall y f) :=
  ⟨by simp, by simp, by simp, by simp, by simp, by simp, by simp⟩

theorem State.RestKept.dropAgent (s : State) (x : Nat) : s.RestKept (s.dropAgent x) := by
  unfold State.dropAgent
  split
  · exact .updCall _ _ _
  · exact .refl s

theorem State.RestKept.endAgentOffer (e : Ev) (x : Nat) : e.st.RestKept (e.endAgentOffer x).st := by
  unfold Ev.endAgentOffer
  split
  · exact .refl _
  · split
    · exact .refl _
    · refine State.RestKept.trans ?_ (.of_others (.releaseReservation _ _ 0))
      exact .of_others (.endOffer _ _ _ _)

theorem State.RestKept.loseAgent (e : Ev) (x : Nat) : e.st.RestKept (e.loseAgent x).st := by
  rw [Ev.loseAgent_eq]
  refine State.RestKept.trans ?_ (.of_kept (.completeLogout _ _ _))
  exact (State.RestKept.dropAgent e.st x).trans (.endAgentOffer (e.upd fun s => s.dropAgent x) x)

/-- A call names the agent of its offer or of its connection, and that agent names the call. -/
theorem State.Consistent.partner (h : s.Consistent sorted loose unplaced) (hc : s.call? y = some c) (hx : c.partner = some x) :
    (c.state = .offering ∧ ∃ o, (s.agent x).offer = some o ∧ o.call = y)
      ∨ (c.state = .connected ∧ c.agent = some x ∧ (s.agent x).call = some y) := by
  unfold Call.partner at hx
  split at hx
  · cases hx
  · rename_i hs
    obtain ⟨o, ho, rfl⟩ := Option.map_eq_some_iff.1 hx
    exact .inl ⟨hs, _, h.callOffers y c o hc ho, rfl⟩
  · rename_i hs
    exact .inr ⟨hs, hx, h.callAgents y c x hc hx⟩

/-- An agent without an offer. -/
theorem State.Consistent.loseUnoffered (h : e.st.Consistent sorted loose nobody) (ho : (e.st.agent x).offer = none) :
    (∀ z, (e.loseAgent x).st.agent z = if x = z then (e.st.agent x).bereft else e.st.agent z)
      ∧ ∀ z, (e.loseAgent x).st.call? z = (e.st.call? z).map fun c => if c.partner = some x then c.unserved else c := by
  have agent : (e.upd fun s => s.dropAgent x).st.agent x = e.st.agent x := State.dropAgent_agent _ _ _
  have ended : (e.upd fun s => s.dropAgent x).endAgentOffer x = e.upd fun s => s.dropAgent x := by
    rw [Ev.endAgentOffer, agent, ho]
  rw [Ev.loseAgent_eq, ended, Ev.completeLogout_eq]
  refine ⟨fun z => ?_, fun z => ?_⟩
  · rw [State.outOfTable_agent, agent, Ev.upd_st, State.dropAgent_agent, Agent.bereft, ho]
    rfl
  · rw [State.outOfTable_call, Ev.upd_st]
    cases hz : e.st.call? z with
    | none =>
      unfold State.dropAgent
      split
      · rw [State.call?_updCall, hz]
        split <;> simp_all
      · rw [hz]; rfl
    | some c =>
      rw [Option.map_some]
      by_cases hx : c.partner = some x
      · obtain ⟨-, o, ho', -⟩ | ⟨hs, hagent, hcall⟩ := h.partner hz hx
        · rw [ho] at ho'; cases ho'
        · rw [State.dropAgent, hcall]
          dsimp only
          rw [State.call?_updCall, if_pos rfl, hz, if_pos hx, Call.unserved_connected hs]
          rfl
      · rw [if_neg hx]
        unfold State.dropAgent
        split
        · rename_i y hy
          rw [State.call?_updCall]
          split
          · rename_i hyz
            subst hyz
            have none : c.agent = none := by
              rcases h.agentCalls x y hy with ⟨b, hb, hbx⟩ | ⟨-, hn⟩
              · rw [hz] at hb; cases hb
                have hs := (h.call y c hz).served (by rw [hbx]; rfl)
                exact absurd (by rw [Call.partner, hs]; exact hbx) hx
              · exact hn c hz
            rw [hz, Option.map_some]
            congr 1
            cases c
            simp_all
          · exact hz
        · exact hz

/-- An agent that holds an offer. -/
theorem State.Consistent.loseOffered {o : AgentOffer} (h : e.st.Consistent sorted loose nobody)
    (ho : (e.st.agent x).offer = some o) :
    (∀ z, (e.loseAgent x).st.agent z = if x = z then (e.st.agent x).bereft else e.st.agent z)
      ∧ ∀ z, (e.loseAgent x).st.call? z = (e.st.call? z).map fun c => if c.partner = some x then c.unserved else c := by
  obtain ⟨c, k, hc, hk, hx, -⟩ := h.agentOffers x o ho
  obtain ⟨hs, -, -, hcall, -⟩ := h.offerPair hc hk
  have dropped : (e.upd fun s => s.dropAgent x) = e := by rw [Ev.upd, h.dropAgent_of_offer ho]
  have ended : e.endAgentOffer x = (e.upd fun s => s.endOffer o.call x .withdrawn).releaseReservation c.owner := by
    rw [Ev.endAgentOffer, ho]
    dsimp only
    rw [hc]
  have pair := State.endOffer_replaced hc x .withdrawn
  have same := Ev.releaseReservation_same (e.upd fun s => s.endOffer o.call x .withdrawn) c.owner
  rw [Ev.loseAgent_eq, dropped, ended, Ev.completeLogout_eq]
  refine ⟨fun z => ?_, fun z => ?_⟩
  · rw [State.outOfTable_agent, same.agent, same.agent, Ev.upd_st, pair.agent, pair.agent, if_pos rfl]
    by_cases hz : x = z
    · rw [if_pos hz, if_pos hz, Agent.bereft, ho]
      rfl
    · rw [if_neg hz, if_neg hz, if_neg hz]
  · rw [State.outOfTable_call, same.call, Ev.upd_st, pair.call]
    by_cases hz : o.call = z
    · subst hz
      have mine : c.partner = some x := by rw [Call.partner, hs, hk, ← hx]; rfl
      rw [if_pos rfl, hc, Option.map_some, if_pos mine, Call.unserved, hs]
    · rw [if_neg hz]
      cases hb : e.st.call? z with
      | none => rfl
      | some b =>
        rw [Option.map_some, if_neg]
        intro hbx
        obtain ⟨-, o', ho', hz'⟩ | ⟨-, -, hcall'⟩ := h.partner hb hbx
        · rw [ho] at ho'
          cases ho'
          exact hz hz'
        · rw [← hx, hcall] at hcall'
          cases hcall'

theorem State.Consistent.loseAgent_parts (h : e.st.Consistent sorted loose nobody) (x : Nat) :
    (∀ z, (e.loseAgent x).st.agent z = if x = z then (e.st.agent x).bereft else e.st.agent z)
      ∧ ∀ z, (e.loseAgent x).st.call? z = (e.st.call? z).map fun c => if c.partner = some x then c.unserved else c := by
  cases ho : (e.st.agent x).offer with
  | none => exact h.loseUnoffered ho
  | some o => exact h.loseOffered ho

/-! ## All of them -/

theorem Call.unserved_partner (c : Call) : c.unserved.partner = none := by
  unfold Call.unserved
  cases hs : c.state with
  | waiting => rw [Call.partner, hs]
  | offering => rfl
  | connected => simp [Call.partner]

/-- What the logout of agents changes. -/
structure State.AgentsLost (s t : State) (xs : List Nat) : Prop where
  agent : ∀ z, t.agent z = if z ∈ xs then (s.agent z).bereft else s.agent z
  call : ∀ z, t.call? z = (s.call? z).map fun c => if c.partner.any (· ∈ xs) = true then c.unserved else c
  rest : s.RestKept t
  engine : Engine s t

theorem Ev.loseAgents_lost (nodup : xs.Nodup) (h : e.st.Consistent sorted loose nobody) :
    e.st.AgentsLost (xs.foldl Ev.loseAgent e).st xs := by
  have key : (xs.foldl Ev.loseAgent e).st.Consistent sorted (fun z => loose z ∧ z ∉ xs) nobody
      ∧ e.st.AgentsLost (xs.foldl Ev.loseAgent e).st xs := by
    refine foldl_through (P := fun xs (d : Ev) => d.st.Consistent sorted (fun z => loose z ∧ z ∉ xs) nobody ∧ e.st.AgentsLost d.st xs)
      ⟨h.loosen fun z hz => ⟨hz, List.not_mem_nil⟩, fun z => by simp, fun z => by simp, .refl _, Engine.refl _⟩
      fun done x rest d hxs ⟨con, k⟩ => ?_
    have hx := not_mem_of_nodup_append hxs nodup
    obtain ⟨agent, call⟩ := con.loseAgent_parts x
    refine ⟨con.loseAgent x fun z hz hl => ⟨hl.1, by simp [hl.2, hz]⟩, fun z => ?_, fun z => ?_, k.rest.trans (.loseAgent d x),
      k.engine.trans (d.loseAgent_engine x)⟩
    · rw [agent, k.agent, k.agent, if_neg hx]
      by_cases hz : x = z
      · subst hz; simp
      · simp [hz, Ne.symm hz]
    · rw [call, k.call, Option.map_map]
      congr 1
      funext c
      by_cases hm : c.partner.any (· ∈ done) = true
      · have more : c.partner.any (· ∈ done ++ [x]) = true := by
          obtain ⟨z, hz, hd⟩ := (Option.any_eq_true _ _).1 hm
          exact (Option.any_eq_true _ _).2 ⟨z, hz, by simpa using .inl (of_decide_eq_true hd)⟩
        rw [Function.comp_apply, if_pos hm, Call.unserved_partner, if_neg nofun, if_pos more]
      · rw [Function.comp_apply, if_neg hm]
        cases hp : c.partner with
        | none => rfl
        | some z =>
          have hz : z ∉ done := fun hd => hm (by rw [hp]; exact decide_eq_true hd)
          by_cases hxz : z = x
          · subst hxz; simp
          · simp [hz, hxz]
  exact key.2

/-- The logout of agents that hold no offer and no call. -/
structure State.AgentsOut (s t : State) (xs : List Nat) : Prop where
  agent : ∀ z, t.agent z = if z ∈ xs then (s.agent z).out else s.agent z
  kept : s.CallsKept t
  available : t.available = s.available.filter fun z => !decide (z ∈ xs)
  recent : t.recent = s.recent.filter fun r => !decide (r.agent ∈ xs)

theorem Ev.loseAgent_idle (ho : (e.st.agent x).offer = none) (hc : (e.st.agent x).call = none) :
    e.loseAgent x = e.completeLogout x .linkLoss := by
  have dropped : (e.upd fun s => s.dropAgent x) = e := by
    rw [Ev.upd, State.dropAgent, hc]
  rw [Ev.loseAgent_eq, dropped, Ev.endAgentOffer, ho]

theorem Ev.loseAgents_idle (nodup : xs.Nodup) (idle : ∀ x ∈ xs, (e.st.agent x).offer = none ∧ (e.st.agent x).call = none) :
    e.st.AgentsOut (xs.foldl Ev.loseAgent e).st xs ∧ e.Tells (xs.foldl Ev.loseAgent e) := by
  refine foldl_through (P := fun xs (d : Ev) => e.st.AgentsOut d.st xs ∧ e.Tells d)
    ⟨⟨fun z => by simp, ⟨rfl, fun _ => rfl, fun _ => rfl, rfl, fun _ => rfl, fun _ => rfl, id⟩, by simp, by simp⟩, .refl e⟩
    fun done x rest d hxs ⟨k, tells⟩ => ?_
  have hx := not_mem_of_nodup_append hxs nodup
  have agent : d.st.agent x = e.st.agent x := by rw [k.agent, if_neg hx]
  obtain ⟨ho, hc⟩ := idle x (by rw [hxs]; exact List.mem_append_right _ List.mem_cons_self)
  rw [Ev.loseAgent_idle (by rw [agent, ho]) (by rw [agent, hc]), Ev.completeLogout_eq]
  refine ⟨⟨fun z => ?_, k.kept.trans (.outOfTable _ _), ?_, ?_⟩, tells.trans ⟨⟨_, rfl⟩, rfl, rfl⟩⟩
  · rw [State.outOfTable_agent, agent, k.agent]
    by_cases hz : x = z
    · subst hz; simp
    · simp [hz, Ne.symm hz]
  · show d.st.available.filter _ = _
    rw [k.available, List.filter_filter]
    congr 1
    funext z
    by_cases hz : z = x <;> simp [hz]
  · have recent : (d.st.outOfTable x).recent = d.st.recent.filter fun r => r.agent != x := by
      rw [State.outOfTable, State.settled_eq]
      rfl
    rw [recent, k.recent, List.filter_filter]
    congr 1
    funext r
    by_cases hz : r.agent = x <;> simp [hz]

end

end Sys2Proof.Machine
end

section
/-!
PROOF. The loss of a switching link as a whole (R182): its three phases, and the states in which no other work follows.
-/
namespace Sys2Proof.Machine

open Sys2Proof

section
variable {s t : State} {e d : Ev} {l : Link} {w : Highway} {y x : Nat} {c : Call}

/-! ## The phases (R182) -/

/-- The event after the loss of the calls. -/
def Ev.callsGone (e : Ev) (l : Link) : Ev := Ev.loseCalls l e (e.st.ownedCalls l)

/-- The event after the loss of the highway. -/
def Ev.highwayGone (e : Ev) (l : Link) (w : Highway) : Ev := (e.callsGone l).upd fun s => s.drainHighway w

/-- The event after the loss of the agents. -/
def Ev.agentsGone (e : Ev) (l : Link) (w : Highway) : Ev := ((e.highwayGone l w).st.homedAgents l).foldl Ev.loseAgent (e.highwayGone l w)

/-- The held steps, the queue attempts and the agent attempts come last. -/
theorem Ev.loseSwitchingLink_eq (e : Ev) (l : Link) (w : Highway) :
    e.loseSwitchingLink l w = (e.st.enteredAvailable (e.agentsGone l w).st).foldl Ev.agentAttempt
      (((List.range Config.queueCount).filter fun q => (e.st.returnedCalls (e.agentsGone l w).st).any fun r => r.2 == q).foldl
        Ev.queueAttempts ((e.st.returnedCalls (e.agentsGone l w).st).foldl (fun (e : Ev) r => e.runHeldStep r.1)
          (e.agentsGone l w))) := rfl

/-- Nothing else follows where no call has returned and no agent has become AVAILABLE. -/
theorem Ev.loseSwitchingLink_still (returned : e.st.returnedCalls (e.agentsGone l w).st = [])
    (entered : e.st.enteredAvailable (e.agentsGone l w).st = []) : e.loseSwitchingLink l w = e.agentsGone l w := by
  have queues : ((List.range Config.queueCount).filter fun _ => false) = [] := by simp
  rw [Ev.loseSwitchingLink_eq, returned, entered]
  simp only [List.any_nil, queues, List.foldl_nil]

/-- Nothing else follows where no step is held and no offer can be made. -/
theorem Ev.loseSwitchingLink_idle (held : ∀ y c t, (e.agentsGone l w).st.call? y = some c → c.treatment = some t → t.state ≠ .held)
    (offerless : (e.agentsGone l w).st.Offerless)
    (unqualified : ∀ x, ((e.agentsGone l w).st.agent x).state = .available →
      ∀ q, (e.agentsGone l w).st.qualified ((e.agentsGone l w).st.agent x) q = false) :
    e.loseSwitchingLink l w = e.agentsGone l w := by
  have steps : ∀ y, (e.agentsGone l w).runHeldStep y = e.agentsGone l w := fun y => by
    cases hc : (e.agentsGone l w).st.call? y with
    | none => rw [Ev.runHeldStep, hc]
    | some c => exact Ev.runHeldStep_idle hc fun t ht => held y c t hc ht
  rw [Ev.loseSwitchingLink_eq, foldl_id fun r : Nat × Nat => steps r.1, foldl_id fun q => Ev.queueAttempts_idle offerless q,
    foldl_id fun x => Ev.agentAttempt_idle fun hx q => .inl (unqualified x hx q)]

/-! ## Counting the lost calls -/

theorem State.countP_ownedCalls (s : State) (l : Link) (p : Nat → Bool) :
    (s.ownedCalls l).countP p = (s.calls.filter fun f => decide (f.2.owner = l) && p f.1).length := by
  rw [State.ownedCalls, List.countP_map, List.countP_filter, List.countP_eq_length_filter]
  congr 1
  exact List.filter_congr fun f _ => Bool.and_comm _ _

theorem State.countP_waiting (rising : Assoc.rising s.calls = true) (l : Link) (q : Nat) :
    (s.ownedCalls l).countP (s.waitsIn q)
      = (s.calls.filter fun f => f.2.owner == l && f.2.queue == q && decide (f.2.state ≠ .connected)).length := by
  rw [State.countP_ownedCalls]
  congr 1
  refine List.filter_congr fun f hf => ?_
  rw [State.waitsIn, State.call_of_mem rising hf, Option.any_some, Bool.and_assoc, Bool.decide_and]
  rfl

/-! ## The state before -/

theorem State.linkLost_call (s : State) (l : Link) (y : Nat) : (s.linkLost l).st.call? y = s.call? y := (s.linkLost_same l).call y
theorem State.linkLost_agent (s : State) (l : Link) (x : Nat) : (s.linkLost l).st.agent x = s.agent x := (s.linkLost_same l).agent x
theorem State.linkLost_calls (s : State) (l : Link) : (s.linkLost l).st.calls = s.calls := State.setLink_calls _ _ _
theorem State.linkLost_agents (s : State) (l : Link) : (s.linkLost l).st.agents = s.agents := State.setLink_agents _ _ _
theorem State.linkLost_queue (s : State) (l : Link) (q : Nat) : (s.linkLost l).st.queue q = s.queue q := State.setLink_queue _ _ _ _
theorem State.linkLost_highway (s : State) (l : Link) (v : Highway) : (s.linkLost l).st.highway v = s.highway v :=
  State.setLink_highway _ _ _ _
theorem State.linkLost_quiet (s : State) (l : Link) : (s.linkLost l).Quiet := ⟨rfl, rfl, rfl⟩
theorem State.linkLost_orders (s : State) (l : Link) :
    ((s.linkLost l).st.link l).exitOrder = [] ∧ ((s.linkLost l).st.link l).listenOrder = [] := by
  rw [State.linkLost_link, if_pos rfl]
  exact ⟨rfl, rfl⟩
theorem State.linkLost_owned (s : State) (l : Link) : (s.linkLost l).st.ownedCalls l = s.ownedCalls l := by
  rw [State.ownedCalls, State.linkLost_calls, State.ownedCalls]
theorem State.linkLost_waitsIn (s : State) (l : Link) (q : Nat) : (s.linkLost l).st.waitsIn q = s.waitsIn q := by
  funext y
  rw [State.waitsIn, State.linkLost_call, State.waitsIn]

theorem State.linkLost_lost (rising : s.TablesRising) (l : Link) :
    (s.linkLost l).st.CallsLost ((s.linkLost l).callsGone l).st l (s.ownedCalls l) := by
  obtain ⟨exits, listens⟩ := s.linkLost_orders l
  rw [← s.linkLost_owned l]
  exact Ev.loseCalls_lost (by rw [State.linkLost_calls]; exact rising.calls) (by rw [State.linkLost_agents]; exact rising.agents)
    exits listens

/-- A call that is lost is one that the link owns. -/
theorem State.mem_owned_iff (rising : s.TablesRising) : y ∈ s.ownedCalls l ↔ ((s.call? y).any fun c => c.owner == l) = true := by
  rw [State.mem_ownedCalls rising.calls, Option.any_eq_true]
  exact ⟨fun ⟨c, hc, ho⟩ => ⟨c, hc, beq_iff_eq.2 ho⟩, fun ⟨c, hc, ho⟩ => ⟨c, hc, beq_iff_eq.1 ho⟩⟩

end

end Sys2Proof.Machine
end

section
/-!
PROOF. The loss of a link whose calls are WAITING and whose agents hold no offer and no call (R53, R161, R182).
-/
namespace Sys2Proof.Machine

open Sys2Proof

section
variable {s t : State} {l : Link} {w : Highway}

/-- The calls of a link are WAITING, and its agents hold no offer and no call. -/
structure State.LosesIdle (s : State) (l : Link) : Prop where
  rising : s.TablesRising
  waiting : ∀ y c, s.call? y = some c → c.owner = l → c.state = .waiting
  idle : ∀ x, (s.agent x).home = some l → (s.agent x).offer = none ∧ (s.agent x).call = none

/-- What the loss of such a link changes, before the notices. -/
structure State.IdleLost (s t : State) (l : Link) (w : Highway) : Prop where
  call : ∀ y, t.call? y = if y ∈ s.ownedCalls l then none else s.call? y
  agent : ∀ x, t.agent x = if x ∈ s.homedAgents l then (s.agent x).out else s.agent x
  agents : Assoc.rising t.agents = true
  available : t.available = s.available.filter fun x => !decide (x ∈ s.homedAgents l)
  recent : t.recent = s.recent.filter fun r => !decide (r.agent ∈ s.homedAgents l)
  order : ∀ q, (t.queue q).order = (s.queue q).order.filter fun y => !(decide (y ∈ s.ownedCalls l) && s.waitsIn q y)
  abandoned : ∀ q, (t.queue q).stats.abandoned.value
    = (s.queue q).stats.abandoned.value + BitVec.ofNat 32 ((s.ownedCalls l).countP (s.waitsIn q))
  token : t.token = s.token
  exits : (t.link l).exitOrder = []
  listens : (t.link l).listenOrder = []
  deferral : (t.highway w).deferral = []
  channel : ∀ ts, (s.channel w ts).state = .bound ∨ (s.channel w ts).state = .playing → t.channel w ts = Channel.draining

/-- The three phases of such a loss, and that they free nothing. -/
theorem State.LosesIdle.agentsGone (h : s.LosesIdle l) (w : Highway) :
    s.IdleLost ((s.linkLost l).agentsGone l w).st l w ∧ (s.linkLost l).Tells ((s.linkLost l).agentsGone l w) := by
  have lost := State.linkLost_lost h.rising l
  have drained := State.drainHighway_drained ((s.linkLost l).callsGone l).st w
  obtain ⟨same, tells⟩ := Ev.loseCalls_waiting (e := s.linkLost l) (l := l) (by rw [State.linkLost_calls]; exact h.rising.calls)
    fun y c hc => h.waiting y c ((s.linkLost_call l y).symm.trans hc)
  have agents : ((s.linkLost l).highwayGone l w).st.agents = s.agents :=
    drained.agents.agents.trans (same.agents.trans (s.linkLost_agents l))
  have agent : ∀ x, ((s.linkLost l).highwayGone l w).st.agent x = s.agent x := fun x => by
    rw [State.agent, agents, State.agent]
  have homed : ((s.linkLost l).highwayGone l w).st.homedAgents l = s.homedAgents l := by
    rw [State.homedAgents, agents, State.homedAgents]
  obtain ⟨out, tells'⟩ := Ev.loseAgents_idle (e := (s.linkLost l).highwayGone l w) (State.nodup_homedAgents h.rising.agents l)
    fun x hx => by
      rw [agent]
      exact h.idle x ((State.mem_homedAgents_iff h.rising.agents).1 hx).1
  have call : ∀ y, ((s.linkLost l).highwayGone l w).st.call? y = if y ∈ s.ownedCalls l then none else s.call? y := fun y => by
    refine Eq.trans ?_ ((lost.call y).trans (by rw [s.linkLost_call]))
    exact congrArg (Assoc.find y) drained.calls
  have queue : ∀ q, ((s.linkLost l).highwayGone l w).st.queue q = ((s.linkLost l).callsGone l).st.queue q := fun q =>
    congrArg (Assoc.get _ q) drained.queues
  have gone : (s.linkLost l).agentsGone l w = (s.homedAgents l).foldl Ev.loseAgent ((s.linkLost l).highwayGone l w) := by
    rw [Ev.agentsGone, homed]
  rw [gone]
  refine ⟨?_, (tells.trans (.upd _ _)).trans tells'⟩
  constructor
  case call => exact fun y => (out.kept.call y).trans (call y)
  case agent => exact fun x => by rw [out.agent, agent]
  case agents => exact out.kept.rising (by rw [agents]; exact h.rising.agents)
  case available => rw [out.available]; exact congrArg _ (drained.agents.available.trans (same.available.trans (s.linkLost_same l).available))
  case recent =>
    rw [out.recent]
    exact congrArg _ (drained.agents.recent.trans (same.recent.trans (State.setLink_recent _ _ _)))
  case order =>
    intro q
    rw [out.kept.order, queue, lost.order, s.linkLost_queue, s.linkLost_waitsIn]
  case abandoned =>
    intro q
    rw [out.kept.stats, queue, lost.abandoned, s.linkLost_queue, s.linkLost_waitsIn]
  case token => exact out.kept.token.trans (drained.agents.token.trans (lost.token.trans (State.setLink_token _ _ _)))
  case exits => rw [out.kept.link]; exact (congrArg LinkRec.exitOrder (drained.link l)).trans lost.noExits
  case listens => rw [out.kept.link]; exact (congrArg LinkRec.listenOrder (drained.link l)).trans lost.noListens
  case deferral => rw [out.kept.highway]; exact drained.deferral
  case channel =>
    intro ts hs
    have kept : (List.foldl Ev.loseAgent ((s.linkLost l).highwayGone l w) (s.homedAgents l)).st.channel w ts
        = ((s.linkLost l).highwayGone l w).st.channel w ts := by
      rw [State.channel, out.kept.highway, ← State.channel]
    rw [kept]
    rcases drained.channel ts with hd | ⟨hd, bound, playing⟩
    · exact hd
    · rcases lost.channel w ts with hc | hc
      · have before : (s.linkLost l).st.channel w ts = s.channel w ts := by
          rw [State.channel, s.linkLost_highway, ← State.channel]
        rw [hc, before] at bound playing
        rcases hs with hs | hs
        · exact absurd hs bound
        · exact absurd hs playing
      · exact hd.trans hc

/-- No call returns and no agent becomes AVAILABLE. -/
theorem State.LosesIdle.still (h : s.LosesIdle l) (w : Highway) :
    (s.linkLost l).loseSwitchingLink l w = (s.linkLost l).agentsGone l w := by
  obtain ⟨k, -⟩ := h.agentsGone w
  refine Ev.loseSwitchingLink_still ?_ ?_
  · unfold State.returnedCalls
    rw [List.map_eq_nil_iff, List.filter_eq_nil_iff, State.linkLost_calls]
    intro f hf
    rw [k.call, State.call_of_mem h.rising.calls hf]
    by_cases owned : f.1 ∈ s.ownedCalls l
    · simp [owned]
    · simp only [owned, if_false, Bool.and_eq_true, decide_eq_true_iff]
      rintro ⟨offering, waiting⟩
      rw [offering] at waiting
      cases waiting
  · unfold State.enteredAvailable
    rw [List.map_eq_nil_iff, List.filter_eq_nil_iff]
    intro f hf
    rw [decide_eq_true_iff, ← State.agent_of_mem k.agents hf, k.agent, State.linkLost_agent]
    rintro ⟨available, before⟩
    split at available
    · cases available
    · exact before available

theorem LinkRec.eq_lost {r r' : LinkRec} (up : r'.up = false) (receiving : r'.receiving = []) (inbound : r'.inbound = [])
    (outbound : r'.outbound = []) (reserved : r'.reserved = 0) (permissions : r'.permissions = r.permissions)
    (enables : r'.enables = r.enables) (faultCount : r'.faultCount = r.faultCount) (exits : r'.exitOrder = [])
    (listens : r'.listenOrder = []) : r' = { r.lost with dropped := r'.dropped } := by
  cases r'
  simp_all [LinkRec.lost]

/-- The whole of such a loss, written out as the statement about it asks. -/
theorem State.LosesIdle.linkDown (h : s.LosesIdle l) (up : (s.link l).up = true) (hl : l ≠ .s) :
    ∃ t, exec (.linkDown l) s = .next t ∧ t.link l = { (s.link l).lost with dropped := (t.link l).dropped }
      ∧ (∀ y, t.call? y = match s.call? y with
        | some c => if c.owner = l then none else some c
        | none => none)
      ∧ (∀ x, t.agent x = if (s.agent x).home = some l ∧ (s.agent x).state ≠ .loggedOut then (s.agent x).out else s.agent x)
      ∧ t.available = s.available.filter (fun x => !decide ((s.agent x).home = some l ∧ (s.agent x).state ≠ .loggedOut))
      ∧ t.recent = s.recent.filter (fun e => !decide ((s.agent e.agent).home = some l ∧ (s.agent e.agent).state ≠ .loggedOut))
      ∧ (∀ q, (t.queue q).order = (s.queue q).order.filter (fun y => !((s.call? y).any fun c => c.owner == l && c.queue == q))
        ∧ ((t.queue q).stats.abandoned).value = ((s.queue q).stats.abandoned).value
          + BitVec.ofNat 32 (s.calls.filter fun e => e.2.owner == l && e.2.queue == q).length)
      ∧ t.token = s.token
      ∧ ∀ v, l.highway? = some v → (t.highway v).deferral = []
        ∧ ∀ ts, ((s.channel v ts).state = .bound ∨ (s.channel v ts).state = .playing) → t.channel v ts = Channel.draining := by
  obtain ⟨w, hw⟩ := Link.highway_of_switching hl
  obtain ⟨k, tells⟩ := h.agentsGone w
  have homed : ∀ x, decide (x ∈ s.homedAgents l) = decide ((s.agent x).home = some l ∧ (s.agent x).state ≠ .loggedOut) := fun x =>
    decide_eq_decide.2 (State.mem_homedAgents_iff h.rising.agents)
  have engine := ((s.linkLost l).loseSwitchingLink_engine l w).trans (Ev.finish_engine _)
  have quiet := s.linkLost_quiet l
  have notified : ((s.linkLost l).agentsGone l w).st.Notified ((s.linkLost l).loseSwitchingLink l w).finish := by
    rw [h.still, Ev.finish_unfreed (tells.freedA.trans quiet.freedA) (tells.freedB.trans quiet.freedB)]
    exact State.delivered_notified _ _
  refine ⟨_, exec_linkDown_lost up hw, ?_⟩
  generalize ((s.linkLost l).loseSwitchingLink l w).finish = t at engine notified ⊢
  obtain ⟨down, receiving, inbound, outbound, reserved, permissions, enables, faultCount⟩ := engine.lost
  refine ⟨LinkRec.eq_lost down receiving inbound outbound reserved permissions enables faultCount
    ((notified.exitOrder l).trans k.exits) ((notified.listenOrder l).trans k.listens), fun y => ?_, fun x => ?_, ?_, ?_,
    fun q => ⟨?_, ?_⟩, notified.token.trans k.token, fun v hv => ?_⟩
  · rw [notified.call, k.call]
    cases hc : s.call? y with
    | none => rw [ite_self]
    | some c =>
      have owned : y ∈ s.ownedCalls l ↔ c.owner = l := by
        rw [State.mem_owned_iff h.rising, hc, Option.any_some, beq_iff_eq]
      simp only [owned]
  · rw [notified.agent, k.agent]
    simp only [State.mem_homedAgents_iff h.rising.agents]
  · rw [notified.available, k.available]
    simp only [homed]
  · rw [notified.recent, k.recent]
    simp only [homed]
  · rw [notified.queue, k.order]
    refine List.filter_congr fun y _ => ?_
    rw [State.waitsIn]
    cases hc : s.call? y with
    | none => simp
    | some c =>
      by_cases ho : c.owner = l
      · have owned : y ∈ s.ownedCalls l := (State.mem_ownedCalls h.rising.calls).2 ⟨c, hc, ho⟩
        rw [Bool.eq_iff_iff]
        simp [owned, ho, h.waiting y c hc ho]
      · have owned : y ∉ s.ownedCalls l := fun hm => by
          obtain ⟨b, hb, hbo⟩ := (State.mem_ownedCalls h.rising.calls).1 hm
          exact ho (Option.some.inj (hc.symm.trans hb) ▸ hbo)
        simp [owned, ho]
  · rw [notified.queue, k.abandoned, State.countP_waiting h.rising.calls]
    congr 3
    refine List.filter_congr fun f hf => ?_
    by_cases ho : f.2.owner = l
    · simp [ho, h.waiting f.1 f.2 (State.call_of_mem h.rising.calls hf) ho]
    · simp [ho]
  · obtain rfl := Option.some.inj (hw.symm.trans hv)
    exact ⟨by rw [notified.highway, k.deferral], fun ts hs => (notified.channel _ ts).trans (k.channel ts hs)⟩

end

end Sys2Proof.Machine
end

section
/-!
PROOF. The loss of a link after which no offer follows, call by call and agent by agent (R28, R53, R79, R84 to R86, R182).
-/
namespace Sys2Proof.Machine

open Sys2Proof

section
variable {s t : State} {l : Link} {w : Highway} {x y : Nat} {c : Call} {sorted : Prop} {loose unplaced : Nat → Prop}

/-! ## What the loss of its call leaves of an agent -/

theorem Agent.withdrawn_fields (a : Agent) : a.withdrawn.home = a.home ∧ a.withdrawn.skills = a.skills := by
  unfold Agent.withdrawn
  cases a.pending <;> exact ⟨rfl, rfl⟩

theorem Agent.left_fields (a : Agent) (now : Tick) : ((a.left now).home = a.home ∨ (a.left now).home = none)
    ∧ (a.left now).skills = a.skills := by
  unfold Agent.left
  cases a.pending with
  | none => exact ⟨.inl rfl, rfl⟩
  | notReady n => exact ⟨.inl rfl, rfl⟩
  | logout => exact ⟨.inr rfl, rfl⟩

theorem Agent.startedWrap_fields (a : Agent) (now : Tick) (q limit : Nat) (since : Tick) :
    ((a.startedWrap now q limit since).home = a.home ∨ (a.startedWrap now q limit since).home = none)
      ∧ (a.startedWrap now q limit since).skills = a.skills := by
  unfold Agent.startedWrap
  split
  · exact Agent.left_fields _ _
  · exact ⟨.inl rfl, rfl⟩

theorem Call.loses_skills (c : Call) (l : Link) (now : Tick) (limit : Nat) (a : Agent) :
    (c.loses l now limit a).skills = a.skills := by
  unfold Call.loses
  split
  · rfl
  · split
    · rfl
    · exact (Agent.withdrawn_fields _).2
  · split
    · rfl
    · split
      · exact (Agent.startedWrap_fields _ _ _ _ _).2
      · rfl

/-- An agent of the lost link stays one, and no other becomes one. -/
theorem Call.loses_home (c : Call) (l : Link) (now : Tick) (limit : Nat) (a : Agent) :
    (c.loses l now limit a).home = some l ↔ a.home = some l := by
  unfold Call.loses
  split
  · exact Iff.rfl
  · split
    · exact Iff.rfl
    · rw [(Agent.withdrawn_fields _).1]
      exact Iff.rfl
  · split
    · exact Iff.rfl
    · rename_i home
      split
      · rename_i since _
        refine iff_of_false (fun h => ?_) home
        rcases (Agent.startedWrap_fields a now c.queue limit since).1 with h' | h'
        · exact home (h'.symm.trans h)
        · rw [h'] at h; cases h
      · exact Iff.rfl

theorem Call.loses_state {now : Tick} {limit : Nat} {a : Agent} (home : a.home = some l) :
    (c.loses l now limit a).state = a.state := by
  unfold Call.loses
  split
  · rfl
  · rw [if_pos home]; rfl
  · rw [if_pos home]

/-- The logout of an agent of the lost link does not tell whether its call was lost before. -/
theorem Call.loses_bereft {now : Tick} {limit : Nat} {a : Agent} (home : a.home = some l)
    (offered : c.state = .offering → a.offer.isSome = true) : (c.loses l now limit a).bereft = a.bereft := by
  unfold Call.loses
  split
  · rfl
  · rename_i hs
    rw [if_pos home, Agent.bereft, Agent.bereft, offered hs]
    rfl
  · rw [if_pos home]

/-! ## The states in which no offer follows -/

/-- The records agree, and no offer follows the loss of a link. -/
structure State.LosesAlone (s : State) (l : Link) : Prop where
  rising : s.TablesRising
  agree : s.RecordsAgree
  reserved : s.ReservationsExact
  nothing : ∀ k, k ≠ l → s.NothingWaits k
  unheld : ∀ y c t, s.call? y = some c → c.treatment = some t → t.state ≠ .held
  unqualified : ∀ x q, (s.agent x).home ≠ some l → s.qualified (s.agent x) q = false

theorem State.LosesAlone.consistent (h : s.LosesAlone l) : s.Consistent False nobody nobody :=
  h.agree.consistent False.elim False.elim

theorem State.LosesAlone.lostConsistent (h : s.LosesAlone l) : (s.linkLost l).st.Consistent False nobody nobody :=
  h.consistent.same (s.linkLost_same l)

theorem State.Consistent.partnersApart (h : s.Consistent sorted loose unplaced) : s.PartnersApart := by
  intro y z c b x hc hb hcx hbx
  have busy : (s.agent x).offer.isSome = true → (s.agent x).call = none := fun ho =>
    (h.agent x).call_none (by rw [(h.agent x).offered ho]; exact AgentState.noConfusion)
  obtain ⟨-, o, ho, rfl⟩ | ⟨-, -, hcall⟩ := h.partner hc hcx
  · obtain ⟨-, o', ho', rfl⟩ | ⟨-, -, hcall'⟩ := h.partner hb hbx
    · rw [Option.some.inj (ho.symm.trans ho')]
    · rw [busy (by rw [ho]; rfl)] at hcall'; cases hcall'
  · obtain ⟨-, o', ho', rfl⟩ | ⟨-, -, hcall'⟩ := h.partner hb hbx
    · rw [busy (by rw [ho']; rfl)] at hcall; cases hcall
    · exact Option.some.inj (hcall.symm.trans hcall')

/-- Every offer of a lost call to an agent of another link holds an entry of its own there (R58). -/
theorem State.LosesAlone.entries (h : s.LosesAlone l) (k : Link) : (s.ownedCalls l).countP (s.offersOn k) ≤ (s.link k).reserved := by
  have offers : ∀ y, s.offersOn k y = true → ∃ c o, s.call? y = some c ∧ c.partner = some o.agent ∧ c.offer = some o
      ∧ (s.agent o.agent).home = some k := fun y hy => by
    obtain ⟨c, hc, hoff⟩ := (Option.any_eq_true _ _).1 hy
    obtain ⟨o, ho, hp, home⟩ := Call.offeredOn_partner hoff
    exact ⟨c, o, hc, hp, ho, home⟩
  have partner : ∀ y c (o : CallOffer), s.call? y = some c → c.partner = some o.agent →
      ((s.call? y).bind Call.partner).getD 0 = o.agent := fun y c o hc hp => by rw [hc, Option.bind_some, hp]; rfl
  have nodup : (((s.ownedCalls l).filter (s.offersOn k)).map fun y => ((s.call? y).bind Call.partner).getD 0).Nodup := by
    refine List.Nodup.map_on (fun y hy z hz hyz => ?_) ((State.nodup_ownedCalls h.rising.calls l).filter _)
    obtain ⟨c, o, hc, hp, -⟩ := offers y (List.mem_filter.1 hy).2
    obtain ⟨b, p, hb, hq, -⟩ := offers z (List.mem_filter.1 hz).2
    rw [partner y c o hc hp, partner z b p hb hq] at hyz
    exact h.consistent.partnersApart y z c b o.agent hc hb hp (hyz ▸ hq)
  have within : (((s.ownedCalls l).filter (s.offersOn k)).map fun y => ((s.call? y).bind Call.partner).getD 0)
      ⊆ (s.agents.filter fun e => e.2.offer.isSome && e.2.home == some k).map (·.1) := by
    intro x hx
    obtain ⟨y, hy, rfl⟩ := List.mem_map.1 hx
    obtain ⟨c, o, hc, hp, ho, home⟩ := offers y (List.mem_filter.1 hy).2
    rw [partner y c o hc hp]
    have offer := h.agree.callOffers y c o hc ho
    cases hf : Assoc.find o.agent s.agents with
    | none =>
      have reset : s.agent o.agent = Agent.reset := by rw [State.agent, Assoc.get, hf]; rfl
      rw [reset] at offer
      cases offer
    | some a =>
      have ha : s.agent o.agent = a := by rw [State.agent, Assoc.get, hf]; rfl
      rw [ha] at offer home
      exact List.mem_map.2 ⟨(o.agent, a), List.mem_filter.2 ⟨Assoc.mem_of_find hf, by simp [offer, home]⟩, rfl⟩
  have := (List.subperm_of_subset nodup within).length_le
  rw [List.length_map, List.length_map, ← List.countP_eq_length_filter] at this
  rw [h.reserved k]
  omega

/-- The agents after the loss of the calls, in terms of the state before. -/
structure State.CallsBereft (s t : State) (l : Link) : Prop where
  lost : ∀ y c x, s.call? y = some c → c.owner = l → c.partner = some x →
    t.agent x = c.loses l s.tick (s.queue c.queue).config.wrapLimit (s.agent x)
  kept : ∀ x, (∀ y c, s.call? y = some c → c.owner = l → c.partner ≠ some x) → t.agent x = s.agent x
  cancelled : ∀ k, k ≠ l → ∀ y c o, s.call? y = some c → c.owner = l → c.offer = some o → c.offeredOn s k = true →
    OutEntry.notice (.offerCancel o.token o.agent y .callWithdrawn) ∈ (t.link k).outbound

theorem Call.offeredOn_linkLost (c : Call) (s : State) (l k : Link) : c.offeredOn (s.linkLost l).st k = c.offeredOn s k :=
  Call.offeredOn_congr (fun x _ => s.linkLost_agent l x) k

theorem State.LosesAlone.callsGone (h : s.LosesAlone l) : s.CallsBereft ((s.linkLost l).callsGone l).st l := by
  obtain ⟨exits, listens⟩ := s.linkLost_orders l
  have offersOn : ∀ k, (s.linkLost l).st.offersOn k = s.offersOn k := fun k => by
    funext y
    simp only [State.offersOn, State.linkLost_call, Call.offeredOn_linkLost]
  have k := Ev.loseCalls_partners (e := s.linkLost l) (l := l) (by rw [State.linkLost_calls]; exact h.rising.calls)
    (by rw [State.linkLost_agents]; exact h.rising.agents) exits listens h.lostConsistent.partnersApart fun k hk => by
      rw [s.linkLost_owned, offersOn, s.linkLost_link, if_neg (Ne.symm hk)]
      exact h.entries k
  have gone : (s.linkLost l).callsGone l = Ev.loseCalls l (s.linkLost l) (s.ownedCalls l) := by
    rw [Ev.callsGone, s.linkLost_owned]
  rw [s.linkLost_owned] at k
  rw [gone]
  have owned : ∀ {y c}, s.call? y = some c → c.owner = l → y ∈ s.ownedCalls l := fun hc ho =>
    (State.mem_ownedCalls h.rising.calls).2 ⟨_, hc, ho⟩
  refine ⟨fun y c x hc ho hx => ?_, fun x hx => ?_, fun j hj y c o hc ho hco hoff => ?_⟩
  · have := k.lost y (owned hc ho) c x (by rw [s.linkLost_call, hc]) hx
    rwa [State.bereaved, s.linkLost_queue, s.linkLost_agent, (s.linkLost_same l).tick] at this
  · have := k.kept x fun y hy c hc => by
      obtain ⟨b, hb, hbo⟩ := (State.mem_ownedCalls h.rising.calls).1 hy
      rw [s.linkLost_call, hb] at hc
      cases hc
      exact hx y c hb hbo
    rwa [s.linkLost_agent] at this
  · exact k.cancelled j hj y (owned hc ho) c o (by rw [s.linkLost_call, hc]) hco (by rw [Call.offeredOn_linkLost, hoff])

/-- The records stay consistent while the calls are lost, but for the agents of the lost link. -/
theorem Ev.loseCalls_consistent {e : Ev} (h : e.st.Consistent sorted nobody nobody) (ys : List Nat) :
    (Ev.loseCalls l e ys).st.Consistent sorted ((Ev.loseCalls l e ys).st.homedBy l) nobody :=
  foldl_through (P := fun _ (d : Ev) => d.st.Consistent sorted (d.st.homedBy l) nobody) (h.loosen fun _ hx => hx.elim)
    fun _ y _ _ _ k => k.loseCall y

end

end Sys2Proof.Machine
end

section
/-!
PROOF. The loss of a link after which no offer follows: the state it leaves (R182).
-/
namespace Sys2Proof.Machine

open Sys2Proof

section
variable {s t : State} {l : Link} {w : Highway} {x y : Nat} {c : Call}

/-- What such a loss changes, before the notices. -/
structure State.AloneLost (s t : State) (l : Link) : Prop where
  call : ∀ y, t.call? y = (if y ∈ s.ownedCalls l then none else s.call? y).map fun c =>
    if (c.partner.any fun x => (s.agent x).home == some l) = true then c.unserved else c
  homed : ∀ x, (s.agent x).home = some l → t.agent x = (s.agent x).bereft
  lost : ∀ y c x, s.call? y = some c → c.owner = l → c.partner = some x → (s.agent x).home ≠ some l →
    t.agent x = c.loses l s.tick (s.queue c.queue).config.wrapLimit (s.agent x)
  kept : ∀ x, (s.agent x).home ≠ some l → (∀ y c, s.call? y = some c → c.owner = l → c.partner ≠ some x) →
    t.agent x = s.agent x
  order : ∀ q, (t.queue q).order = (s.queue q).order.filter fun y => !(decide (y ∈ s.ownedCalls l) && s.waitsIn q y)
  abandoned : ∀ q, (t.queue q).stats.abandoned.value
    = (s.queue q).stats.abandoned.value + BitVec.ofNat 32 ((s.ownedCalls l).countP (s.waitsIn q))
  token : t.token = s.token
  nothing : ∀ k, t.NothingWaits k
  cancelled : ∀ k, k ≠ l → ∀ y c o, s.call? y = some c → c.owner = l → c.offer = some o → c.offeredOn s k = true →
    OutEntry.notice (.offerCancel o.token o.agent y .callWithdrawn) ∈ (t.link k).outbound
  engine : Engine (s.linkLost l).st t

/-- After the loss of the calls, an agent has its home on the lost link exactly where it had before, in the same state. -/
theorem State.CallsBereft.home (k : s.CallsBereft t l) (x : Nat) : ((t.agent x).home = some l ↔ (s.agent x).home = some l)
    ∧ ((s.agent x).home = some l → (t.agent x).state = (s.agent x).state) := by
  by_cases hx : ∃ y c, s.call? y = some c ∧ c.owner = l ∧ c.partner = some x
  · obtain ⟨y, c, hc, ho, hx⟩ := hx
    rw [k.lost y c x hc ho hx]
    exact ⟨Call.loses_home _ _ _ _ _, Call.loses_state⟩
  · rw [k.kept x fun y c hc ho hp => hx ⟨y, c, hc, ho, hp⟩]
    exact ⟨Iff.rfl, fun _ => rfl⟩

/-- An agent of the lost link is logged out all the same where its call was lost before. -/
theorem State.CallsBereft.bereft (k : s.CallsBereft t l) (h : s.LosesAlone l) (home : (s.agent x).home = some l) :
    (t.agent x).bereft = (s.agent x).bereft := by
  by_cases hx : ∃ y c, s.call? y = some c ∧ c.owner = l ∧ c.partner = some x
  · obtain ⟨y, c, hc, ho, hx⟩ := hx
    rw [k.lost y c x hc ho hx]
    refine Call.loses_bereft home fun hs => ?_
    obtain ⟨-, o, ho, -⟩ | ⟨hs', -⟩ := h.consistent.partner hc hx
    · rw [ho]; rfl
    · rw [hs] at hs'; cases hs'
  · rw [k.kept x fun y c hc ho hp => hx ⟨y, c, hc, ho, hp⟩]

theorem State.LosesAlone.agentsGone (h : s.LosesAlone l) (hw : l.highway? = some w) :
    s.AloneLost ((s.linkLost l).agentsGone l w).st l := by
  have lost := State.linkLost_lost h.rising l
  have bereft := h.callsGone
  have drained := State.drainHighway_drained ((s.linkLost l).callsGone l).st w
  have same := State.drainHighway_same ((s.linkLost l).callsGone l).st w
  have con : ((s.linkLost l).highwayGone l w).st.Consistent False (((s.linkLost l).callsGone l).st.homedBy l) nobody :=
    (Ev.loseCalls_consistent h.lostConsistent _).same same
  have agent : ∀ x, ((s.linkLost l).highwayGone l w).st.agent x = ((s.linkLost l).callsGone l).st.agent x := same.agent
  have call : ∀ y, ((s.linkLost l).highwayGone l w).st.call? y = ((s.linkLost l).callsGone l).st.call? y := same.call
  have rising : Assoc.rising ((s.linkLost l).highwayGone l w).st.agents = true :=
    (congrArg Assoc.rising drained.agents.agents).trans lost.rising
  have homed : ∀ x, x ∈ ((s.linkLost l).highwayGone l w).st.homedAgents l ↔ (s.agent x).home = some l := fun x => by
    obtain ⟨home, state⟩ := bereft.home x
    rw [State.mem_homedAgents_iff rising, agent, home]
    refine ⟨And.left, fun hx => ⟨hx, ?_⟩⟩
    rw [state hx]
    intro out
    rw [(h.agree.homed x).1 out] at hx
    cases hx
  have out := Ev.loseAgents_lost (State.nodup_homedAgents rising l) con
  have queue : ∀ q, ((s.linkLost l).highwayGone l w).st.queue q = ((s.linkLost l).callsGone l).st.queue q := fun q =>
    congrArg (Assoc.get _ q) drained.queues
  have kept : ∀ x, (s.agent x).home ≠ some l →
      ((s.linkLost l).agentsGone l w).st.agent x = ((s.linkLost l).callsGone l).st.agent x := fun x hx =>
    (out.agent x).trans ((if_neg fun hm => hx ((homed x).1 hm)).trans (agent x))
  constructor
  case call =>
    intro y
    refine (out.call y).trans ?_
    rw [call, lost.call, s.linkLost_call]
    congr 1
    funext c
    have named : (c.partner.any fun x => decide (x ∈ ((s.linkLost l).highwayGone l w).st.homedAgents l))
        = c.partner.any fun x => (s.agent x).home == some l := by
      cases c.partner with
      | none => rfl
      | some x => rw [Option.any_some, Option.any_some, Bool.eq_iff_iff, decide_eq_true_iff, homed, beq_iff_eq]
    rw [named]
  case homed => exact fun x hx => (out.agent x).trans ((if_pos ((homed x).2 hx)).trans (by rw [agent, bereft.bereft h hx]))
  case lost => exact fun y c x hc ho hp hx => (kept x hx).trans (bereft.lost y c x hc ho hp)
  case kept => exact fun x hx hn => (kept x hx).trans (bereft.kept x hn)
  case order =>
    intro q
    rw [← s.linkLost_queue l q, ← s.linkLost_waitsIn l q, ← lost.order, ← queue]
    exact out.rest.order q
  case abandoned =>
    intro q
    rw [← s.linkLost_queue l q, ← s.linkLost_waitsIn l q, ← lost.abandoned, ← queue]
    exact congrArg _ (congrArg _ (out.rest.stats q))
  case token => exact out.rest.token.trans (drained.agents.token.trans (lost.token.trans (State.setLink_token _ _ _)))
  case engine => exact (lost.engine.trans (State.drainHighway_engine _ _)).trans out.engine
  case cancelled =>
    intro j hj y c o hc ho hco hoff
    exact out.engine.keeps ((State.drainHighway_engine _ _).keeps (bereft.cancelled j hj y c o hc ho hco hoff))
  case nothing =>
    intro j
    have link := drained.link j
    by_cases hj : j = l
    · subst hj
      refine ⟨(out.rest.exits j).trans ((congrArg LinkRec.exitOrder link).trans lost.noExits),
        (out.rest.listens j).trans ((congrArg LinkRec.listenOrder link).trans lost.noListens), fun v hv => ?_⟩
      obtain rfl := Option.some.inj (hw.symm.trans hv)
      exact (congrArg HighwayRec.deferral (out.rest.highway w)).trans drained.deferral
    · have before := h.nothing j hj
      have untouched : (s.linkLost l).st.link j = s.link j := by rw [s.linkLost_link, if_neg (Ne.symm hj)]
      refine ⟨?_, ?_, fun v hv => ?_⟩
      · refine (out.rest.exits j).trans ((congrArg LinkRec.exitOrder link).trans ?_)
        rw [lost.exits j hj, untouched, before.exits]
      · refine (out.rest.listens j).trans ((congrArg LinkRec.listenOrder link).trans ?_)
        rw [lost.listens j hj, untouched, before.listens]
      · have hv' : v ≠ w := fun e => hj (Link.highway_inj hv (e ▸ hw))
        refine (congrArg HighwayRec.deferral (out.rest.highway v)).trans ((drained.others v hv').trans ?_)
        rw [lost.deferral j v hj hv, s.linkLost_highway, before.deferral v hv]

/-! ## No offer follows -/

theorem State.AloneLost.agent_of_available (k : s.AloneLost t l) (hx : (t.agent x).state = .available) :
    (s.agent x).home ≠ some l ∧ (t.agent x).skills = (s.agent x).skills := by
  have home : (s.agent x).home ≠ some l := fun hn => by
    rw [k.homed x hn] at hx
    cases hx
  refine ⟨home, ?_⟩
  by_cases named : ∃ y c, s.call? y = some c ∧ c.owner = l ∧ c.partner = some x
  · obtain ⟨y, c, hc, ho, hp⟩ := named
    rw [k.lost y c x hc ho hp home, Call.loses_skills]
  · rw [k.kept x home fun y c hc ho hp => named ⟨y, c, hc, ho, hp⟩]

theorem State.AloneLost.unqualified (k : s.AloneLost t l) (h : s.LosesAlone l) (hx : (t.agent x).state = .available) (q : Nat) :
    t.qualified (t.agent x) q = false := by
  obtain ⟨home, skills⟩ := k.agent_of_available hx
  rw [State.qualified_congr (s := s) skills fun q => by rw [k.engine.config, s.linkLost_queue]]
  exact h.unqualified x q home

theorem State.AloneLost.availableExact (k : s.AloneLost t l) (h : s.LosesAlone l) : t.AvailableExact :=
  k.engine.available h.lostConsistent.available

theorem Call.unserved_treatment (c : Call) : c.unserved.treatment = c.treatment := by
  unfold Call.unserved
  split <;> rfl

theorem State.AloneLost.unheld (k : s.AloneLost t l) (h : s.LosesAlone l) {r : Treatment} (hc : t.call? y = some c)
    (ht : c.treatment = some r) : r.state ≠ .held := by
  rw [k.call] at hc
  obtain ⟨b, hb, rfl⟩ := Option.map_eq_some_iff.1 hc
  have hb' : s.call? y = some b := by
    split at hb
    · cases hb
    · exact hb
  refine h.unheld y b r hb' ?_
  split at ht
  · rwa [Call.unserved_treatment] at ht
  · exact ht

/-- The event ends with its notices. -/
theorem State.LosesAlone.ends (h : s.LosesAlone l) (hw : l.highway? = some w) :
    ((s.linkLost l).agentsGone l w).st.Notified ((s.linkLost l).loseSwitchingLink l w).finish := by
  have k := h.agentsGone hw
  have offerless : ((s.linkLost l).agentsGone l w).st.Offerless :=
    .of_unqualified fun x hx q => k.unqualified h (((k.availableExact h).1 x).1 hx) q
  rw [Ev.loseSwitchingLink_idle (fun y c r hc => k.unheld h hc) offerless fun x hx q => k.unqualified h hx q,
    Ev.finish_idle (fun j _ => k.nothing j) offerless]
  exact State.delivered_notified _ _

end

end Sys2Proof.Machine
end

section
/-!
PROOF. The loss of a link and its return (O58).
-/
namespace Sys2Proof.Machine

open Sys2Proof

section
variable {s t u : State} {l : Link} {w : Highway} {x y : Nat} {c : Call}

/-! ## A loss after which no offer follows, as the statement about it asks -/

theorem Call.Whole.partner_eq (h : c.Whole) (p : Nat → Bool) :
    c.partner.any p = ((c.offer.any fun o => p o.agent) || c.agent.any p) := by
  have offering := h.offering
  have served := h.served
  unfold Call.partner
  cases hs : c.state with
  | waiting =>
    rw [hs] at offering served
    cases ho : c.offer with
    | some o => rw [ho] at offering; exact absurd (offering.2 rfl) CallState.noConfusion
    | none =>
      cases ha : c.agent with
      | some x => rw [ha] at served; exact absurd (served rfl) CallState.noConfusion
      | none => rfl
  | offering =>
    rw [hs] at served
    cases ha : c.agent with
    | some x => rw [ha] at served; exact absurd (served rfl) CallState.noConfusion
    | none => cases c.offer <;> simp
  | connected =>
    rw [hs] at offering
    cases ho : c.offer with
    | some o => rw [ho] at offering; exact absurd (offering.2 rfl) CallState.noConfusion
    | none => rfl

/-- The calls that such a loss leaves. -/
theorem State.AloneLost.call_eq (k : s.AloneLost t l) (h : s.LosesAlone l) (y : Nat) : t.call? y = match s.call? y with
    | none => none
    | some c =>
        if c.owner = l then none
        else if (c.offer.any fun o => (s.agent o.agent).home == some l) = true then some { c with state := .waiting, offer := none }
        else if (c.agent.any fun x => (s.agent x).home == some l) = true then some { c with agent := none }
        else some c := by
  rw [k.call]
  cases hc : s.call? y with
  | none => rw [ite_self]; rfl
  | some c =>
    have whole := h.consistent.call y c hc
    have owned : y ∈ s.ownedCalls l ↔ c.owner = l := by
      rw [State.mem_owned_iff h.rising, hc, Option.any_some, beq_iff_eq]
    by_cases ho : c.owner = l
    · rw [if_pos (owned.2 ho)]
      dsimp only
      rw [if_pos ho]
      rfl
    · rw [if_neg fun hm => ho (owned.1 hm), Option.map_some, whole.partner_eq]
      dsimp only
      rw [if_neg ho]
      by_cases offered : (c.offer.any fun o => (s.agent o.agent).home == some l) = true
      · have hs : c.state = .offering := whole.offering.2 (by
          obtain ⟨o, ho, -⟩ := (Option.any_eq_true _ _).1 offered
          rw [ho]; rfl)
        rw [offered, Bool.true_or, if_pos rfl, if_pos rfl, Call.unserved, hs]
        rfl
      · rw [Bool.eq_false_iff.2 offered, Bool.false_or, if_neg Bool.false_ne_true]
        by_cases served : (c.agent.any fun x => (s.agent x).home == some l) = true
        · have hs : c.state = .connected := whole.served (by
            obtain ⟨x, hx, -⟩ := (Option.any_eq_true _ _).1 served
            rw [hx]; rfl)
          rw [if_pos served, if_pos served, Call.unserved_connected hs]
        · rw [if_neg served, if_neg served]

/-- A call that is lost, by its slot. -/
theorem State.lostCall_iff : ((s.call? y).any fun c => c.owner == l) = true ↔ ∃ c, s.call? y = some c ∧ c.owner = l := by
  rw [Option.any_eq_true]
  exact ⟨fun ⟨c, hc, ho⟩ => ⟨c, hc, beq_iff_eq.1 ho⟩, fun ⟨c, hc, ho⟩ => ⟨c, hc, beq_iff_eq.2 ho⟩⟩

/-- An agent's offer, seen from its call. -/
theorem State.RecordsAgree.offering_partner (h : s.RecordsAgree) {o : AgentOffer} (ho : (s.agent x).offer = some o) :
    ∃ c k, s.call? o.call = some c ∧ c.offer = some k ∧ k.agent = x ∧ k.token = o.token ∧ c.state = .offering
      ∧ c.partner = some x := by
  obtain ⟨c, k, hc, hk, hx, token⟩ := h.agentOffers x o ho
  have hs := (h.offering o.call c hc).2 (by rw [hk]; rfl)
  exact ⟨c, k, hc, hk, hx, token, hs, by rw [Call.partner, hs, hk, Option.map_some, hx]⟩

/-- An agent of the other link whose offer is lost (R24, R79). -/
theorem State.AloneLost.offered (k : s.AloneLost t l) (h : s.LosesAlone l) (home : (s.agent x).home ≠ some l) {o : AgentOffer}
    (ho : (s.agent x).offer = some o) (lost : ((s.call? o.call).any fun c => c.owner == l) = true) :
    t.agent x = match (s.agent x).pending with
      | .notReady reason => { s.agent x with state := .notReady, reason := reason, pending := .none, offer := none
                                             lastOutcome := some .withdrawn }
      | _ => { s.agent x with state := .available, pending := .none, offer := none, lastOutcome := some .withdrawn } := by
  obtain ⟨c, q, hc, -, -, -, hs, hp⟩ := h.agree.offering_partner ho
  obtain ⟨b, hb, hbo⟩ := State.lostCall_iff.1 lost
  obtain rfl := Option.some.inj (hc.symm.trans hb)
  rw [k.lost o.call c x hc hbo hp home, Call.loses, hs]
  dsimp only
  rw [if_neg home]
  exact Agent.offerEnded_withdrawn _

/-- The start of wrap-up, written out (R84 to R86, R94, R95). -/
theorem Agent.startedWrap_eq (a : Agent) (now : Tick) (q limit : Nat) (since : Tick) : a.startedWrap now q limit since =
    let talk := min 65535 (now - since).toNat
    let b : Agent :=
      { a with call := none, wrap := none, handled := min 65535 (a.handled + 1), talkTotal := min 4294967295 (a.talkTotal + talk)
               saturated := a.saturated || decide (65535 < a.handled + 1) || decide (4294967295 < a.talkTotal + talk) }
    if limit ≠ 0 then
      { b with state := .wrapUp
               wrap := some { queue := q, talk := talk, start := now, deadline := now + BitVec.ofNat 32 limit, granted := 0 } }
    else match a.pending with
      | .logout => b.out
      | .notReady reason => { b with state := .notReady, reason := reason, pending := .none }
      | .none => { b with state := .available, availSince := now } := by
  unfold Agent.startedWrap
  by_cases hl : limit = 0
  · dsimp only
    rw [if_pos hl, if_neg (not_not.2 hl)]
    unfold Agent.left
    have pending : ({ a.addCall (talkTicks now since) with call := none } : Agent).pending = a.pending := rfl
    rw [pending]
    cases hp : a.pending with
    | none =>
      cases a
      cases hp
      rfl
    | notReady n => rfl
    | logout => rfl
  · rw [if_neg hl]
    dsimp only
    rw [if_pos hl]
    rfl

/-- An agent of the other link whose call is lost (R84 to R86). -/
theorem State.AloneLost.served (k : s.AloneLost t l) (h : s.LosesAlone l) (home : (s.agent x).home ≠ some l) {since : Tick}
    (hy : (s.agent x).call = some y) (hc : s.call? y = some c) (ho : c.owner = l) (ht : c.connectTick = some since) :
    t.agent x = (s.agent x).startedWrap s.tick c.queue (s.queue c.queue).config.wrapLimit since := by
  obtain ⟨b, hb, hx⟩ := h.agree.agentCalls x y hy
  obtain rfl := Option.some.inj (hc.symm.trans hb)
  have hs := (h.agree.connected y c hc).2 (by rw [ht]; rfl)
  rw [k.lost y c x hc ho (by rw [Call.partner, hs]; exact hx) home, Call.loses, hs]
  dsimp only
  rw [if_neg home, ht]

/-- An agent of the other link that loses nothing. -/
theorem State.AloneLost.untouched (k : s.AloneLost t l) (h : s.LosesAlone l) (home : (s.agent x).home ≠ some l)
    (offer : ∀ o, (s.agent x).offer = some o → ((s.call? o.call).any fun c => c.owner == l) = false)
    (call : ∀ y, (s.agent x).call = some y → ((s.call? y).any fun c => c.owner == l) = false) : t.agent x = s.agent x := by
  refine k.kept x home fun y c hc ho hp => ?_
  have lost := State.lostCall_iff.2 ⟨c, hc, ho⟩
  obtain ⟨-, o, ho', rfl⟩ | ⟨-, -, hy⟩ := h.consistent.partner hc hp
  · rw [offer o ho'] at lost; cases lost
  · rw [call y hy] at lost; cases lost

theorem State.AloneLost.order_eq (k : s.AloneLost t l) (h : s.LosesAlone l) (q : Nat) :
    (t.queue q).order = (s.queue q).order.filter fun y => !(s.call? y).any fun c => c.owner == l := by
  rw [k.order]
  refine List.filter_congr fun y hy => ?_
  obtain ⟨c, hc, hq, hs⟩ := (h.agree.ordered q y).1 hy
  rw [(State.waitsIn_iff hc).2 ⟨hq.symm, hs⟩, Bool.and_true]
  congr 1
  rw [Bool.eq_iff_iff, decide_eq_true_iff]
  exact State.mem_owned_iff h.rising

/-- The OFFER_CANCEL of an agent of the other link whose offer is lost. -/
theorem State.AloneLost.cancels (k : s.AloneLost t l) (h : s.LosesAlone l) {j : Link} (hj : j ≠ l) {o : AgentOffer}
    (home : (s.agent x).home = some j) (ho : (s.agent x).offer = some o)
    (lost : ((s.call? o.call).any fun c => c.owner == l) = true) :
    OutEntry.notice (.offerCancel o.token x o.call .callWithdrawn) ∈ (t.link j).outbound := by
  obtain ⟨c, q, hc, hq, rfl, token, hs, -⟩ := h.agree.offering_partner ho
  obtain ⟨b, hb, hbo⟩ := State.lostCall_iff.1 lost
  obtain rfl := Option.some.inj (hc.symm.trans hb)
  rw [← token]
  exact k.cancelled j hj o.call c q hc hbo hq (by rw [Call.offeredOn, hs, hq]; exact decide_eq_true home)

/-! ## The return of a link (R161, R183) -/

/-- What the freeing of a highway changes: the highway itself and the use counts. -/
structure State.HighwayOnly (s t : State) (w : Highway) : Prop where
  rest : t = { s with highwayA := t.highwayA, highwayB := t.highwayB, useCounts := t.useCounts }
  output : (t.highway w).output = (s.highway w).output
  others : ∀ v, v ≠ w → t.highway v = s.highway v
  unphrased : (∀ ts, (s.channel w ts).phrase = none) → t.useCounts = s.useCounts ∧ ∀ ts, (t.channel w ts).phrase = none

theorem State.HighwayOnly.trans (h : s.HighwayOnly t w) (k : t.HighwayOnly u w) : s.HighwayOnly u w where
  rest := by rw [k.rest, h.rest]
  output := k.output.trans h.output
  others v hv := (k.others v hv).trans (h.others v hv)
  unphrased hp := by
    obtain ⟨counts, phrases⟩ := h.unphrased hp
    obtain ⟨counts', phrases'⟩ := k.unphrased phrases
    exact ⟨counts'.trans counts, phrases'⟩

theorem State.HighwayOnly.setHighway (s : State) (w : Highway) {r : HighwayRec} (output : r.output = (s.highway w).output)
    (channels : r.channels = (s.highway w).channels ∨ r.channels = []) : s.HighwayOnly (s.setHighway w r) w where
  rest := by cases w <;> rfl
  output := by rw [State.highway_setHighway, if_pos rfl, output]
  others v hv := by rw [State.highway_setHighway, if_neg (Ne.symm hv)]
  unphrased hp := by
    refine ⟨by simp, fun ts => ?_⟩
    have kept := hp ts
    unfold State.channel at kept ⊢
    rw [State.highway_setHighway, if_pos rfl]
    rcases channels with h | h
    · rw [h]; exact kept
    · rw [h]; rfl

theorem State.HighwayOnly.drainChannel (s : State) (w : Highway) (ts : Nat) : s.HighwayOnly (s.drainChannel w ts) w where
  rest := by cases w <;> rfl
  output := State.drainChannel_output _ _ _ _
  others v hv := by
    rw [State.drainChannel, State.setChannel, State.highway_setHighway, if_neg (Ne.symm hv)]
    cases v <;> rfl
  unphrased hp := by
    refine ⟨?_, fun us => ?_⟩
    · rw [State.drainChannel, State.setChannel, State.setHighway_useCounts, Channel.used, hp]
      rfl
    · rw [State.drainChannel_channel]
      split
      · rfl
      · exact hp us

theorem State.HighwayOnly.freeHighway (s : State) (w : Highway) : s.HighwayOnly (s.freeHighway w) w := by
  unfold State.freeHighway
  refine State.HighwayOnly.trans ?_ (.setHighway _ _ (by rfl) (.inr (by rfl)))
  unfold State.drainHighway
  dsimp only
  refine State.HighwayOnly.trans (.setHighway s w (r := { s.highway w with deferral := [] }) rfl (.inl rfl)) ?_
  refine foldl_through (P := fun _ t => (s.setHighway w { s.highway w with deferral := [] }).HighwayOnly t w) ?_ fun _ f _ t _ k => ?_
  · exact ⟨rfl, rfl, fun _ _ => rfl, fun hp => ⟨rfl, hp⟩⟩
  · split
    · exact k.trans (.drainChannel t w f.1)
    · exact k

theorem exec_linkUp_down (down : (s.link l).up = false) : exec (.linkUp l) s = .next (match l.highway? with
    | some h => (s.setLink l (s.link l).regained).freeHighway h
    | none => s.setLink l (s.link l).regained) := next_eq (if_neg (by rw [down]; exact Bool.false_ne_true))

theorem State.regained_freeNotices (s : State) (l : Link) : (s.setLink l (s.link l).regained).freeNotices l = 48 := by
  rw [State.freeNotices, State.link_setLink, if_pos rfl]
  rfl

end

/-- Settles O58: the loss of Link S; what every loss leaves; the loss of a link whose calls are WAITING and whose agents are idle;
the loss after which no offer follows, by a fold over the calls and a fold over the agents; and the return of a link. -/
theorem linkLossAndRegain : Obligations.LinkLossAndRegain := by
  refine ⟨fun s l up => ⟨fun hl => ?_, ?_, ?_, ?_⟩, fun s l down => ?_⟩
  · subst hl
    exact exec_linkDown_statistics up
  · obtain ⟨t, run, engine⟩ := exec_linkDown_engine up
    obtain ⟨down, receiving, inbound, outbound, reserved, permissions, enables, faultCount⟩ := engine.lost
    exact ⟨t, run, engine.settings.trans (s.linkLost_settings l), down, receiving, inbound, outbound, reserved, permissions,
      enables, faultCount, fun k hk => engine.lost_others hk⟩
  · intro hl rising waiting idle _ _
    exact State.LosesIdle.linkDown ⟨rising, waiting, idle⟩ up hl
  · intro hl rising agree _ reserved nothing unheld unqualified lostCall lostAgent released
    have h : s.LosesAlone l := ⟨rising, agree, reserved, nothing, unheld, unqualified⟩
    obtain ⟨w, hw⟩ := Link.highway_of_switching hl
    have k := h.agentsGone hw
    have notified := h.ends hw
    have engine := (Ev.loseSwitchingLink_engine (s.linkLost l) l w).trans (Ev.finish_engine _)
    refine ⟨_, exec_linkDown_lost up hw, notified.token.trans k.token, fun y => (notified.call y).trans (k.call_eq h y),
      fun x => ⟨fun home => ?_, fun away => ?_⟩, (engine.available h.lostConsistent.available).1, fun q => ⟨?_, ?_⟩,
      fun j hj x o home ho lost => ?_⟩
    · exact (notified.agent x).trans (k.homed x (beq_iff_eq.1 home))
    · have home : (s.agent x).home ≠ some l := beq_eq_false_iff_ne.1 away
      refine ⟨fun o ho lost => ?_, fun y c since hy hc ho ht => ?_, fun offer call => ?_⟩
      · exact (notified.agent x).trans (k.offered h home ho lost)
      · exact (notified.agent x).trans ((k.served h home hy hc ho ht).trans (Agent.startedWrap_eq _ _ _ _ _))
      · exact (notified.agent x).trans (k.untouched h home offer call)
    · exact (congrArg Queue.order (notified.queue q)).trans (k.order_eq h q)
    · rw [notified.queue, k.abandoned, State.countP_waiting rising.calls]
    · obtain ⟨ns, dropped, hn⟩ := notified.link j
      rw [hn]
      exact List.mem_append_left _ (k.cancels h hj home ho lost)
  · refine ⟨_, exec_linkUp_down down, ?_⟩
    cases hw : l.highway? with
    | none =>
      dsimp only
      refine ⟨rfl, s.regained_freeNotices l, fun v => ?_, fun _ => by simp⟩
      rw [if_neg nofun]
      simp
    | some w =>
      dsimp only
      have k := State.HighwayOnly.freeHighway (s.setLink l (s.link l).regained) w
      have free := (s.setLink l (s.link l).regained).freeHighway_free w
      generalize (s.setLink l (s.link l).regained).freeHighway w = t at k free ⊢
      have link : t.link l = (s.setLink l (s.link l).regained).link l := by rw [k.rest]; cases l <;> rfl
      have channel : ∀ ts, (s.setLink l (s.link l).regained).channel w ts = s.channel w ts := fun ts => by simp
      refine ⟨k.rest, ?_, fun v => ?_, fun hp => ?_⟩
      · rw [State.freeNotices, link]
        exact s.regained_freeNotices l
      · split
        · rename_i hv
          obtain rfl := Option.some.inj hv
          exact ⟨free.1, k.output.trans (by simp), free.2⟩
        · rename_i hv
          rw [k.others v fun e => hv (e ▸ rfl)]
          simp
      · exact (k.unphrased fun ts => by rw [channel]; exact hp w ts rfl).1.trans (by simp)

end Sys2Proof.Machine
end

section
/-!
PROOF. What leaves alone everything that is timed and everything that is configured (`State.SameTerms`): the work on links,
notices, counts, flags and channels.
-/
namespace Sys2Proof.Machine

open Sys2Proof

/-- What the requests and the two signals of a link set in its record. -/
def LinkRec.terms (r : LinkRec) : Bool × Permissions × Enables := (r.up, r.permissions, r.enables)

/-- What a QUEUE_SET and the handle-time samples set in a queue record. -/
def Queue.terms (r : Queue) : QueueConfig × Nat := (r.config, r.aht)

/-- The settings, the agents, the calls, the deferral lists, and what is set in the links and the queues are as they were. -/
structure State.SameTerms (s t : State) : Prop where
  settings : t.settings = s.settings
  agent : ∀ x, t.agent x = s.agent x
  call : ∀ y, t.call? y = s.call? y
  queue : ∀ q, (t.queue q).terms = (s.queue q).terms
  deferral : ∀ w, (t.highway w).deferral = (s.highway w).deferral
  link : ∀ k, (t.link k).terms = (s.link k).terms

namespace State.SameTerms

variable {s t u : State}

theorem refl (s : State) : s.SameTerms s := ⟨rfl, fun _ => rfl, fun _ => rfl, fun _ => rfl, fun _ => rfl, fun _ => rfl⟩

theorem trans (h : s.SameTerms t) (k : t.SameTerms u) : s.SameTerms u :=
  ⟨k.settings.trans h.settings, fun x => (k.agent x).trans (h.agent x), fun y => (k.call y).trans (h.call y),
    fun q => (k.queue q).trans (h.queue q), fun w => (k.deferral w).trans (h.deferral w), fun l => (k.link l).trans (h.link l)⟩

theorem config (h : s.SameTerms t) (q : Nat) : (t.queue q).config = (s.queue q).config := congrArg Prod.fst (h.queue q)

theorem aht (h : s.SameTerms t) (q : Nat) : (t.queue q).aht = (s.queue q).aht := congrArg Prod.snd (h.queue q)

theorem tick (h : s.SameTerms t) : t.tick = s.tick := congrArg Settings.tick h.settings

theorem setQueue (s : State) (q : Nat) (r : Queue) (h : r.terms = (s.queue q).terms) : s.SameTerms (s.setQueue q r) :=
  ⟨by simp, by simp, by simp, fun p => by
    rw [State.queue_setQueue]
    split
    · rename_i hq; subst hq; exact h
    · rfl, by simp, by simp⟩

theorem setLink (s : State) (l : Link) (r : LinkRec) (h : r.terms = (s.link l).terms) : s.SameTerms (s.setLink l r) :=
  ⟨by simp, by simp, by simp, by simp, by simp, fun k => by
    rw [State.link_setLink]
    split
    · rename_i hk; subst hk; exact h
    · rfl⟩

theorem setHighway (s : State) (w : Highway) (r : HighwayRec) (h : r.deferral = (s.highway w).deferral) :
    s.SameTerms (s.setHighway w r) :=
  ⟨by simp, by simp, by simp, by simp, fun v => by
    rw [State.highway_setHighway]
    split
    · rename_i hv; subst hv; exact h
    · rfl, by simp⟩

theorem setChannel (s : State) (w : Highway) (ts : Nat) (c : Channel) : s.SameTerms (s.setChannel w ts c) :=
  setHighway s w _ rfl

theorem updUseCounts (s : State) (gs : List Nat) (f : Nat → Nat) : s.SameTerms (s.updUseCounts gs f) :=
  ⟨by simp, by simp, by simp, by simp, by simp, by simp⟩

theorem updRefs (s : State) (b : Bank) (f : Nat → Nat) : s.SameTerms (s.updRefs b f) :=
  ⟨by simp, by simp, by simp, by simp, by simp, by simp⟩

theorem setRecent (s : State) (rs : List RecentEntry) : s.SameTerms { s with recent := rs } :=
  ⟨rfl, fun _ => rfl, fun _ => rfl, fun _ => rfl, fun w => by cases w <;> rfl, fun k => by cases k <;> rfl⟩

theorem setAvailable (s : State) (xs : List Nat) : s.SameTerms { s with available := xs } :=
  ⟨rfl, fun _ => rfl, fun _ => rfl, fun _ => rfl, fun w => by cases w <;> rfl, fun k => by cases k <;> rfl⟩

/-- An update taken for each element of a list leaves the terms, when each single one does. -/
theorem foldl {α : Type} {f : State → α → State} (h : ∀ (s : State) a, s.SameTerms (f s a)) (as : List α) (s : State) :
    s.SameTerms (as.foldl f s) := by
  induction as generalizing s with
  | nil => exact refl s
  | cons a as ih => exact (h s a).trans (ih _)

end State.SameTerms

section
variable (e : Ev) (l : Link)

/-! ## Links and notices -/

theorem Ev.updLink_terms {f : LinkRec → LinkRec} (h : ∀ r, (f r).terms = r.terms) : e.st.SameTerms (e.updLink l f).st :=
  .setLink _ _ _ (h _)

theorem State.takeHead_terms (s : State) : s.SameTerms (s.takeHead l).st := s.event.updLink_terms l fun _ => rfl

theorem Ev.replyWithKind_terms (r : Request) (kind : Byte) (status : Status) (result : Result) :
    e.st.SameTerms (e.replyWithKind l r kind status result).st := e.updLink_terms l fun _ => rfl

theorem Ev.reply_terms (r : Request) (status : Status) (result : Result) :
    e.st.SameTerms (e.reply l r status result).st := e.replyWithKind_terms l r _ status result

theorem Ev.queueNotice_terms (n : Notice) : e.st.SameTerms (e.queueNotice l n).st := by
  unfold Ev.queueNotice
  split
  · exact e.updLink_terms l fun _ => rfl
  · exact .refl _

theorem Ev.reserve_terms : e.st.SameTerms (e.reserve l).st := by
  unfold Ev.reserve
  split
  · exact e.updLink_terms l fun _ => rfl
  · exact .refl _

theorem Ev.useReservation_terms (n : Notice) : e.st.SameTerms (e.useReservation l n).st := by
  unfold Ev.useReservation
  split
  · exact e.updLink_terms l fun _ => rfl
  · exact .refl _

theorem Ev.releaseReservation_terms : e.st.SameTerms (e.releaseReservation l).st := by
  unfold Ev.releaseReservation
  split
  · rw [Ev.markFreed_st]; exact e.updLink_terms l fun _ => rfl
  · exact .refl _

theorem Ev.cancelOffer_terms (o : CallOffer) (y : Nat) (cause : CancelCause) :
    e.st.SameTerms (e.cancelOffer o y cause).st := by
  unfold Ev.cancelOffer
  split
  · exact e.useReservation_terms _ _
  · exact .refl _

theorem Ev.releaseHome_terms (x : Nat) : e.st.SameTerms (e.releaseHome x).st := by
  unfold Ev.releaseHome
  split
  · exact e.releaseReservation_terms _
  · exact .refl _

theorem Ev.queueListen_terms (y : Nat) (c : Call) (ts : Option Nat) : e.st.SameTerms (e.queueListen y c ts).st := by
  unfold Ev.queueListen
  split
  · exact e.queueNotice_terms _ _
  · exact .refl _

theorem Ev.raiseFault_terms (type : FaultType) (k : Option (Byte × Byte)) : e.st.SameTerms (e.raiseFault l type k).st :=
  e.updLink_terms l (f := fun r => { r with faultCount := min 65535 (r.faultCount + 1) }) fun _ => rfl

theorem Ev.refuseMalformed_terms (r : Request) (result : Result) : e.st.SameTerms (e.refuseMalformed l r result).st :=
  (e.reply_terms l r .malformed result).trans (Ev.raiseFault_terms _ _ _ _)

theorem LinkRec.told_terms (r : LinkRec) (n : Notice) : (r.told n).terms = r.terms := by
  unfold LinkRec.told
  split
  · rfl
  · split <;> rfl

theorem Ev.deliverOffered_terms : e.st.SameTerms e.deliverOffered := by
  rw [Ev.deliverOffered_st]
  exact .foldl (fun s (o : Offered) => .foldl (fun s k => .setLink _ _ _ (LinkRec.told_terms _ _)) o.dests s) _ _

theorem Ev.receive_terms (fuel : Nat) (buffer : List Byte) : e.st.SameTerms (Ev.receive l fuel buffer e).st := by
  induction fuel generalizing buffer e with
  | zero => exact e.updLink_terms l fun _ => rfl
  | succ fuel ih =>
    unfold Ev.receive
    split
    · exact e.updLink_terms l fun _ => rfl
    · exact (e.raiseFault_terms l _ _).trans (ih _ _)
    · exact (e.raiseFault_terms l _ _).trans (ih _ _)
    · split
      · refine State.SameTerms.trans ?_ (ih _ _)
        exact e.updLink_terms l fun _ => rfl
      · exact (e.raiseFault_terms l _ _).trans (ih _ _)

/-! ## Counts, flags and weights -/

theorem Ev.count_terms (q : Nat) (n : CounterName) : e.st.SameTerms (e.count q n).st := by
  have h : e.st.SameTerms (e.st.setQueue q { e.st.queue q with
      stats := (e.st.queue q).stats.setCounter n ((e.st.queue q).stats.counter n).increment }) := .setQueue _ _ _ rfl
  unfold Ev.count
  dsimp only
  split <;> exact h

theorem Ev.countPassed_terms (qs : List Nat) : e.st.SameTerms (e.countPassed qs).st := by
  induction qs generalizing e with
  | nil => exact .refl _
  | cons q qs ih => exact (e.count_terms q _).trans (ih _)

theorem Ev.setClosed_terms (q : Nat) (b : Bool) : e.st.SameTerms (e.setClosed q b).st :=
  .setQueue e.st q { e.st.queue q with closed := b } rfl

theorem Ev.evalClosing_terms (q : Nat) : e.st.SameTerms (e.evalClosing q).st := by
  unfold Ev.evalClosing
  dsimp only
  split
  · exact e.setClosed_terms q true
  · exact .refl _

theorem Ev.evalOpening_terms (q : Nat) : e.st.SameTerms (e.evalOpening q).st := by
  unfold Ev.evalOpening
  dsimp only
  split
  · exact e.setClosed_terms q false
  · exact .refl _

theorem State.adjustWeights_terms (s : State) (a : Agent) (f : Nat → Nat → Nat) : s.SameTerms (s.adjustWeights a f) := by
  unfold State.adjustWeights
  split
  · refine .foldl (fun s k => ?_) _ _
    dsimp only
    split
    · exact .setQueue _ _ _ rfl
    · exact .refl _
  · exact .refl s

theorem State.reweigh_terms (s : State) (old new : Agent) : s.SameTerms (s.reweigh old new) := by
  unfold State.reweigh
  split
  · exact .refl s
  · exact (s.adjustWeights_terms old _).trans (State.adjustWeights_terms _ new _)

/-! ## Channels -/

theorem State.drainChannel_terms (s : State) (w : Highway) (ts : Nat) : s.SameTerms (s.drainChannel w ts) :=
  (State.SameTerms.updUseCounts _ _ _).trans (.setChannel _ _ _ _)

theorem State.boundaryChannels_terms (s : State) (w : Highway) : s.SameTerms (s.boundaryChannels w) := .setHighway s w _ rfl

end

end Sys2Proof.Machine
end

section
/-!
PROOF. What each command may configure (`State.OnlyOwn`), and the requests that configure something and touch nothing that is
timed (`State.Configured`).
-/
namespace Sys2Proof.Machine

open Sys2Proof

/-! ## The configuration a command has nothing to do with -/

/-- From `s` to `t`, the command `c` has changed no part of the configuration that is another command's, the queues' aside. -/
structure State.OnlyOwn (c : Instr) (s t : State) : Prop where
  store : (∀ l, c ≠ .sampleWrite l) → t.store = s.store
  pattern : (∀ l, c ≠ .patternWrite l) → ∀ b p, t.pattern b p = s.pattern b p
  segments : (∀ l, c ≠ .segmentSet l) → t.segments = s.segments
  vocabulary : (∀ l, c ≠ .vocabularySet l) → t.vocabulary = s.vocabulary
  treatment : (∀ l, c ≠ .treatmentSet l) → t.silence = s.silence ∧ t.deferLimit = s.deferLimit
  activeBank : (∀ l, c ≠ .bankActivate l) → t.activeBank = s.activeBank
  openBank : (∀ l, c ≠ .bankOpen l ∧ c ≠ .bankClose l) → t.openBank = s.openBank
  port : (∀ l, c ≠ .portSet l) → ∀ k, (t.link k).permissions = (s.link k).permissions ∧ (t.link k).enables = (s.link k).enables
  programmes : (∀ l, c ≠ .programmeSet l ∧ c ≠ .run l ∧ c ≠ .pause l ∧ c ≠ .stop l) → c ≠ .playoutFrame →
    t.programmes = s.programmes
  up : (∀ l, c ≠ .linkUp l ∧ c ≠ .linkDown l) → ∀ k, (t.link k).up = (s.link k).up
  clock : c ≠ .playoutFrame → t.frameCount = s.frameCount ∧ (c ≠ .blockBoundary → t.boundaryDue = s.boundaryDue)

theorem State.pattern_of_tables {s t : State} (h0 : t.patterns0 = s.patterns0) (h1 : t.patterns1 = s.patterns1) (b : Bank)
    (p : Nat) : t.pattern b p = s.pattern b p := by
  cases b
  · exact congrArg (Assoc.get [] p) h0
  · exact congrArg (Assoc.get [] p) h1

namespace State.OnlyOwn

variable {c : Instr} {s t u : State}

theorem trans (h : s.OnlyOwn c t) (k : t.OnlyOwn c u) : s.OnlyOwn c u where
  store hc := (k.store hc).trans (h.store hc)
  pattern hc b p := (k.pattern hc b p).trans (h.pattern hc b p)
  segments hc := (k.segments hc).trans (h.segments hc)
  vocabulary hc := (k.vocabulary hc).trans (h.vocabulary hc)
  treatment hc := ⟨(k.treatment hc).1.trans (h.treatment hc).1, (k.treatment hc).2.trans (h.treatment hc).2⟩
  activeBank hc := (k.activeBank hc).trans (h.activeBank hc)
  openBank hc := (k.openBank hc).trans (h.openBank hc)
  port hc l := ⟨(k.port hc l).1.trans (h.port hc l).1, (k.port hc l).2.trans (h.port hc l).2⟩
  programmes hc hp := (k.programmes hc hp).trans (h.programmes hc hp)
  up hc l := (k.up hc l).trans (h.up hc l)
  clock hc := ⟨(k.clock hc).1.trans (h.clock hc).1, fun hb => ((k.clock hc).2 hb).trans ((h.clock hc).2 hb)⟩

/-- The same settings, and links that are UP, permitted and enabled as before. -/
theorem of_settings (c : Instr) (h : t.settings = s.settings) (hl : ∀ k, (t.link k).terms = (s.link k).terms) :
    s.OnlyOwn c t where
  store _ := congrArg Settings.store h
  pattern _ := State.pattern_of_tables (congrArg Settings.patterns0 h) (congrArg Settings.patterns1 h)
  segments _ := congrArg Settings.segments h
  vocabulary _ := congrArg Settings.vocabulary h
  treatment _ := ⟨congrArg Settings.silence h, congrArg Settings.deferLimit h⟩
  activeBank _ := congrArg Settings.activeBank h
  openBank _ := congrArg Settings.openBank h
  port _ k := ⟨congrArg (fun x => x.2.1) (hl k), congrArg (fun x => x.2.2) (hl k)⟩
  programmes _ _ := congrArg Settings.programmes h
  up _ k := congrArg Prod.fst (hl k)
  clock _ := ⟨congrArg Settings.frameCount h, fun _ => congrArg Settings.boundaryDue h⟩

theorem refl (c : Instr) (s : State) : s.OnlyOwn c s := of_settings c rfl fun _ => rfl

end State.OnlyOwn

theorem Engine.terms {s t : State} (h : Engine s t) (k : Link) : (t.link k).terms = (s.link k).terms :=
  congrArg (fun p => (p.1, p.2.2.2.1, p.2.2.2.2.1)) (h.port k)

theorem Engine.onlyOwn {s t : State} (c : Instr) (h : Engine s t) : s.OnlyOwn c t := .of_settings c h.settings h.terms

/-! ## Configuring without timing -/

/-- The duration of a MUSIC or SILENCE step. -/
def PatternStep.duration : PatternStep → Nat
  | .music _ d => d
  | .silence d => d
  | _ => 0

/-- The durations of the steps of every pattern are at most 65535 ticks (R184). -/
def State.StepsBounded (s : State) : Prop := ∀ b p, ∀ step ∈ s.pattern b p, step.duration ≤ 65535

theorem State.StepsBounded.of_tables {s t : State} (h : s.StepsBounded) (h0 : t.patterns0 = s.patterns0)
    (h1 : t.patterns1 = s.patterns1) : t.StepsBounded := fun b p => by rw [State.pattern_of_tables h0 h1]; exact h b p

/-- From `s` to `t`, the command `c` has configured at most what is its own, in the ranges that the deadlines need, and has left
alone the agents, the calls, the deferral lists, the tick count and what is set in the queues. -/
structure State.Configured (c : Instr) (s t : State) : Prop where
  own : s.OnlyOwn c t
  tick : t.tick = s.tick
  agent : ∀ x, t.agent x = s.agent x
  call : ∀ y, t.call? y = s.call? y
  queue : ∀ q, (t.queue q).terms = (s.queue q).terms
  deferral : ∀ w, (t.highway w).deferral = (s.highway w).deferral
  deferLimit : s.deferLimit ≤ 65535 → t.deferLimit ≤ 65535
  steps : s.StepsBounded → t.StepsBounded
  boundary : (s.boundaryDue = true → s.frameCount = 0) → t.boundaryDue = true → t.frameCount = 0

namespace State.Configured

variable {c : Instr} {s t u : State}

theorem trans (h : s.Configured c t) (k : t.Configured c u) : s.Configured c u where
  own := h.own.trans k.own
  tick := k.tick.trans h.tick
  agent x := (k.agent x).trans (h.agent x)
  call y := (k.call y).trans (h.call y)
  queue q := (k.queue q).trans (h.queue q)
  deferral w := (k.deferral w).trans (h.deferral w)
  deferLimit hs := k.deferLimit (h.deferLimit hs)
  steps hs := k.steps (h.steps hs)
  boundary hs := k.boundary (h.boundary hs)

theorem of_terms (c : Instr) (h : s.SameTerms t) : s.Configured c t where
  own := .of_settings c h.settings h.link
  tick := h.tick
  agent := h.agent
  call := h.call
  queue := h.queue
  deferral := h.deferral
  deferLimit hs := (congrArg Settings.deferLimit h.settings).trans_le hs
  steps hs := hs.of_tables (congrArg Settings.patterns0 h.settings) (congrArg Settings.patterns1 h.settings)
  boundary hs hd :=
    (congrArg Settings.frameCount h.settings).trans (hs ((congrArg Settings.boundaryDue h.settings).symm.trans hd))

theorem then_terms (h : s.Configured c t) (k : t.SameTerms u) : s.Configured c u := h.trans (.of_terms c k)

/-- A write that touches neither what is timed nor the patterns, the defer limit and the boundary mark. -/
theorem of_own (own : s.OnlyOwn c t) (tick : t.tick = s.tick) (agents : t.agents = s.agents) (calls : t.calls = s.calls)
    (queues : t.queues = s.queues) (highway : ∀ w, t.highway w = s.highway w) (deferLimit : t.deferLimit = s.deferLimit)
    (patterns0 : t.patterns0 = s.patterns0) (patterns1 : t.patterns1 = s.patterns1) (frameCount : t.frameCount = s.frameCount)
    (boundaryDue : t.boundaryDue = s.boundaryDue) : s.Configured c t where
  own := own
  tick := tick
  agent x := by rw [State.agent, agents, State.agent]
  call y := by rw [State.call?, calls, State.call?]
  queue q := by rw [State.queue, queues, State.queue]
  deferral w := by rw [highway]
  deferLimit := deferLimit ▸ id
  steps hs := hs.of_tables patterns0 patterns1
  boundary hs := by rw [frameCount, boundaryDue]; exact hs

end State.Configured

end Sys2Proof.Machine
end

section
/-!
PROOF. The requests, signals and playout clock that configure something: each writes at most what is its own.
-/
namespace Sys2Proof.Machine

open Sys2Proof

/-! ## Numbers read from a body -/

theorem u8_le (b : List Byte) (i : Nat) : u8 b i ≤ 255 := by
  unfold u8
  omega

theorem u16_le (b : List Byte) (i : Nat) : u16 b i ≤ 65535 := by
  have high := u8_le b i
  have low := u8_le b (i + 1)
  unfold u16
  omega

theorem readTreatmentSet_deferLimit {body : List Byte} {b : TreatmentSetBody} (h : readTreatmentSet body = some b) :
    b.deferLimit ≤ 65535 := by
  unfold readTreatmentSet at h
  split at h
  · cases h
    exact u16_le _ _
  · cases h

theorem readStep_duration {body : List Byte} {i : Nat} {step : PatternStep} (h : readStep body i = some step) :
    step.duration ≤ 65535 := by
  unfold readStep at h
  dsimp only at h
  split at h
  case h_1 =>
    split at h
    · cases h; exact u16_le _ _
    · cases h
  case h_2 => cases h; exact u16_le _ _
  case h_3 | h_6 | h_8 | h_9 =>
    split at h
    · cases h; exact Nat.zero_le _
    · cases h
  case h_4 | h_5 | h_7 => cases h; exact Nat.zero_le _
  case h_10 => cases h

theorem readSteps_duration {body : List Byte} {n i : Nat} {steps : List PatternStep} (h : readSteps body i n = some steps) :
    ∀ step ∈ steps, step.duration ≤ 65535 := by
  induction n generalizing i steps with
  | zero => cases h; simp
  | succ n ih =>
    unfold readSteps at h
    split at h
    · rename_i first rest hstep hrest
      cases h
      intro step hs
      rcases List.mem_cons.1 hs with rfl | hs
      · exact readStep_duration hstep
      · exact ih hrest step hs
    · cases h

theorem readPatternWrite_duration {body : List Byte} {b : PatternWriteBody} (h : readPatternWrite body = some b) :
    ∀ step ∈ b.steps, step.duration ≤ 65535 := by
  unfold readPatternWrite at h
  dsimp only at h
  split at h
  · obtain ⟨steps, hs, rfl⟩ := Option.map_eq_some_iff.1 h
    exact readSteps_duration hs
  · cases h

/-! ## Requests -/

section
variable (e : Ev) (k l : Link) (r : Request)

/-- An update that configures what is the command's own, and its reply. -/
theorem Ev.updReply_configured {c : Instr} {f : State → State} (h : e.st.Configured c (f e.st)) (status : Status)
    (result : Result) : e.st.Configured c ((e.upd f).reply l r status result).st :=
  h.then_terms ((e.upd f).reply_terms l r status result)

theorem Ev.reply_configured (c : Instr) (status : Status) (result : Result) :
    e.st.Configured c (e.reply l r status result).st := .of_terms c (e.reply_terms l r status result)

theorem Ev.serveSampleWrite_configured (b : SampleWriteBody) :
    e.st.Configured (.sampleWrite k) (e.serveSampleWrite l r b).st := by
  unfold Ev.serveSampleWrite
  split
  · exact e.updReply_configured l r (.of_own
      { State.OnlyOwn.refl (.sampleWrite k) e.st with store := fun hc => absurd rfl (hc k) }
      rfl rfl rfl rfl (fun w => by cases w <;> rfl) rfl rfl rfl rfl rfl) _ _
  · exact e.reply_configured l r _ _ _

theorem State.setSegment_configured (s : State) (g : Nat) (entry : Option Segment) :
    s.Configured (.segmentSet k) (s.setSegment g entry) := by
  unfold State.setSegment
  split
  all_goals
    exact .of_own { State.OnlyOwn.refl (.segmentSet k) s with segments := fun hc => absurd rfl (hc k) }
      rfl rfl rfl rfl (fun w => by cases w <;> rfl) rfl rfl rfl rfl rfl

theorem Ev.serveSegmentSet_configured (b : SegmentSetBody) :
    e.st.Configured (.segmentSet k) (e.serveSegmentSet l r b).st := by
  unfold Ev.serveSegmentSet
  split
  · split
    · exact e.reply_configured l r _ _ _
    · exact e.updReply_configured l r (e.st.setSegment_configured k _ _) _ _
  · exact e.reply_configured l r _ _ _

/-- The commands that store programmes. -/
def StoresProgrammes (c : Instr) : Prop := ∃ l, c = .programmeSet l ∨ c = .run l ∨ c = .pause l ∨ c = .stop l

theorem State.setProgramme_configured {c : Instr} (h : StoresProgrammes c) (s : State) (n : Nat) (p : Programme) :
    s.Configured c (s.setProgramme n p) := by
  refine .of_own { State.OnlyOwn.refl c s with programmes := fun hc => ?_ }
    rfl rfl rfl rfl (fun w => by cases w <;> rfl) rfl rfl rfl rfl rfl
  obtain ⟨k, hk⟩ := h
  obtain ⟨h1, h2, h3, h4⟩ := hc k
  rcases hk with hk | hk | hk | hk
  · exact absurd hk h1
  · exact absurd hk h2
  · exact absurd hk h3
  · exact absurd hk h4

theorem Ev.serveProgrammeSet_configured {c : Instr} (h : StoresProgrammes c) (b : ProgrammeSetBody) :
    e.st.Configured c (e.serveProgrammeSet l r b).st := by
  unfold Ev.serveProgrammeSet
  split
  · split
    · exact e.updReply_configured l r (e.st.setProgramme_configured h _ _) _ _
    · exact e.reply_configured l r _ _ _
  · exact e.reply_configured l r _ _ _

theorem Ev.controlled_configured {c : Instr} (h : StoresProgrammes c) (n : Nat) (p : Programme) :
    e.st.Configured c (e.controlled l r n p).st := e.updReply_configured l r (e.st.setProgramme_configured h n p) _ _

theorem Ev.recounted_configured {c : Instr} (h : StoresProgrammes c) (gs : List Nat) (f : Nat → Nat) (n : Nat)
    (p : Programme) : e.st.Configured c ((e.upd fun s => s.updUseCounts gs f).controlled l r n p).st :=
  (State.Configured.of_terms c (.updUseCounts e.st gs f)).trans
    ((e.upd fun s => s.updUseCounts gs f).controlled_configured l r h n p)

theorem Ev.serveRun_configured {c : Instr} (h : StoresProgrammes c) (n : Nat) (p : Programme) :
    e.st.Configured c (e.serveRun l r n p).st := by
  unfold Ev.serveRun
  split
  · exact e.recounted_configured l r h _ _ n _
  · exact e.controlled_configured l r h _ _
  · exact e.controlled_configured l r h _ _

theorem Ev.servePause_configured {c : Instr} (h : StoresProgrammes c) (n : Nat) (p : Programme) :
    e.st.Configured c (e.servePause l r n p).st := by
  unfold Ev.servePause
  split
  · exact e.reply_configured l r _ _ _
  · exact e.controlled_configured l r h _ _
  · exact e.controlled_configured l r h _ _

theorem Ev.serveStop_configured {c : Instr} (h : StoresProgrammes c) (n : Nat) (p : Programme) :
    e.st.Configured c (e.serveStop l r n p).st := by
  unfold Ev.serveStop
  split
  · exact e.controlled_configured l r h _ _
  all_goals exact e.recounted_configured l r h _ _ n _

theorem Ev.bankReply_configured (c : Instr) (status : Status) : e.st.Configured c (e.bankReply l r status).st :=
  e.reply_configured l r _ _ _

/-- A write of the open bank by one of its two requests. -/
theorem State.openBank_configured {c : Instr} (h : c = .bankOpen k ∨ c = .bankClose k) (s : State) (o : Option Bank) :
    s.Configured c { s with openBank := o } := by
  refine .of_own { State.OnlyOwn.refl c s with openBank := fun hc => ?_ }
    rfl rfl rfl rfl (fun w => by cases w <;> rfl) rfl rfl rfl rfl rfl
  rcases h with h | h
  · exact absurd h (hc k).1
  · exact absurd h (hc k).2

theorem Ev.serveBankOpen_configured (b : Bank) : e.st.Configured (.bankOpen k) (e.serveBankOpen l r b).st := by
  unfold Ev.serveBankOpen
  split
  · exact e.bankReply_configured l r _ _
  · split
    · exact e.bankReply_configured l r _ _
    · split
      · exact e.bankReply_configured l r _ _
      · exact e.updReply_configured l r (State.openBank_configured k (.inl rfl) _ _) _ _

theorem Ev.serveBankClose_configured (b : Bank) : e.st.Configured (.bankClose k) (e.serveBankClose l r b).st := by
  unfold Ev.serveBankClose
  split
  · exact e.updReply_configured l r (State.openBank_configured k (.inr rfl) _ _) _ _
  · exact e.bankReply_configured l r _ _

theorem Ev.serveBankActivate_configured (b : Bank) : e.st.Configured (.bankActivate k) (e.serveBankActivate l r b).st := by
  unfold Ev.serveBankActivate
  split
  · exact e.bankReply_configured l r _ _
  · exact e.updReply_configured l r (.of_own
      { State.OnlyOwn.refl (.bankActivate k) e.st with activeBank := fun hc => absurd rfl (hc k) }
      rfl rfl rfl rfl (fun w => by cases w <;> rfl) rfl rfl rfl rfl rfl) _ _

theorem State.setPattern_configured (s : State) (b : Bank) (p : Nat) (steps : List PatternStep)
    (h : ∀ step ∈ steps, step.duration ≤ 65535) : s.Configured (.patternWrite k) (s.setPattern b p steps) := by
  have own : s.OnlyOwn (.patternWrite k) (s.setPattern b p steps) := by
    cases b
    all_goals exact { State.OnlyOwn.refl (.patternWrite k) s with pattern := fun hc => absurd rfl (hc k) }
  refine { State.Configured.of_terms (.patternWrite k) (.refl s) with
    own := own, tick := by simp, agent := by simp, call := by simp, queue := by simp, deferral := by simp
    deferLimit := by simp, boundary := by simp, steps := fun hs b' p' step hstep => ?_ }
  rw [State.pattern_setPattern] at hstep
  split at hstep
  · exact h step hstep
  · exact hs b' p' step hstep

theorem Ev.servePatternWrite_configured {b : PatternWriteBody} (h : ∀ step ∈ b.steps, step.duration ≤ 65535) :
    e.st.Configured (.patternWrite k) (e.servePatternWrite l r b).st := by
  unfold Ev.servePatternWrite
  split
  · exact e.bankReply_configured l r _ _
  · split
    · exact e.bankReply_configured l r _ _
    · split
      · exact e.updReply_configured l r (e.st.setPattern_configured k _ _ _ h) _ _
      · exact e.bankReply_configured l r _ _

theorem Ev.serveVocabulary_configured (v : Vocabulary) :
    e.st.Configured (.vocabularySet k) (e.serveVocabulary l r v).st := by
  unfold Ev.serveVocabulary
  split
  · exact e.updReply_configured l r (.of_own
      { State.OnlyOwn.refl (.vocabularySet k) e.st with vocabulary := fun hc => absurd rfl (hc k) }
      rfl rfl rfl rfl (fun w => by cases w <;> rfl) rfl rfl rfl rfl rfl) _ _
  · exact e.reply_configured l r _ _ _

theorem Ev.serveTreatmentSet_configured {b : TreatmentSetBody} (h : b.deferLimit ≤ 65535) :
    e.st.Configured (.treatmentSet k) (e.serveTreatmentSet l r b).st :=
  e.updReply_configured l r { State.Configured.of_terms (.treatmentSet k) (.refl e.st) with
    own := { State.OnlyOwn.refl (.treatmentSet k) e.st with treatment := fun hc => absurd rfl (hc k) }
    deferral := fun w => by cases w <;> rfl
    deferLimit := fun _ => h
    steps := fun hs => hs.of_tables rfl rfl } _ _

/-- A link record set by a command that may change the link's permissions, or its signal. -/
theorem State.setLink_configured {c : Instr} (s : State) (j : Link) (record : LinkRec)
    (port : (∀ l, c ≠ .portSet l) → record.permissions = (s.link j).permissions ∧ record.enables = (s.link j).enables)
    (up : (∀ l, c ≠ .linkUp l ∧ c ≠ .linkDown l) → record.up = (s.link j).up) : s.Configured c (s.setLink j record) := by
  have own : s.OnlyOwn c (s.setLink j record) :=
    { store := by simp, pattern := by simp, segments := by simp, vocabulary := by simp, treatment := by simp
      activeBank := by simp, openBank := by simp, programmes := by simp, clock := by simp
      port := fun hc i => by
        rw [State.link_setLink]
        split
        · rename_i hi; subst hi; exact port hc
        · exact ⟨rfl, rfl⟩
      up := fun hc i => by
        rw [State.link_setLink]
        split
        · rename_i hi; subst hi; exact up hc
        · rfl }
  exact .of_own own (by simp) (by simp) (by simp) (by simp) (by simp) (by simp) (by simp) (by simp) (by simp) (by simp)

theorem State.setPort_configured (s : State) (b : PortSetBody) : s.Configured (.portSet k) (s.setPort b) :=
  s.setLink_configured b.link { s.link b.link with permissions := b.permissions, enables := b.enables }
    (fun hc => absurd rfl (hc k)) fun _ => rfl

theorem Ev.servePortSet_configured (b : PortSetBody) : e.st.Configured (.portSet k) (e.servePortSet l r b).st := by
  unfold Ev.servePortSet
  split
  · exact e.updReply_configured l r (e.st.setPort_configured k b) _ _
  · exact e.reply_configured l r _ _ _

/-! ## Requests that read, and STATS_CLEAR -/

theorem Ev.serveStatsRead_terms (q : Nat) : e.st.SameTerms (e.serveStatsRead l r q).st := by
  unfold Ev.serveStatsRead
  split <;> exact e.reply_terms l r _ _

theorem Ev.serveStatsClear_terms (b : StatsClearBody) : e.st.SameTerms (e.serveStatsClear l r b).st := by
  unfold Ev.serveStatsClear
  split
  · exact (e.reply_terms l r _ _).trans (State.SameTerms.setQueue _ _ _ rfl)
  · exact e.reply_terms l r _ _

theorem Ev.serveQueueRead_terms (q : Nat) : e.st.SameTerms (e.serveQueueRead l r q).st := by
  unfold Ev.serveQueueRead
  split <;> exact e.reply_terms l r _ _

theorem Ev.serveCallRead_terms (y : Nat) : e.st.SameTerms (e.serveCallRead l r y).st := by
  unfold Ev.serveCallRead
  split <;> exact e.reply_terms l r _ _

theorem Ev.servePortRead_terms (named : Link) : e.st.SameTerms (e.servePortRead l r named).st :=
  (e.reply_terms l r _ _).trans (Ev.updLink_terms _ _ fun _ => rfl)

theorem Ev.replyNotCurrent_terms (b : OfferReplyBody) (a : Agent) :
    e.st.SameTerms (e.replyNotCurrent l r b a).st := by
  unfold Ev.replyNotCurrent
  split
  · split <;> exact e.reply_terms l r _ _
  · exact e.reply_terms l r _ _

/-! ## The playout clock -/

/-- A boundary's mark taken by one of the two commands of the playout clock. -/
theorem State.unmarked_configured {c : Instr} (h : c = .blockBoundary ∨ c = .playoutFrame) (s : State) :
    s.Configured c { s with boundaryDue := false } where
  own := { State.OnlyOwn.refl c s with
    clock := fun hc => ⟨rfl, fun hb => (h.elim (fun h => hb h) fun h => hc h).elim⟩ }
  tick := rfl
  agent _ := rfl
  call _ := rfl
  queue _ := rfl
  deferral w := by cases w <;> rfl
  deferLimit := id
  steps hs := hs.of_tables rfl rfl
  boundary _ hb := nomatch hb

theorem State.frame_configured (s : State) : s.Configured .playoutFrame s.frame where
  own := { State.OnlyOwn.refl .playoutFrame s with
    programmes := fun _ hc => absurd rfl hc, clock := fun hc => absurd rfl hc }
  tick := rfl
  agent _ := rfl
  call _ := rfl
  queue _ := rfl
  deferral w := by cases w <;> rfl
  deferLimit := id
  steps hs := hs.of_tables rfl rfl
  boundary _ hb := of_decide_eq_true hb

end

end Sys2Proof.Machine
end

section
/-!
PROOF. What a promise needs of the operations that a command is made of, when it speaks of the configuration and of deadlines
(`Upholds`): unlike `Keeps` it is asked for one command from one state, and each request's own configuration stands in it.
-/
namespace Sys2Proof.Machine

open Sys2Proof

/-- What keeps a promise `P` inside the event that is the command `c` in state `s`. `Q` is what `P` promises of the state after
it. -/
structure Upholds (c : Instr) (s : State) (P Q : State → Prop) : Prop where
  weaken : ∀ {u}, P u → Q u
  tick : c = .tick → P s → Q { s.takeExpiries with tick := s.takeExpiries.tick + 1 }
  reset : c = .powerOnReset → Q { State.reset with pending := s.pending }
  configured : ∀ {u v}, P u → u.Configured c v → P v
  freeHighway : ∀ {u} w, P u → P (u.freeHighway w)
  queueSet : ∀ l r b, c = .queueSet l → readQueueSet r.body = some b → P (s.takeHead l).st →
    P ((s.takeHead l).serveQueueSet l r b).st
  engineReset : ∀ l r, c = .engineReset l → P (s.takeHead l).st → P ((s.takeHead l).serveEngineReset l r).st
  finish : ∀ {e : Ev}, P e.st → P e.finish
  enter : ∀ {e : Ev} {y} l r b p, P e.st → e.st.call? y = none → p.redirects ≤ 7 → P (e.enterCall l r b y p).st
  withdraw : ∀ {e : Ev} {y c} l r, P e.st → e.st.call? y = some c → P (e.serveWithdraw l r y c).st
  release : ∀ {e : Ev} {y c} l r, P e.st → e.st.call? y = some c → P (e.serveRelease l r y c).st
  login : ∀ {e : Ev} {b} l r, P e.st → readLogin r.body = some b → P (e.serveLogin l r b).st
  ready : ∀ {e : Ev} l r x, P e.st → P (e.serveReady l r x (e.st.agent x)).st
  notReady : ∀ {e : Ev} l r x reason cause, P e.st → P (e.serveNotReady l r x reason cause (e.st.agent x)).st
  logout : ∀ {e : Ev} l r x cause, P e.st → P (e.serveLogout l r x cause (e.st.agent x)).st
  logoutNow : ∀ {e : Ev} x cause, P e.st → P (e.logoutNow x cause).st
  update : ∀ {e : Ev} {b} l r, P e.st → readUpdate r.body = some b → P (e.serveUpdate l r b (e.st.agent b.slot)).st
  extend : ∀ {e : Ev} l r (b : ExtendBody), P e.st → P (e.serveWrapExtend l r b (e.st.agent b.slot)).st
  endWrap : ∀ {e : Ev} {x w} cause, P e.st → (e.st.agent x).wrap = some w → P (e.endWrap x w cause).st
  connect : ∀ {e : Ev} {x y c} token, P e.st → e.st.call? y = some c → P (e.connect y c x (e.st.agent x) token).st
  failOffer : ∀ {e : Ev} {y c o} out cause, P e.st → e.st.call? y = some c → c.offer = some o →
    P (e.failOffer y c o out cause).st
  agentRead : ∀ {u : State} x, P u → P (u.setAgent x (u.agent x).clearAccumulators)
  agentAttempt : ∀ {e : Ev} x, P e.st → P (e.agentAttempt x).st
  ringExpiry : ∀ {u : State} y, P u → P (u.takeRingExpiry y)
  promotion : ∀ {u : State} y, P u → P (u.takePromotionDeadline y)
  stepDeadline : ∀ {u : State} y, P u → P (u.takeStepDeadline y)
  deferralExpiry : ∀ {u : State} y, P u → P (u.takeDeferralExpiry y)
  wrapDeadline : ∀ {u : State} x, P u → P (u.takeWrapDeadline x)
  penaltyExpiry : ∀ {u : State} x, P u → P (u.takePenaltyExpiry x)
  grantHead : ∀ {e d : Ev} w, P e.st → e.grantHead w = some d → P d.st
  grants : ∀ {e : Ev} w, P e.st → P (e.grants w).st
  endPhrase : ∀ {e : Ev} w ts y c t, P e.st → P (e.endPhrase w ts y c t).st
  completeExit : ∀ {e : Ev} l y, P e.st → P (e.completeExit l y).st
  takeHeldListen : ∀ {e : Ev} l y, P e.st → P (e.takeHeldListen l y).st
  attemptStage : ∀ {e : Ev} l, P e.st → P (e.attemptStage l).st
  loseSwitchingLink : ∀ {e : Ev} l w, P e.st → P (e.loseSwitchingLink l w).st

section
variable {c : Instr} {P Q : State → Prop} {s u v : State} {e : Ev}

namespace Upholds

theorem terms (k : Upholds c s P Q) (h : P u) (t : u.SameTerms v) : P v := k.configured h (.of_terms c t)

theorem replied (k : Upholds c s P Q) (h : P e.st) (l : Link) (r : Request) (status : Status) (result : Result) :
    P (e.reply l r status result).st := k.terms h (e.reply_terms l r status result)

/-! ## Requests -/

/-- The checks of class and body. -/
theorem checked (k : Upholds c s P Q) (h : P e.st) {α : Type} (l : Link) (r : Request) (cls : RequestClass)
    (read : List Byte → Option α) (result : Result) {serve : α → Ev}
    (served : ∀ b, read r.body = some b → P (serve b).st) : P (e.checked l r cls read result serve).st := by
  unfold Ev.checked
  split
  · split
    · rename_i b hb
      exact served b hb
    · exact k.terms h (e.refuseMalformed_terms l r result)
  · exact k.replied h l r _ _

/-- A request is taken: its service is carried out on the state without it, and the event ends. -/
theorem taken (k : Upholds c s P Q) (h : P s) (l : Link) (mine : Request → Bool) {serve : Request → Ev → Ev}
    (served : ∀ r, P (s.takeHead l).st → P (serve r (s.takeHead l)).st) : Q (takeRequest s l mine serve) := by
  unfold takeRequest
  split
  · split
    · exact k.weaken (k.finish (served _ (k.terms h (s.takeHead_terms l))))
    · exact k.weaken h
  · exact k.weaken h

/-- A request that configures at most what is its own. -/
theorem configures (k : Upholds c s P Q) (h : P s) {α : Type} (l : Link) (mine : Request → Bool) (cls : RequestClass)
    (read : List Byte → Option α) (result : Ev → Result) {serve : Request → Ev → α → Ev}
    (served : ∀ r (e : Ev) b, read r.body = some b → e.st.Configured c (serve r e b).st) :
    Q (takeRequest s l mine fun r e => e.checked l r cls read (result e) (serve r e)) :=
  k.taken h l mine fun r he => k.checked he l r cls read _ fun b hb => k.configured he (served r _ b hb)

/-- A request that leaves alone all that is timed or configured. -/
theorem plain (k : Upholds c s P Q) (h : P s) {α : Type} (l : Link) (mine : Request → Bool) (cls : RequestClass)
    (read : List Byte → Option α) (result : Ev → Result) {serve : Request → Ev → α → Ev}
    (served : ∀ r (e : Ev) b, e.st.SameTerms (serve r e b).st) :
    Q (takeRequest s l mine fun r e => e.checked l r cls read (result e) (serve r e)) :=
  k.configures h l mine cls read result fun r e b _ => .of_terms c (served r e b)

theorem forAgent (k : Upholds c s P Q) (h : P e.st) (l : Link) (r : Request) (x : Nat) (inRange : Bool) {serve : Agent → Ev}
    (served : P (serve (e.st.agent x)).st) : P (e.forAgent l r x inRange serve).st := by
  unfold Ev.forAgent
  dsimp only
  split
  · split
    · exact k.replied h l r _ _
    · exact served
  · exact k.replied h l r _ _

theorem forForce (k : Upholds c s P Q) (h : P e.st) (l : Link) (r : Request) (x : Nat) {serve : Agent → Ev}
    (served : P (serve (e.st.agent x)).st) : P (e.forForce l r x serve).st := by
  unfold Ev.forForce
  split
  · exact served
  · exact k.replied h l r _ _

theorem forCall (k : Upholds c s P Q) (h : P e.st) (l : Link) (r : Request) (y : Nat) {serve : Call → Ev}
    (served : ∀ d, e.st.call? y = some d → P (serve d).st) : P (e.forCall l r y serve).st := by
  unfold Ev.forCall
  split
  · exact k.replied h l r _ _
  · rename_i d hd
    split
    · refine served d ?_
      split at hd
      · exact hd
      · cases hd
    · exact k.replied h l r _ _

theorem forOffer (k : Upholds c s P Q) (h : P e.st) (l : Link) (r : Request) (b : OfferReplyBody)
    {serve : Agent → Nat → Call → CallOffer → Ev}
    (served : ∀ y d o, e.st.call? y = some d → d.offer = some o → P (serve (e.st.agent b.slot) y d o).st) :
    P (e.forOffer l r b serve).st := by
  unfold Ev.forOffer
  dsimp only
  split
  · split
    · exact k.replied h l r _ _
    · split
      · rename_i y d o hcur
        obtain ⟨hd, ho, _⟩ := Keeps.currentOffer_pair hcur
        exact served y d o hd ho
      · exact k.terms h (e.replyNotCurrent_terms l r _ _)
  · exact k.replied h l r _ _

theorem bank (k : Upholds c s P Q) (h : P s) (l : Link) (mine : Request → Bool) {serve : Request → Ev → Bank → Ev}
    (served : ∀ r (e : Ev) b, e.st.Configured c (serve r e b).st) :
    Q (takeRequest s l mine fun r e => e.forBank l r (serve r e)) :=
  k.configures h l mine .config readByte _ (serve := fun r e n => match bank? n with
    | some b => serve r e b
    | none => e.bankReply l r .noSuch) fun r e n _ => by
      split
      · exact served _ _ _
      · exact e.bankReply_configured l r _ _

theorem programme (k : Upholds c s P Q) (h : P s) (l : Link) (mine : Request → Bool)
    {serve : Request → Ev → Nat → Programme → Ev} (served : ∀ r (e : Ev) n p, e.st.Configured c (serve r e n p).st) :
    Q (takeRequest s l mine fun r e =>
      e.checked l r .config readProgrammeControl .bare fun b => e.forProgramme l r b (serve r e b.programme)) :=
  k.configures h l mine _ _ _ fun r e b _ => by
    unfold Ev.forProgramme
    split
    · exact served _ _ _ _
    · exact e.reply_configured l r _ _ _

theorem serveLogoutNow (k : Upholds c s P Q) (h : P e.st) (l : Link) (r : Request) (x : Nat) (a : Agent) :
    P (e.serveLogoutNow l r x a).st := by
  unfold Ev.serveLogoutNow
  split
  · exact k.replied h l r _ _
  · exact k.logoutNow x .force (k.replied h l r _ _)

theorem wrapEnd (k : Upholds c s P Q) (h : P e.st) (l : Link) (r : Request) (x : Nat) :
    P (e.serveWrapEnd l r x (e.st.agent x)).st := by
  unfold Ev.serveWrapEnd
  split
  · rename_i w _ hw
    exact k.agentAttempt x (k.endWrap .request (k.replied h l r _ _) (by rw [(e.reply_terms l r _ _).agent, hw]))
  · exact k.replied h l r _ _

theorem serveAgentRead (k : Upholds c s P Q) (h : P e.st) (l : Link) (r : Request) (b : AgentReadBody) :
    P (e.serveAgentRead l r b).st := by
  unfold Ev.serveAgentRead
  dsimp only
  split
  · split
    · exact k.agentRead b.slot (k.replied h l r _ _)
    · exact k.replied h l r _ _
  · exact k.replied h l r _ _

/-! ## The playout clock -/

theorem takeBlockBoundary (k : Upholds c s P Q) (h : P u) (hc : c = .blockBoundary ∨ c = .playoutFrame) :
    P u.takeBlockBoundary := by
  unfold State.takeBlockBoundary
  split
  · refine k.finish (k.grants .b (k.grants .a (k.configured h ?_)))
    exact (u.unmarked_configured hc).then_terms
      ((State.boundaryChannels_terms _ .a).trans (State.boundaryChannels_terms _ .b))
  · exact h

theorem takePhraseEnd (k : Upholds c s P Q) (h : P u) (w : Highway) (ts : Nat) : P (u.takePhraseEnd w ts) := by
  unfold State.takePhraseEnd
  dsimp only
  split
  · split
    · split
      · exact h
      · split
        · exact h
        · exact k.finish (k.endPhrase (e := u.event) w ts _ _ _ h)
    · exact h
  · exact h

theorem takePlayoutEvents (k : Upholds c s P Q) (h : P u) (hc : c = .blockBoundary ∨ c = .playoutFrame) :
    P u.takePlayoutEvents :=
  State.takePlayoutEvents_keeps (P := P) (fun _ h => k.takeBlockBoundary h hc) (fun _ w ts h => k.takePhraseEnd h w ts) h

/-! ## Every command -/

/-- What a command answers, where its answer is given. -/
theorem next (h : Q s) : ∃ t, (.next s : Host.Outcome State Fault Refusal) = .next t ∧ Q t := ⟨s, rfl, h⟩

/-- Every command goes on with a state of which the promise holds. -/
theorem exec (k : Upholds c s P Q) (h : P s) : ∃ t, Machine.exec c s = .next t ∧ Q t := by
  cases c with
  | callEnter l =>
    refine next (k.taken h l _ fun r he => ?_)
    split
    · exact k.replied he l r _ _
    · refine k.checked he l r _ _ _ fun b _ => ?_
      unfold Ev.serveCallEnter
      split
      · exact k.replied he l r _ _
      · rename_i y hy
        split
        · exact k.replied he l r _ _
        · split
          · exact k.replied he l r _ _
          · split
            · exact k.replied he l r _ _
            · exact k.replied he l r _ _
            · rename_i p hp
              exact k.enter l r b p he (State.freeSlot_free hy)
                (State.arrivalChain_redirects _ _ _ _ _ _ (by omega) (by simp) p hp)
  | callWithdraw l =>
    exact next (k.taken h l _ fun r he => k.checked he l r _ _ _ fun y _ => k.forCall he l r y fun d hd =>
      k.withdraw l r he hd)
  | callRelease l =>
    exact next (k.taken h l _ fun r he => k.checked he l r _ _ _ fun y _ => k.forCall he l r y fun d hd =>
      k.release l r he hd)
  | agentLogin l => exact next (k.taken h l _ fun r he => k.checked he l r _ _ _ fun b hb => k.login l r he hb)
  | agentReady l =>
    exact next (k.taken h l _ fun r he => k.checked he l r _ _ _ fun x _ => k.forAgent he l r x true (k.ready l r x he))
  | agentNotReady l =>
    exact next (k.taken h l _ fun r he => k.checked he l r _ _ _ fun b _ => k.forAgent he l r b.slot true
      (k.notReady l r b.slot _ _ he))
  | agentLogout l =>
    exact next (k.taken h l _ fun r he => k.checked he l r _ _ _ fun x _ => k.forAgent he l r x true
      (k.logout l r x _ he))
  | agentUpdate l =>
    exact next (k.taken h l _ fun r he => k.checked he l r _ _ _ fun b hb => k.forAgent he l r b.slot _
      (k.update l r he hb))
  | forceLogout l =>
    exact next (k.taken h l _ fun r he => k.checked he l r _ _ _ fun b _ => k.forForce he l r b.slot
      (k.logout l r b.slot _ he))
  | forceNotReady l =>
    exact next (k.taken h l _ fun r he => k.checked he l r _ _ _ fun b _ => k.forForce he l r b.slot
      (k.notReady l r b.slot _ _ he))
  | forceLogoutNow l =>
    exact next (k.taken h l _ fun r he => k.checked he l r _ _ _ fun b _ => k.forForce he l r b.slot
      (k.serveLogoutNow he l r b.slot _))
  | wrapEnd l =>
    exact next (k.taken h l _ fun r he => k.checked he l r _ _ _ fun x _ => k.forAgent he l r x true
      (k.wrapEnd he l r x))
  | wrapExtend l =>
    exact next (k.taken h l _ fun r he => k.checked he l r _ _ _ fun b _ => k.forAgent he l r b.slot true
      (k.extend l r b he))
  | accept l =>
    refine next (k.taken h l _ fun r he => k.checked he l r _ _ _ fun b _ => k.forOffer he l r b fun y d o hd ho => ?_)
    have m := (s.takeHead l).reply_terms l r .done
      (.accepted b.slot b.token .busy ((s.takeHead l).st.agent b.slot).pending y d.owner)
    have connected := k.connect (x := b.slot) o.token (k.terms he m) (by rw [m.call, hd])
    rwa [m.agent] at connected
  | decline l =>
    refine next (k.taken h l _ fun r he => k.checked he l r _ _ _ fun b _ => k.forOffer he l r b fun y d o hd ho => ?_)
    have m := fun x => (s.takeHead l).reply_terms l r .done x
    exact k.failOffer _ _ (k.terms he (m _)) (by rw [(m _).call, hd]) ho
  | queueSet l => exact next (k.taken h l _ fun r he => k.checked he l r _ _ _ fun b hb => k.queueSet l r b rfl hb he)
  | bankOpen l => exact next (k.bank h l _ fun r e b => e.serveBankOpen_configured l l r b)
  | bankClose l => exact next (k.bank h l _ fun r e b => e.serveBankClose_configured l l r b)
  | bankActivate l => exact next (k.bank h l _ fun r e b => e.serveBankActivate_configured l l r b)
  | patternWrite l =>
    exact next (k.configures h l _ _ _ _ fun r e b hb =>
      e.servePatternWrite_configured l l r (readPatternWrite_duration hb))
  | segmentSet l => exact next (k.configures h l _ _ _ _ fun r e b _ => e.serveSegmentSet_configured l l r b)
  | sampleWrite l => exact next (k.configures h l _ _ _ _ fun r e b _ => e.serveSampleWrite_configured l l r b)
  | programmeSet l =>
    exact next (k.configures h l _ _ _ _ fun r e b _ => e.serveProgrammeSet_configured l r ⟨l, by simp⟩ b)
  | run l => exact next (k.programme h l _ fun r e n p => e.serveRun_configured l r ⟨l, by simp⟩ n p)
  | pause l => exact next (k.programme h l _ fun r e n p => e.servePause_configured l r ⟨l, by simp⟩ n p)
  | stop l => exact next (k.programme h l _ fun r e n p => e.serveStop_configured l r ⟨l, by simp⟩ n p)
  | vocabularySet l => exact next (k.configures h l _ _ _ _ fun r e b _ => e.serveVocabulary_configured l l r b)
  | treatmentSet l =>
    exact next (k.configures h l _ _ _ _ fun r e b hb =>
      e.serveTreatmentSet_configured l l r (readTreatmentSet_deferLimit hb))
  | portSet l => exact next (k.configures h l _ _ _ _ fun r e b _ => e.servePortSet_configured l l r b)
  | engineReset l => exact next (k.taken h l _ fun r he => k.checked he l r _ _ _ fun _ _ => k.engineReset l r rfl he)
  | statsRead l => exact next (k.plain h l _ _ _ _ fun r e b => e.serveStatsRead_terms l r b)
  | statsClear l => exact next (k.plain h l _ _ _ _ fun r e b => e.serveStatsClear_terms l r b)
  | queueRead l => exact next (k.plain h l _ _ _ _ fun r e b => e.serveQueueRead_terms l r b)
  | callRead l => exact next (k.plain h l _ _ _ _ fun r e b => e.serveCallRead_terms l r b)
  | agentRead l => exact next (k.taken h l _ fun r he => k.checked he l r _ _ _ fun b _ => k.serveAgentRead he l r b)
  | portRead l => exact next (k.plain h l _ _ _ _ fun r e named => e.servePortRead_terms l r named)
  | unknownKindRequest l =>
    exact next (k.taken h l _ fun r he => k.terms he
      ((Ev.replyWithKind_terms _ l r _ _ _).trans (Ev.raiseFault_terms _ _ _ _)))
  | frameReceived l bytes =>
    refine next (k.weaken ?_)
    split
    · exact k.finish (k.terms h (s.event.receive_terms _ _ _))
    · exact h
  | transmissionComplete l =>
    refine next (k.weaken ?_)
    split
    · rename_i x rest _ _
      have sent := k.terms h (s.event.updLink_terms l (f := fun r => { r with outbound := rest }) fun _ => rfl)
      refine k.finish ?_
      split
      · rw [Ev.markFreed_st]; exact sent
      · exact sent
    · exact h
  | linkDown l =>
    refine next (k.weaken ?_)
    split
    · have lost := k.configured h (s.setLink_configured (c := .linkDown l) l (s.link l).lost (fun _ => ⟨rfl, rfl⟩)
        fun hc => absurd rfl (hc l).2)
      refine k.finish ?_
      split
      · exact k.loseSwitchingLink _ _ lost
      · exact lost
    · exact h
  | linkUp l =>
    refine next (k.weaken ?_)
    split
    · exact h
    · have regained := k.configured h (s.setLink_configured (c := .linkUp l) l (s.link l).regained (fun _ => ⟨rfl, rfl⟩)
        fun hc => absurd rfl (hc l).1)
      dsimp only
      split
      · exact k.freeHighway _ regained
      · exact regained
  | powerOnReset => exact next (k.reset rfl)
  | ringExpiry y => exact next (k.weaken (k.ringExpiry y h))
  | promotionDeadline y => exact next (k.weaken (k.promotion y h))
  | stepDeadline y => exact next (k.weaken (k.stepDeadline y h))
  | deferralExpiry y => exact next (k.weaken (k.deferralExpiry y h))
  | wrapDeadline x => exact next (k.weaken (k.wrapDeadline x h))
  | penaltyExpiry x => exact next (k.weaken (k.penaltyExpiry x h))
  | blockBoundary => exact next (k.weaken (k.takeBlockBoundary h (.inl rfl)))
  | phraseEnd w ts => exact next (k.weaken (k.takePhraseEnd h w ts))
  | pendingExitCompletion l =>
    refine next (k.weaken ?_)
    split
    · split
      · exact k.finish (k.completeExit (e := s.event) l _ h)
      · exact h
    · exact h
  | heldSourceQueued l =>
    refine next (k.weaken ?_)
    split
    · exact k.finish (k.takeHeldListen (e := s.event) l _ h)
    · exact h
  | heldReturnQueued l =>
    refine next (k.weaken ?_)
    split
    · exact k.finish (k.takeHeldListen (e := s.event) l _ h)
    · exact h
  | deferralGrant w =>
    refine next (k.weaken ?_)
    split
    · split
      · rename_i d hd
        exact k.finish (k.grantHead (e := s.event) w h hd)
      · exact h
    · exact h
  | freedSpaceAttempts l =>
    refine next (k.weaken ?_)
    split
    · split
      · exact k.finish (k.attemptStage (e := s.event) l h)
      · exact h
    · exact h
  | tick => exact next (k.tick rfl h)
  | playoutFrame =>
    exact next (k.weaken (k.configured (k.takePlayoutEvents h (.inr rfl)) (State.frame_configured _)))

end Upholds

end

end Sys2Proof.Machine
end

section
/-!
PROOF. Only its own request changes each part of the configuration (O16): what a command does beside its request's own writes is
work of the engine and replies, which configure nothing (`State.Worked`).
-/
namespace Sys2Proof.Machine

open Sys2Proof

/-- The settings, the queues' configurations, and what is set in the links are as they were; redirect counts stay within 7. -/
structure State.Worked (s t : State) : Prop where
  settings : t.settings = s.settings
  config : ∀ q, (t.queue q).config = (s.queue q).config
  link : ∀ k, (t.link k).terms = (s.link k).terms
  redirects : s.RedirectsBounded → t.RedirectsBounded

theorem Engine.worked {s t : State} (h : Engine s t) : s.Worked t := ⟨h.settings, h.config, h.terms, h.redirects⟩

theorem State.SameTerms.worked {s t : State} (h : s.SameTerms t) : s.Worked t :=
  ⟨h.settings, h.config, h.link, State.redirects_of_call? h.call⟩

namespace State.Worked

variable {s t u : State} {e : Ev} {l : Link} {r : Request}

theorem refl (s : State) : s.Worked s := (Engine.refl s).worked

theorem trans (h : s.Worked t) (k : t.Worked u) : s.Worked u :=
  ⟨k.settings.trans h.settings, fun q => (k.config q).trans (h.config q), fun l => (k.link l).trans (h.link l),
    fun hs => k.redirects (h.redirects hs)⟩

theorem works (h : s.Worked t) (k : Engine t u) : s.Worked u := h.trans k.worked

theorem onlyOwn (c : Instr) (h : s.Worked t) : s.OnlyOwn c t := .of_settings c h.settings h.link

theorem replied (e : Ev) (l : Link) (r : Request) (status : Status) (result : Result) :
    e.st.Worked (e.reply l r status result).st := (e.reply_terms l r status result).worked

/-! ## The services -/

theorem enterCall (e : Ev) (l : Link) (r : Request) (b : CallEnterBody) (y : Nat) {p : Placement} (hp : p.redirects ≤ 7) :
    e.st.Worked (e.enterCall l r b y p).st := by
  unfold Ev.enterCall
  dsimp only
  generalize hc : newCall l b p (e.st.queue p.queue).config e.st.tick = c
  have hr : c.redirects ≤ 7 := by rw [← hc]; exact hp
  have joined : Engine e.st ((e.upd fun s => s.setCall y c).joinOrder y c).st :=
    (e.st.setCall_engine y c fun _ => hr).trans ((e.upd fun s => s.setCall y c).joinOrder_engine y c)
  have counted := joined.trans ((Ev.count_engine _ p.queue .offered).trans (Ev.countPassed_engine _ p.passed))
  refine works (works (works (works (trans counted.worked ?_) (Ev.startTreatment_engine _ y c .none none fun _ => hr))
    (Ev.treatmentEvent_engine _ y)) (Ev.affinityOffer_engine _ y p.queue)) (Ev.queueAttempts_engine _ p.queue)
  exact replied _ l r _ _

theorem serveWithdraw (e : Ev) (l : Link) (r : Request) (y : Nat) (c : Call) : e.st.Worked (e.serveWithdraw l r y c).st := by
  unfold Ev.serveWithdraw
  split
  · exact replied _ _ _ _ _
  · exact (replied _ _ _ _ _).works (Ev.removeCall_engine _ _ _ _)
  · dsimp only
    split
    · exact (replied _ _ _ _ _).works (Ev.removeCall_engine _ _ _ _)
    · exact (((replied _ _ _ _ _).works (Ev.withdrawFromCall_engine _ _ _ _ _)).works (Ev.removeCall_engine _ _ _ _)).works
        (Ev.agentAttempt_engine _ _)

theorem serveRelease (e : Ev) (l : Link) (r : Request) (y : Nat) (c : Call) : e.st.Worked (e.serveRelease l r y c).st := by
  have freed : e.st.Worked ((e.reply l r .done .bare).upd fun s => s.freeCall y).st :=
    (replied _ _ _ _ _).works (State.freeCall_engine _ y)
  unfold Ev.serveRelease
  split
  · exact replied _ _ _ _ _
  · exact replied _ _ _ _ _
  · dsimp only
    split
    · exact (freed.works (Ev.startWrap_engine _ _ _ _ _)).works (Ev.agentAttempt_engine _ _)
    · exact freed

theorem serveLogin (e : Ev) (l : Link) (r : Request) (b : LoginBody) : e.st.Worked (e.serveLogin l r b).st := by
  unfold Ev.serveLogin
  dsimp only
  split
  · split
    · exact replied _ _ _ _ _
    · split
      · exact (replied _ _ _ _ _).works (Ev.putAgent_engine _ _ _ _ (by simp [Agent.login]) (by simp [Agent.login]))
      · exact replied _ _ _ _ _
  · exact replied _ _ _ _ _

theorem serveReady (e : Ev) (l : Link) (r : Request) (x : Nat) :
    e.st.Worked (e.serveReady l r x (e.st.agent x)).st := by
  have joined : (e.st.agent x).state = .notReady ∨ (e.st.agent x).state = .inferredAbsent →
      ((e.st.agent x).ready e.st.tick).state ≠ .loggedOut := fun hs => by
    unfold Agent.ready
    rcases hs with hs | hs <;> simp [hs, Agent.madeAvailable]
  have joins := fun hs => ((replied e l r .done (((e.st.agent x).ready e.st.tick).result x)).works
    (Ev.putAgentAtTail_engine _ x _ .request (joined hs))).works (Ev.agentAttempt_engine _ x)
  have kept := fun hs => (replied e l r .done (((e.st.agent x).ready e.st.tick).result x)).works
    (State.setAgent_engine _ x ((e.st.agent x).ready e.st.tick)
      (by rw [(e.reply_terms l r _ _).agent]; exact Agent.ready_state _ hs))
  unfold Ev.serveReady
  dsimp only
  split
  · exact replied _ _ _ _ _
  · rename_i hs; exact joins (.inl hs)
  · rename_i hs; exact joins (.inr hs)
  · exact replied _ _ _ _ _
  · rename_i hs; exact kept (.inl hs)
  · rename_i hs; exact kept (.inr (.inl hs))
  · rename_i hs; exact kept (.inr (.inr hs))

theorem serveNotReady (e : Ev) (l : Link) (r : Request) (x reason : Nat) (cause : Cause) :
    e.st.Worked (e.serveNotReady l r x reason cause (e.st.agent x)).st := by
  unfold Ev.serveNotReady
  dsimp only
  split
  · exact replied _ _ _ _ _
  · rename_i hs
    refine (replied _ _ _ _ _).works (Ev.putAgent_engine _ x _ _ ?_ ?_)
    all_goals rw [Agent.notReady_state]
    · split
      · simp
      · exact hs
    · rw [(e.reply_terms l r _ _).agent]
      split
      · simp
      · exact id

theorem serveLogout (e : Ev) (l : Link) (r : Request) (x : Nat) (cause : Cause) :
    e.st.Worked (e.serveLogout l r x cause (e.st.agent x)).st := by
  have out : e.st.Worked (e.replyAndLogout l r x cause).st := (replied _ _ _ _ _).works (Ev.logoutNow_engine _ x cause)
  have pended := fun result => (replied e l r .done result).works (State.setAgent_engine _ x
    { e.st.agent x with pending := .logout } (by rw [(e.reply_terms l r _ _).agent]))
  unfold Ev.serveLogout
  split
  · exact replied _ _ _ _ _
  · exact out
  · exact out
  · exact out
  · exact out
  · exact pended _
  · exact pended _

theorem serveUpdate (e : Ev) (l : Link) (r : Request) (b : UpdateBody) :
    e.st.Worked (e.serveUpdate l r b (e.st.agent b.slot)).st := by
  unfold Ev.serveUpdate
  dsimp only
  split
  · exact replied _ _ _ _ _
  · rename_i hs
    have put := fun result => (replied e l r .done result).works (Ev.putAgent_engine _ b.slot ((e.st.agent b.slot).update b)
      .request (by simpa [Agent.update] using hs) (by rw [(e.reply_terms l r _ _).agent]; exact id))
    split
    · exact (put _).works (Ev.agentAttempt_engine _ _)
    · exact put _

theorem serveWrapExtend (e : Ev) (l : Link) (r : Request) (b : ExtendBody) :
    e.st.Worked (e.serveWrapExtend l r b (e.st.agent b.slot)).st := by
  unfold Ev.serveWrapExtend
  split
  · exact (replied _ _ _ _ _).works (State.setAgent_engine _ b.slot _ (by rw [(e.reply_terms l r _ _).agent]))
  · exact replied _ _ _ _ _

theorem connect (e : Ev) (y : Nat) (c : Call) (x : Nat) (a : Agent) (token : Token) :
    e.st.Worked (e.connect y c x a token).st := by
  have pushed : ∀ (d : Ev) (p : Prop) [Decidable p] (f : State → List RecentEntry), e.st.Worked d.st →
      e.st.Worked (if p then d.upd fun s => { s with recent := f s } else d).st := fun d p _ f hd => by
    split
    · exact hd.trans (State.SameTerms.setRecent d.st _).worked
    · exact hd
  unfold Ev.connect
  dsimp only
  have left := (e.leaveOrder_engine y c).worked
  generalize e.leaveOrder y c = e1 at left ⊢
  have called := left.works (e1.st.updCall_engine y (fun c =>
    { c with state := .connected, offer := none, agent := some x, connectTick := some e.st.tick }) fun _ => rfl)
  rw [← Ev.upd_st e1 fun s => s.updCall y fun c =>
    { c with state := .connected, offer := none, agent := some x, connectTick := some e.st.tick }] at called
  generalize (e1.upd fun s => s.updCall y fun c =>
    { c with state := .connected, offer := none, agent := some x, connectTick := some e.st.tick }) = e2 at called ⊢
  have busy := called.works (e2.putAgent_engine x
    { a with state := .busy, call := some y, offer := none, miss := 0, lastOutcome := some .accepted } .request
    (by simp) (by simp))
  generalize e2.putAgent x _ .request = e3 at busy ⊢
  have answered : ∀ n, e.st.Worked (((e3.useReservation c.owner n).releaseHome x).count c.queue .answered).st := fun n =>
    ((busy.works (e3.useReservation_engine c.owner n)).works (Ev.releaseHome_engine _ x)).works (Ev.count_engine _ _ _)
  have inService : ∀ (d : Ev) (p : Prop) [Decidable p], e.st.Worked d.st →
      e.st.Worked (if p then d.count c.queue .answeredInService else d).st := fun d p _ hd => by
    split
    · exact hd.works (d.count_engine _ _)
    · exact hd
  split
  · exact inService _ _ (answered _)
  · exact pushed _ _ _ (inService _ _ (answered _))

theorem failOffer (e : Ev) (y : Nat) (c : Call) (o : CallOffer) (out : OfferOutcome) (cause : Cause) :
    e.st.Worked (e.failOffer y c o out cause).st := by
  unfold Ev.failOffer
  dsimp only
  have ended : Engine e.st (e.upd fun s => s.endOffer y o.agent out).st := State.endOffer_engine _ y o.agent out
  generalize (e.upd fun s => s.endOffer y o.agent out) = e1 at ended ⊢
  have told : Engine e.st (if out = .expired then e1.cancelOffer o y .ringExpired else e1.releaseHome o.agent).st := by
    split
    · exact ended.trans (Ev.cancelOffer_engine _ _ _ _)
    · exact ended.trans (Ev.releaseHome_engine _ _)
  have charged := (told.trans (Ev.releaseReservation_engine _ c.owner)).trans (Ev.chargeRedirect_engine _ y)
  have settled := (charged.trans (Ev.count_engine _ c.queue .rona)).trans (Ev.settleFailed_engine _ o.agent cause)
  exact (settled.trans (Ev.afterOffer_engine _ y c.queue o.agent)).worked

/-! ## The expiries -/

theorem takeRingExpiry (s : State) (y : Nat) : s.Worked (s.takeRingExpiry y) := by
  unfold State.takeRingExpiry
  split
  · exact refl s
  · split
    · exact refl s
    · split
      · exact (failOffer s.event y _ _ _ _).works (Ev.finish_engine _)
      · exact refl s

theorem takePromotionDeadline (s : State) (y : Nat) : s.Worked (s.takePromotionDeadline y) := by
  unfold State.takePromotionDeadline
  split
  · exact refl s
  · rename_i c hc
    split
    · exact refl s
    · split
      · exact (s.promote_engine y c _ fun h => h y c hc).worked
      · exact refl s

theorem takeStepDeadline (s : State) (y : Nat) : s.Worked (s.takeStepDeadline y) := by
  unfold State.takeStepDeadline
  split
  · exact refl s
  · split
    · exact refl s
    · split
      · refine works (works ?_ (Ev.completePhrase_engine _ y)) (Ev.finish_engine _)
        exact (s.updTreatment_engine y _).worked
      · exact refl s

theorem takeDeferralExpiry (s : State) (y : Nat) : s.Worked (s.takeDeferralExpiry y) := by
  unfold State.takeDeferralExpiry
  split
  · exact refl s
  · rename_i c hc
    split
    · exact refl s
    · rename_i w hw
      split
      · exact refl s
      · split
        · exact ((((s.leaveDeferral_engine w y).worked).works
            (Ev.count_engine (s.event.upd fun s => s.leaveDeferral w y) c.queue .announceSkipped)).works
            (Ev.completePhrase_engine _ y)).works (Ev.finish_engine _)
        · exact refl s

theorem takeWrapDeadline (s : State) (x : Nat) : s.Worked (s.takeWrapDeadline x) := by
  unfold State.takeWrapDeadline
  split
  · exact refl s
  · split
    · exact (((s.event.endWrap_engine x _ .expiry).worked).works (Ev.agentAttempt_engine _ x)).works (Ev.finish_engine _)
    · exact refl s

theorem takePenaltyExpiry (s : State) (x : Nat) : s.Worked (s.takePenaltyExpiry x) := by
  unfold State.takePenaltyExpiry
  split
  · exact refl s
  · split
    · exact (((s.event.putAgentAtTail_engine x _ .expiry
        (by simp [Agent.penaltyOver, Agent.madeAvailable])).worked).works (Ev.agentAttempt_engine _ x)).works (Ev.finish_engine _)
    · exact refl s

theorem takeExpiries (s : State) : s.Worked s.takeExpiries :=
  State.takeExpiries_keeps (P := fun u => s.Worked u) (fun u y h => h.trans (takeRingExpiry u y))
    (fun u y h => h.trans (takePromotionDeadline u y)) (fun u y h => h.trans (takeStepDeadline u y))
    (fun u y h => h.trans (takeDeferralExpiry u y)) (fun u x h => h.trans (takeWrapDeadline u x))
    (fun u x h => h.trans (takePenaltyExpiry u x)) (refl s)

/-! ## ENGINE_RESET -/

theorem restartAnnounced (e : Ev) (l : Link) (r : Request) : e.st.engineReset.Worked (e.serveEngineReset l r).st := by
  have announce : ∀ (ls : List Link) (d : Ev), d.st.Worked (ls.foldl Ev.announceRestart d).st := by
    intro ls
    induction ls with
    | nil => exact fun d => refl _
    | cons l ls ih => exact fun d => (Ev.queueNotice_terms d _ _).worked.trans (ih _)
  exact (replied (e.upd fun s => s.engineReset) l r _ _).trans (announce _ _)

end State.Worked

end Sys2Proof.Machine
end

section
/-!
PROOF. Every command, with what it does beside its own configuration (`Upholds.of_worked`): only its own request changes each part
of the configuration (O16).
-/
namespace Sys2Proof.Machine

open Sys2Proof

section
variable {c : Instr} {s u v : State} {P Q : State → Prop}

/-- A promise kept by the work of the engine and by the command's own configuration is kept by the command. -/
theorem Upholds.of_worked (weaken : ∀ {u}, P u → Q u) (worked : ∀ {u v}, P u → u.Worked v → P v)
    (configured : ∀ {u v}, P u → u.Configured c v → P v)
    (tick : c = .tick → ∀ {u : State}, P u → Q { u with tick := u.tick + 1 })
    (reset : c = .powerOnReset → Q { State.reset with pending := s.pending })
    (queueSet : ∀ l r b, c = .queueSet l → readQueueSet r.body = some b → P (s.takeHead l).st →
      P ((s.takeHead l).serveQueueSet l r b).st)
    (engineReset : ∀ l, c = .engineReset l → P (s.takeHead l).st → P (s.takeHead l).st.engineReset) : Upholds c s P Q where
  weaken := weaken
  tick hc h := tick hc (worked h (.takeExpiries s))
  reset := reset
  configured := configured
  freeHighway w h := worked h (State.freeHighway_engine _ w).worked
  queueSet := queueSet
  engineReset l r hc h := worked (engineReset l hc h) (.restartAnnounced _ l r)
  finish h := worked h (Ev.finish_engine _).worked
  enter l r b _ h _ hp := worked h (.enterCall _ l r b _ hp)
  withdraw l r h _ := worked h (.serveWithdraw _ l r _ _)
  release l r h _ := worked h (.serveRelease _ l r _ _)
  login l r h _ := worked h (.serveLogin _ l r _)
  ready l r x h := worked h (.serveReady _ l r x)
  notReady l r x reason cause h := worked h (.serveNotReady _ l r x reason cause)
  logout l r x cause h := worked h (.serveLogout _ l r x cause)
  logoutNow x cause h := worked h (Ev.logoutNow_engine _ x cause).worked
  update l r h _ := worked h (.serveUpdate _ l r _)
  extend l r b h := worked h (.serveWrapExtend _ l r b)
  endWrap cause h _ := worked h (Ev.endWrap_engine _ _ _ cause).worked
  connect token h _ := worked h (.connect _ _ _ _ _ token)
  failOffer out cause h _ _ := worked h (.failOffer _ _ _ _ out cause)
  agentRead {u} x h := worked h (u.setAgent_engine x (u.agent x).clearAccumulators rfl).worked
  agentAttempt x h := worked h (Ev.agentAttempt_engine _ x).worked
  ringExpiry y h := worked h (.takeRingExpiry _ y)
  promotion y h := worked h (.takePromotionDeadline _ y)
  stepDeadline y h := worked h (.takeStepDeadline _ y)
  deferralExpiry y h := worked h (.takeDeferralExpiry _ y)
  wrapDeadline x h := worked h (.takeWrapDeadline _ x)
  penaltyExpiry x h := worked h (.takePenaltyExpiry _ x)
  grantHead w h hd := worked h (Ev.grantHead_engine _ w _ hd).worked
  grants w h := worked h (Ev.grants_engine _ w).worked
  endPhrase w ts y d t h := worked h (Ev.endPhrase_engine _ w ts y d t).worked
  completeExit l y h := worked h (Ev.completeExit_engine _ l y).worked
  takeHeldListen l y h := worked h (Ev.takeHeldListen_engine _ l y).worked
  attemptStage l h := worked h (Ev.attemptStage_engine _ l).worked
  loseSwitchingLink l w h := worked h (Ev.loseSwitchingLink_engine _ l w).worked

/-! ## QUEUE_SET and the two resets -/

/-- What a QUEUE_SET does beside storing the configuration is work of the engine. -/
theorem Ev.applyQueueSet_engine (e : Ev) (b : QueueSetBody) (old new : QueueConfig) :
    Engine (e.st.setQueue b.queue { e.st.queue b.queue with config := new }) (e.applyQueueSet b old new).st := by
  have reaged : ∀ (ys : List Nat) (s : State), Engine s (ys.foldl (fun s y =>
      s.updCall y fun c => c.reaged old.agingInterval new.agingInterval s.tick) s) := by
    intro ys
    induction ys with
    | nil => exact fun s => .refl s
    | cons y ys ih =>
      exact fun s => (s.updCall_engine y _ fun c => Call.reaged_redirects c _ _ _).trans (ih _)
  have optional : ∀ (p : Bool) (d d' : Ev), Engine d.st d'.st → Engine d.st (if p = true then d' else d).st :=
    fun p d d' h => by
      split
      · exact h
      · exact .refl _
  unfold Ev.applyQueueSet
  dsimp only
  show Engine (e.upd fun s => s.setQueue b.queue { s.queue b.queue with config := new }).st _
  generalize (e.upd fun s => s.setQueue b.queue { s.queue b.queue with config := new }) = d
  refine Engine.trans (Engine.trans (Engine.trans (optional _ _ _ ?weight) (optional _ _ _ ?aging)) (optional _ _ _ ?closed))
    (optional _ _ _ ?reseed)
  case weight => exact State.setQueue_engine _ _ _ (by rfl)
  case aging => exact reaged _ _
  case closed => exact (Ev.evalClosing_engine _ _).trans (Ev.evalOpening_engine _ _)
  case reseed => exact State.setQueue_engine _ _ _ (by rfl)

/-- A QUEUE_SET answers, and is then at most the writing of a configuration followed by work of the engine. -/
theorem Ev.serveQueueSet_worked (e : Ev) (l : Link) (r : Request) (b : QueueSetBody) :
    ∃ v, e.st.SameTerms v ∧ (v.Worked (e.serveQueueSet l r b).st
      ∨ ∃ new, (v.setQueue b.queue { v.queue b.queue with config := new }).Worked (e.serveQueueSet l r b).st) := by
  unfold Ev.serveQueueSet
  split
  · refine ⟨_, e.reply_terms l r .done (.queueConfig ((e.st.queue b.queue).config.set b)),
      .inr ⟨(e.st.queue b.queue).config.set b, ?_⟩⟩
    have applied := (Ev.applyQueueSet_engine (e.reply l r .done (.queueConfig ((e.st.queue b.queue).config.set b))) b
      (e.st.queue b.queue).config ((e.st.queue b.queue).config.set b)).worked
    dsimp only
    split
    · exact applied.works (Ev.queueAttempts_engine _ _)
    · exact applied
  · exact ⟨_, e.reply_terms l r .noSuch .bare, .inl (.refl _)⟩

/-- A table with each entry changed, without those that hold the value of an unlisted key. -/
theorem Assoc.get_mapped {α : Type} [DecidableEq α] {d : α} {f : α → α} (hd : f d = d) (k : Nat) {t : List (Nat × α)}
    (rising : Assoc.rising t = true) :
    Assoc.get d k ((t.map fun e => (e.1, f e.2)).filter fun e => decide (e.2 ≠ d)) = f (Assoc.get d k t) := by
  induction t with
  | nil => exact hd.symm
  | cons e t ih =>
    obtain ⟨k', v⟩ := e
    obtain ⟨below, rising⟩ := Assoc.rising_cons.1 rising
    have ih := ih rising
    by_cases hk : k' = k
    · subst hk
      have absent : Assoc.find k' t = none := by
        cases hf : Assoc.find k' t with
        | none => rfl
        | some w => exact absurd (below _ (Assoc.mem_of_find hf)) (lt_irrefl _)
      by_cases hv : f v = d
      · simpa [Assoc.get, Assoc.find, absent, hd, hv] using ih
      · simp [Assoc.get, Assoc.find, hv]
    · by_cases hv : f v = d
      · simpa [Assoc.get, Assoc.find, hk, hv] using ih
      · simpa [Assoc.get, Assoc.find, hk, hv] using ih

theorem State.engineReset_queue (h : Assoc.rising s.queues = true) (q : Nat) :
    s.engineReset.queue q = (s.queue q).config.emptyQueue :=
  Assoc.get_mapped (d := Queue.powerOn) (f := fun r => r.config.emptyQueue) rfl q h

theorem State.engineReset_settings (s : State) : s.engineReset.settings = s.settings := rfl

theorem State.engineReset_link_terms (s : State) (k : Link) : (s.engineReset.link k).terms = (s.link k).terms := by
  cases k <;> rfl

/-! ## The configuration -/

/-- From `s` to `t`, the command `c` has changed no part of the configuration and no clock that is another command's. -/
structure State.OnlyOwnConfig (c : Instr) (s t : State) : Prop where
  own : s.OnlyOwn c t
  config : s.TablesRising → (∀ l, c ≠ .queueSet l) → ∀ q, (t.queue q).config = (s.queue q).config
  tick : c ≠ .tick → t.tick = s.tick

theorem State.OnlyOwnConfig.worked (h : s.OnlyOwnConfig c u) (k : u.Worked v) : s.OnlyOwnConfig c v :=
  ⟨h.own.trans (k.onlyOwn c), fun hs hc q => (k.config q).trans (h.config hs hc q),
    fun hc => (congrArg Settings.tick k.settings).trans (h.tick hc)⟩

theorem State.OnlyOwnConfig.configured (h : s.OnlyOwnConfig c u) (k : u.Configured c v) : s.OnlyOwnConfig c v :=
  ⟨h.own.trans k.own, fun hs hc q => (congrArg Prod.fst (k.queue q)).trans (h.config hs hc q),
    fun hc => k.tick.trans (h.tick hc)⟩

theorem upholds_onlyOwnConfig (hc : c ≠ .powerOnReset) : Upholds c s (s.OnlyOwnConfig c) (s.OnlyOwnConfig c) := by
  refine .of_worked id (fun h k => h.worked k) (fun h k => h.configured k) (fun ht u h => ⟨?_, h.config, fun hn => absurd ht hn⟩)
    (fun h => absurd h hc) (fun l r b hq _ h => ?_) fun l hl h => ⟨?_, fun hs _ q => ?_, h.tick⟩
  · subst ht
    exact h.own.trans { State.OnlyOwn.refl .tick u with }
  · obtain ⟨v, same, k | ⟨new, k⟩⟩ := (s.takeHead l).serveQueueSet_worked l r b
    · exact (h.worked same.worked).worked k
    · have answered := h.worked same.worked
      exact ⟨(answered.own.trans (.of_settings c (by simp) (by simp))).trans (k.onlyOwn c), fun _ hn => absurd hq (hn l),
        fun ht => (congrArg Settings.tick k.settings).trans (answered.tick ht)⟩
  · exact h.own.trans (.of_settings c (State.engineReset_settings _) (State.engineReset_link_terms _))
  · have rising : Assoc.rising (s.takeHead l).st.queues = true := by
      rw [State.takeHead_st, State.setLink_queues]
      exact hs.queues
    rw [State.engineReset_queue rising]
    exact congrArg Prod.fst ((s.takeHead_terms l).queue q)

end

/-- Settles O16: what a command does beside its request's own writes is work of the engine and replies, and every command is
gone through once. -/
theorem onlyItsRequestsChangeConfiguration : Obligations.OnlyItsRequestsChangeConfiguration := by
  intro c s t ht hc
  have start : s.OnlyOwnConfig c s := ⟨.refl c s, fun _ _ _ => rfl, fun _ => rfl⟩
  obtain ⟨u, hu, h⟩ := (upholds_onlyOwnConfig hc).exec start
  rw [ht] at hu
  cases hu
  exact ⟨h.own.store, h.own.pattern, h.own.segments, h.own.vocabulary, h.own.treatment, h.config, h.own.activeBank,
    h.own.openBank, h.own.port, h.own.programmes, h.own.up, h.tick, h.own.clock⟩

end Sys2Proof.Machine
end

section
/-!
PROOF. The deadlines of R184 and the ranges of the handle times inside an event (`State.Paced`): the promises of `State.OnTime` and
`State.HandleInRange`, with what a deadline has to be left open, and one lemma for each way in which an operation changes a record
that holds a deadline.
-/
namespace Sys2Proof.Machine

open Sys2Proof

/-! ## The invariant -/

/-- The six deadlines of R184, and the one that an agent's next failed offer would give it. -/
inductive Clock where
  | ring | promotion | step | deferral | wrap | penalty | failure

/-- A call's deadlines are good ones; only a call of an aging queue below band 7 has a promotion deadline, a call with an exit
pending has no deadline, and a connected call no treatment. -/
structure State.CallTimely (s : State) (good : Clock → Nat → Tick → Prop) (y : Nat) (c : Call) : Prop where
  ring : ∀ o, c.offer = some o → good .ring y o.deadline
  promotion : ∀ d, c.promotion = some d → good .promotion y d
  aging : c.promotion.isSome = true → (s.queue c.queue).config.agingInterval ≠ 0 ∧ c.band < 7
  step : ∀ t d, c.treatment = some t → t.deadline = some d → good .step y d
  exiting : c.exitPending.isSome = true → c.promotion = none ∧ c.treatment = none
  answered : c.state = .connected → c.treatment = none

/-- An agent's deadlines are good ones, a wrap-up's within what has been granted to it. -/
structure AgentTimely (good : Clock → Nat → Tick → Prop) (now : Tick) (x : Nat) (a : Agent) : Prop where
  wrap : ∀ w, a.wrap = some w → good .wrap x w.deadline
  extension : ∀ w, a.wrap = some w → w.granted ≤ 65535 ∧ (w.deadline - now).toNat ≤ 65535 + w.granted
  penalized : ∀ d, a.penaltyDeadline = some d → good .penalty x d
  failure : good .failure x (Tick.plus now a.penalty)
  penalty : a.penalty ≤ 65535

/-- The durations that a queue stores are at most 65535 ticks, its ring time in 10 to 600. -/
def QueueConfig.Bounded (c : QueueConfig) : Prop :=
  10 ≤ c.ringTime ∧ c.ringTime ≤ 600 ∧ c.wrapLimit ≤ 65535 ∧ c.maxExtension ≤ 65535 ∧ c.serviceThreshold ≤ 65535
    ∧ c.agingInterval ≤ 65535 ∧ ∀ w, c.maxWait = some w → w ≤ 65535

/-- Which deadlines are good in a tick: those from a duration of 1 to 65535 ticks, and none further ahead than 131070 ticks. -/
structure Fair (good : Clock → Nat → Tick → Prop) (now : Tick) : Prop where
  fresh : ∀ k x n, 1 ≤ n → n ≤ 65535 → good k x (Tick.plus now n)
  near : ∀ k x d, good k x d → (d - now).toNat ≤ 131070

/-- Every deadline of the state is a good one, and what keeps them so. -/
structure State.Timely (good : Clock → Nat → Tick → Prop) (now : Tick) (s : State) : Prop where
  fair : Fair good now
  tick : s.tick = now
  calls : ∀ y c, s.call? y = some c → s.CallTimely good y c
  agents : ∀ x, AgentTimely good now x (s.agent x)
  deferred : ∀ w, ∀ d ∈ (s.highway w).deferral, ∃ c, s.call? d.call = some c ∧ c.owner.highway? = some w
    ∧ c.treatment.isSome = true
  deferral : ∀ w y d, (s.highway w).deferral.find? (fun d => d.call == y) = some d → good .deferral y d.deadline
  queues : ∀ q, (s.queue q).config.Bounded
  deferLimit : s.deferLimit ≤ 65535
  steps : s.StepsBounded
  boundary : s.boundaryDue = true → s.frameCount = 0

/-- The deadlines, where they are asked about, are good, and the handle times, where they are, in range. -/
structure State.Paced (timed ranged : Prop) (good : Clock → Nat → Tick → Prop) (now : Tick) (s : State) : Prop where
  timely : timed → s.Timely good now
  handle : ranged → s.HandleInRange

section
variable {timed ranged : Prop} {good : Clock → Nat → Tick → Prop} {now : Tick} {s t u : State} {e : Ev} {c d : Call}
  {a b : Agent} {x y : Nat}

theorem State.CallTimely.of_config (h : s.CallTimely good y c) (k : ∀ q, (t.queue q).config = (s.queue q).config) :
    t.CallTimely good y c :=
  { h with aging := fun hp => by rw [k]; exact h.aging hp }

/-- A call whose offer, promotion deadline and treatment are those it had, or gone. -/
theorem State.CallTimely.edit (h : s.CallTimely good y c) (queue : d.queue = c.queue) (band : d.band = c.band)
    (offer : d.offer = c.offer ∨ d.offer = none) (promotion : d.promotion = c.promotion ∨ d.promotion = none)
    (treatment : d.treatment = c.treatment ∨ d.treatment = none)
    (exiting : d.exitPending.isSome = true → c.exitPending.isSome = true)
    (state : d.state = .connected → c.state = .connected ∨ c.treatment = none) : s.CallTimely good y d where
  ring o ho := by
    rcases offer with h1 | h1
    · exact h.ring o (h1 ▸ ho)
    · rw [h1] at ho; cases ho
  promotion x hx := by
    rcases promotion with h1 | h1
    · exact h.promotion x (h1 ▸ hx)
    · rw [h1] at hx; cases hx
  aging hx := by
    rcases promotion with h1 | h1
    · rw [queue, band]; exact h.aging (h1 ▸ hx)
    · rw [h1] at hx; cases hx
  step t x ht hx := by
    rcases treatment with h1 | h1
    · exact h.step t x (h1 ▸ ht) hx
    · rw [h1] at ht; cases ht
  exiting he := by
    obtain ⟨hp, ht⟩ := h.exiting (exiting he)
    exact ⟨promotion.elim (fun h1 => h1.trans hp) id, treatment.elim (fun h1 => h1.trans ht) id⟩
  answered hs := by
    have ht : c.treatment = none := (state hs).elim h.answered id
    exact treatment.elim (fun h1 => h1.trans ht) id

/-- An agent whose wrap-up and penalty deadline are those it had, or gone. -/
theorem AgentTimely.edit (h : AgentTimely good now x a) (wrap : b.wrap = a.wrap ∨ b.wrap = none)
    (penalized : b.penaltyDeadline = a.penaltyDeadline ∨ b.penaltyDeadline = none) (penalty : b.penalty = a.penalty) :
    AgentTimely good now x b where
  wrap w hw := by
    rcases wrap with h1 | h1
    · exact h.wrap w (h1 ▸ hw)
    · rw [h1] at hw; cases hw
  extension w hw := by
    rcases wrap with h1 | h1
    · exact h.extension w (h1 ▸ hw)
    · rw [h1] at hw; cases hw
  penalized d hd := by
    rcases penalized with h1 | h1
    · exact h.penalized d (h1 ▸ hd)
    · rw [h1] at hd; cases hd
  failure := penalty ▸ h.failure
  penalty := penalty ▸ h.penalty

/-! ## Changes of the state -/

/-- With the settings and the queues' configurations kept, the calls, the agents and the deferral lists are left to see to. -/
theorem State.Timely.of_parts (h : s.Timely good now) (settings : t.settings = s.settings)
    (config : ∀ q, (t.queue q).config = (s.queue q).config)
    (calls : ∀ y c, t.call? y = some c → s.CallTimely good y c) (agents : ∀ x, AgentTimely good now x (t.agent x))
    (deferred : ∀ w, ∀ d ∈ (t.highway w).deferral, ∃ c, t.call? d.call = some c ∧ c.owner.highway? = some w
      ∧ c.treatment.isSome = true)
    (deferral : ∀ w y d, (t.highway w).deferral.find? (fun d => d.call == y) = some d → good .deferral y d.deadline) :
    t.Timely good now where
  fair := h.fair
  tick := (congrArg Settings.tick settings).trans h.tick
  calls y c hc := (calls y c hc).of_config config
  agents := agents
  deferred := deferred
  deferral := deferral
  queues q := by rw [config]; exact h.queues q
  deferLimit := (congrArg Settings.deferLimit settings).trans_le h.deferLimit
  steps := h.steps.of_tables (congrArg Settings.patterns0 settings) (congrArg Settings.patterns1 settings)
  boundary hd := (congrArg Settings.frameCount settings).trans
    (h.boundary ((congrArg Settings.boundaryDue settings).symm.trans hd))

theorem State.Timely.same (h : s.Timely good now) (k : s.SameTerms t) : t.Timely good now := by
  refine h.of_parts k.settings k.config (fun y c hc => h.calls y c (k.call y ▸ hc)) (fun x => ?_) (fun w d hd => ?_)
    fun w y d hd => h.deferral w y d (k.deferral w ▸ hd)
  · rw [k.agent]; exact h.agents x
  · rw [k.deferral] at hd
    obtain ⟨c, hc, ho, ht⟩ := h.deferred w d hd
    exact ⟨c, (k.call _).trans hc, ho, ht⟩

theorem Queue.HandleInRange.of_terms {r r' : Queue} (h : r.HandleInRange) (k : r'.terms = r.terms) : r'.HandleInRange := by
  have config : r'.config = r.config := congrArg Prod.fst k
  have aht : r'.aht = r.aht := congrArg Prod.snd k
  unfold Queue.HandleInRange
  rw [config, aht]
  exact h

theorem State.Paced.same (h : s.Paced timed ranged good now) (k : s.SameTerms t) : t.Paced timed ranged good now :=
  ⟨fun ht => (h.timely ht).same k, fun hr q => (h.handle hr q).of_terms (k.queue q)⟩

theorem State.Paced.configured {i : Instr} (h : s.Paced timed ranged good now) (k : s.Configured i t) :
    t.Paced timed ranged good now where
  timely ht :=
    have h := h.timely ht
    have config : ∀ q, (t.queue q).config = (s.queue q).config := fun q => congrArg Prod.fst (k.queue q)
    { fair := h.fair
      tick := k.tick.trans h.tick
      calls := fun y c hc => (h.calls y c (k.call y ▸ hc)).of_config config
      agents := fun x => by rw [k.agent]; exact h.agents x
      deferred := fun w d hd => by
        rw [k.deferral] at hd
        obtain ⟨c, hc, ho, ht⟩ := h.deferred w d hd
        exact ⟨c, (k.call _).trans hc, ho, ht⟩
      deferral := fun w y d hd => h.deferral w y d (k.deferral w ▸ hd)
      queues := fun q => by rw [config]; exact h.queues q
      deferLimit := k.deferLimit h.deferLimit
      steps := k.steps h.steps
      boundary := k.boundary h.boundary }
  handle hr q := (h.handle hr q).of_terms (k.queue q)

theorem State.Paced.setAgent (h : s.Paced timed ranged good now) (x : Nat) {a : Agent}
    (ha : s.Timely good now → AgentTimely good now x a) : (s.setAgent x a).Paced timed ranged good now := by
  refine ⟨fun ht => ?_, fun hr q => by simpa using h.handle hr q⟩
  have h := h.timely ht
  refine h.of_parts (by simp) (by simp) (by simpa using h.calls) (fun z => ?_) (by simpa using h.deferred)
    (by simpa using h.deferral)
  rw [State.agent_setAgent]
  split
  · rename_i hz; subst hz; exact ha h
  · exact h.agents z

/-- A record that the deferral entries of a slot allow. -/
def State.DeferralFits (s : State) (y : Nat) (c : Call) : Prop :=
  ∀ w, ∀ d ∈ (s.highway w).deferral, d.call = y → c.owner.highway? = some w ∧ c.treatment.isSome = true

theorem State.Timely.fits_of_call (h : s.Timely good now) (hc : s.call? y = some c) (owner : d.owner = c.owner)
    (treatment : c.treatment.isSome = true → d.treatment.isSome = true) : s.DeferralFits y d := by
  intro w f hf hy
  obtain ⟨c', hc', ho, ht⟩ := h.deferred w f hf
  rw [hy, hc] at hc'
  cases hc'
  exact ⟨owner ▸ ho, treatment ht⟩

theorem State.Timely.fits_of_untreated (h : s.Timely good now) (hc : ∀ c, s.call? y = some c → c.treatment = none) (d : Call) :
    s.DeferralFits y d := by
  intro w f hf hy
  obtain ⟨c', hc', _, ht⟩ := h.deferred w f hf
  rw [hy] at hc'
  rw [hc c' hc'] at ht
  cases ht

theorem State.Paced.setCall (h : s.Paced timed ranged good now) (y : Nat) {c : Call}
    (hc : timed → s.Timely good now → s.CallTimely good y c) (hd : timed → s.Timely good now → s.DeferralFits y c) :
    (s.setCall y c).Paced timed ranged good now := by
  refine ⟨fun ht => ?_, fun hr q => by simpa using h.handle hr q⟩
  have hc := hc ht
  have hd := hd ht
  have h := h.timely ht
  refine h.of_parts (by simp) (by simp) (fun z d hz => ?_) (by simpa using h.agents) (fun w f hf => ?_)
    (by simpa using h.deferral)
  · rw [State.call?_setCall] at hz
    split at hz
    · rename_i hy; subst hy; cases hz; exact hc h
    · exact h.calls z d hz
  · have hf : f ∈ (s.highway w).deferral := by simpa using hf
    rw [State.call?_setCall]
    split
    · rename_i hy; exact ⟨c, rfl, hd h w f hf hy.symm⟩
    · exact h.deferred w f hf

theorem State.Paced.updCall (h : s.Paced timed ranged good now) (y : Nat) {f : Call → Call}
    (hf : ∀ c, s.call? y = some c → s.CallTimely good y c → s.CallTimely good y (f c))
    (owner : ∀ c, s.call? y = some c → (f c).owner = c.owner)
    (treatment : ∀ c, s.call? y = some c → c.treatment.isSome = true → (f c).treatment.isSome = true) :
    (s.updCall y f).Paced timed ranged good now := by
  unfold State.updCall
  split
  · rename_i c hc
    exact h.setCall y (fun _ k => hf c hc (k.calls y c hc)) fun _ k => k.fits_of_call hc (owner c hc) (treatment c hc)
  · exact h

/-- A treatment part changed: its deadline is the one it had, or none, or a good one. -/
theorem State.Paced.updTreatment (h : s.Paced timed ranged good now) (y : Nat) {f : Treatment → Treatment}
    (hf : ∀ t d, (f t).deadline = some d → t.deadline = some d ∨ (timed → s.Timely good now → good .step y d)) :
    (s.updTreatment y f).Paced timed ranged good now := by
  unfold State.updTreatment State.updCall
  split
  · rename_i c hc
    refine h.setCall y (fun hz k => ?_) fun _ k => k.fits_of_call hc rfl (by simp)
    have timely := k.calls y c hc
    refine ⟨timely.ring, timely.promotion, timely.aging, fun t d ht hd => ?_, fun he => ?_, fun hs => ?_⟩
    · obtain ⟨t', ht', rfl⟩ := Option.map_eq_some_iff.1 ht
      rcases hf t' d hd with hd | hd
      · exact timely.step t' d ht' hd
      · exact hd hz k
    · exact ⟨(timely.exiting he).1, by simp [(timely.exiting he).2]⟩
    · simp [timely.answered hs]
  · exact h

theorem State.Paced.freeCall (h : s.Paced timed ranged good now) (y : Nat)
    (hn : s.Timely good now → ∀ c, s.call? y = some c → c.treatment = none) :
    (s.freeCall y).Paced timed ranged good now := by
  refine ⟨fun ht => ?_, fun hr q => by simpa using h.handle hr q⟩
  have h := h.timely ht
  refine h.of_parts (by simp) (by simp) (fun z d hz => ?_) (by simpa using h.agents) (fun w f hf => ?_)
    (by simpa using h.deferral)
  · rw [State.call?_freeCall] at hz
    split at hz
    · cases hz
    · exact h.calls z d hz
  · have hf : f ∈ (s.highway w).deferral := by simpa using hf
    obtain ⟨c, hc, ho, ht⟩ := h.deferred w f hf
    rw [State.call?_freeCall]
    split
    · rename_i hy
      rw [← hy] at hc
      rw [hn h c hc] at ht
      cases ht
    · exact ⟨c, hc, ho, ht⟩

/-- A highway's record replaced by one whose deferral list holds entries allowed there, in good time. -/
theorem State.Paced.setHighway (h : s.Paced timed ranged good now) (w : Highway) {r : HighwayRec}
    (hr : s.Timely good now → (∀ d ∈ r.deferral, ∃ c, s.call? d.call = some c ∧ c.owner.highway? = some w
        ∧ c.treatment.isSome = true)
      ∧ ∀ y d, r.deferral.find? (fun d => d.call == y) = some d → good .deferral y d.deadline) :
    (s.setHighway w r).Paced timed ranged good now := by
  refine ⟨fun ht => ?_, fun hr q => by simpa using h.handle hr q⟩
  have h := h.timely ht
  refine h.of_parts (by simp) (by simp) (by simpa using h.calls) (by simpa using h.agents) (fun v f hf => ?_) fun v z f hf => ?_
  · rw [State.highway_setHighway] at hf
    rw [State.setHighway_call]
    split at hf
    · rename_i hv; subst hv; exact (hr h).1 f hf
    · exact h.deferred v f hf
  · rw [State.highway_setHighway] at hf
    split at hf
    · exact (hr h).2 z f hf
    · exact h.deferral v z f hf

end

end Sys2Proof.Machine
end

section
/-!
PROOF. The deadlines and handle times under the operations of deferral lists, agents, waiting orders and offers.
-/
namespace Sys2Proof.Machine

open Sys2Proof

section
variable {timed ranged : Prop} {good : Clock → Nat → Tick → Prop} {now : Tick} {s t u : State} {e : Ev} {c d : Call}
  {a b : Agent} {x y : Nat}

namespace State.Paced

/-! ## Deferral lists and channels -/

/-- Some of a highway's deferral entries go, all those of a call at once. -/
theorem leaveDeferral (h : s.Paced timed ranged good now) (w : Highway) (y : Nat) :
    (s.leaveDeferral w y).Paced timed ranged good now := by
  refine h.setHighway w fun k => ⟨fun d hd => k.deferred w d (List.mem_filter.1 hd).1, fun z d hd => k.deferral w z d ?_⟩
  have hz : d.call = z := by simpa using List.find?_some hd
  have hy : d.call ≠ y := by simpa using (List.mem_filter.1 (List.mem_of_find?_eq_some hd)).2
  rw [List.find?_filter] at hd
  rw [← hd]
  congr 1
  funext f
  by_cases hf : f.call = z
  · simp [hf, hz ▸ hy]
  · simp [hf]

theorem joinDeferral (h : s.Paced timed ranged good now) (w : Highway) (hc : s.call? y = some c)
    (ho : c.owner.highway? = some w) (ht : c.treatment.isSome = true) (hl : s.deferLimit ≠ 0) :
    (s.joinDeferral w y).Paced timed ranged good now := by
  refine h.setHighway w fun k => ⟨fun d hd => ?_, fun z d hd => ?_⟩
  · rcases List.mem_append.1 hd with hd | hd
    · exact k.deferred w d hd
    · rw [List.mem_singleton] at hd
      subst hd
      exact ⟨c, hc, ho, ht⟩
  · rw [List.find?_append, Option.or_eq_some_iff] at hd
    rcases hd with hd | ⟨_, hd⟩
    · exact k.deferral w z d hd
    · have hd := List.mem_singleton.1 (List.mem_of_find?_eq_some hd)
      subst hd
      rw [k.tick]
      exact k.fair.fresh _ _ _ (by omega) k.deferLimit

theorem drainHighway (h : s.Paced timed ranged good now) (w : Highway) : (s.drainHighway w).Paced timed ranged good now := by
  have emptied : (s.setHighway w { s.highway w with deferral := [] }).Paced timed ranged good now :=
    h.setHighway w fun _ => ⟨by simp, by simp⟩
  unfold State.drainHighway
  dsimp only
  refine emptied.same (.foldl (fun s e => ?_) _ _)
  split
  · exact s.drainChannel_terms _ _
  · exact .refl _

theorem freeHighway (h : s.Paced timed ranged good now) (w : Highway) : (s.freeHighway w).Paced timed ranged good now :=
  (h.drainHighway w).setHighway w fun _ => ⟨by simp, by simp⟩

end State.Paced

/-! ## Agents -/

theorem State.SameTerms.setAgent (h : s.SameTerms t) (x : Nat) (a : Agent) : (s.setAgent x a).SameTerms (t.setAgent x a) :=
  ⟨by simpa using h.settings, fun z => by simp only [State.agent_setAgent, h.agent], by simpa using h.call,
    by simpa using h.queue, by simpa using h.deferral, by simpa using h.link⟩

theorem Ev.putAgent_terms (e : Ev) (x : Nat) (new : Agent) (cause : Cause) :
    (e.st.setAgent x new).SameTerms (e.putAgent x new cause).st := by
  have weighed := (e.st.setAgent x new).reweigh_terms (e.st.agent x) new
  rw [Ev.putAgent_st]
  split
  · exact weighed
  · exact weighed.trans (.setAvailable _ _)

theorem Ev.putAgentAtTail_terms (e : Ev) (x : Nat) (new : Agent) (cause : Cause) :
    (e.st.setAgent x new).SameTerms (e.putAgentAtTail x new cause).st := by
  unfold Ev.putAgentAtTail
  dsimp only
  split
  · exact (e.putAgent_terms x new cause).trans (.setAvailable _ _)
  · exact e.putAgent_terms x new cause

theorem Ev.completeLogout_terms (e : Ev) (x : Nat) (cause : Cause) :
    (e.st.setAgent x (e.st.agent x).loggedOut).SameTerms (e.completeLogout x cause).st :=
  ((State.SameTerms.setRecent e.st _).setAgent x _).trans
    ((e.upd fun s => { s with recent := s.recent.filter fun r => r.agent != x }).putAgent_terms x _ cause)

namespace State.Paced

theorem putAgent (h : e.st.Paced timed ranged good now) (x : Nat) {a : Agent} (cause : Cause)
    (ha : e.st.Timely good now → AgentTimely good now x a) : (e.putAgent x a cause).st.Paced timed ranged good now :=
  (h.setAgent x ha).same (e.putAgent_terms x a cause)

theorem putAgentAtTail (h : e.st.Paced timed ranged good now) (x : Nat) {a : Agent} (cause : Cause)
    (ha : e.st.Timely good now → AgentTimely good now x a) : (e.putAgentAtTail x a cause).st.Paced timed ranged good now :=
  (h.setAgent x ha).same (e.putAgentAtTail_terms x a cause)

/-- An agent's record edited without its deadlines and its penalty, or without its wrap-up. -/
theorem editAgent (h : s.Paced timed ranged good now) (x : Nat) {a : Agent} (wrap : a.wrap = (s.agent x).wrap ∨ a.wrap = none)
    (penalized : a.penaltyDeadline = (s.agent x).penaltyDeadline ∨ a.penaltyDeadline = none)
    (penalty : a.penalty = (s.agent x).penalty) : (s.setAgent x a).Paced timed ranged good now :=
  h.setAgent x fun k => (k.agents x).edit wrap penalized penalty

theorem completeLogout (h : e.st.Paced timed ranged good now) (x : Nat) (cause : Cause) :
    (e.completeLogout x cause).st.Paced timed ranged good now :=
  (h.editAgent x (a := (e.st.agent x).loggedOut) (.inr rfl) (.inr rfl) rfl).same (e.completeLogout_terms x cause)

/-- The agent of a failed offer: where it is inferred absent, its penalty is a deadline from now on. -/
theorem settleFailed (h : e.st.Paced timed ranged good now) (x : Nat) (cause : Cause)
    (fails : ∀ d, good .failure x d → good .penalty x d) : (e.settleFailed x cause).st.Paced timed ranged good now := by
  refine h.putAgentAtTail x cause fun k => ?_
  have timely := k.agents x
  unfold Agent.failedOffer
  dsimp only
  split
  · refine { timely with penalized := fun d hd => ?_ }
    dsimp only at hd
    split at hd
    · cases hd
      rw [k.tick]
      exact fails _ timely.failure
    · cases hd
  · split
    · exact timely.edit (.inl rfl) (.inl rfl) rfl
    all_goals exact timely.edit (.inl rfl) (.inl rfl) rfl

theorem settleWithdrawn (h : e.st.Paced timed ranged good now) (x : Nat) (cause : Cause) :
    (e.settleWithdrawn x cause).st.Paced timed ranged good now := by
  unfold Ev.settleWithdrawn
  dsimp only
  split
  · exact h.putAgent x cause fun k => (k.agents x).edit (.inl rfl) (.inl rfl) rfl
  all_goals
    refine State.Paced.same ?_ (.setAvailable _ _)
    exact h.putAgent x cause fun k => (k.agents x).edit (.inl rfl) (.inl rfl) rfl

end State.Paced

/-! ## Handle times and wrap-up (R85, R91, R97 to R99) -/

/-- A sample moves an AHT at most half way, and never past 16 times itself (R99). -/
theorem ahtUpdate_range {aht shift sample : Nat} (hs : 1 ≤ shift) (low : 1 ≤ aht) (high : aht ≤ 1048560)
    (hn : sample ≤ 65535) : 1 ≤ ahtUpdate aht shift sample ∧ ahtUpdate aht shift sample ≤ 1048560 := by
  have two : 2 ≤ 2 ^ shift := le_self_pow₀ (by omega) (by omega)
  unfold ahtUpdate ahtAdjustment
  generalize 2 ^ shift = n at two
  rcases Nat.le_total aht (16 * sample) with up | down
  · obtain ⟨gap, hgap⟩ := Nat.exists_eq_add_of_le up
    have step : ((16 * sample : Nat) - (aht : Int)).tdiv (n : Nat) = (gap / n : Nat) := by
      rw [hgap]
      push_cast
      rw [add_sub_cancel_left]
      rfl
    have bound : gap / n ≤ gap := Nat.div_le_self _ _
    rw [step]
    generalize gap / n = q at bound
    omega
  · obtain ⟨gap, hgap⟩ := Nat.exists_eq_add_of_le down
    have step : ((16 * sample : Nat) - (aht : Int)).tdiv (n : Nat) = -((gap / n : Nat) : Int) := by
      rw [hgap]
      push_cast
      rw [sub_add_cancel_left, Int.neg_tdiv]
      rfl
    have bound : gap / n ≤ gap / 2 := Nat.div_le_div_left two (by omega)
    rw [step]
    generalize gap / n = q at bound
    omega

theorem State.Paced.updateAht (h : s.Paced timed ranged good now) (q : Nat) {sample : Nat} (hn : sample ≤ 65535) :
    (s.updateAht q sample).Paced timed ranged good now := by
  have config : ∀ p, ((s.updateAht q sample).queue p).config = (s.queue p).config := fun p => by
    unfold State.updateAht
    dsimp only
    rw [State.queue_setQueue]
    split
    · rename_i hq; subst hq; rfl
    · rfl
  refine ⟨fun ht => ?_, fun hr p => ?_⟩
  · have h := h.timely ht
    refine h.of_parts (by simp [State.updateAht]) config (by simpa [State.updateAht] using h.calls)
      (by simpa [State.updateAht] using h.agents) (by simpa [State.updateAht] using h.deferred)
      (by simpa [State.updateAht] using h.deferral)
  · have range := h.handle hr p
    unfold State.updateAht
    dsimp only
    rw [State.queue_setQueue]
    split
    · rename_i hq
      subst hq
      obtain ⟨low, high, initialLow, initialHigh, ahtLow, ahtHigh⟩ := range
      obtain ⟨updatedLow, updatedHigh⟩ := ahtUpdate_range low ahtLow ahtHigh hn
      exact ⟨low, high, initialLow, initialHigh, updatedLow, updatedHigh⟩
    · exact range

namespace State.Paced

theorem leave (h : e.st.Paced timed ranged good now) (x : Nat) (cause : Cause) :
    (e.leave x cause).st.Paced timed ranged good now := by
  unfold Ev.leave
  dsimp only
  split
  · exact h.completeLogout x cause
  · exact h.putAgent x cause fun k => (k.agents x).edit (.inr rfl) (.inl rfl) rfl
  · exact h.putAgentAtTail x cause fun k => (k.agents x).edit (.inr rfl) (.inl rfl) rfl

theorem startWrap (h : e.st.Paced timed ranged good now) (x q : Nat) (connect : Tick) (cause : Cause) :
    (e.startWrap x q connect cause).st.Paced timed ranged good now := by
  unfold Ev.startWrap
  dsimp only
  split
  · refine leave ?_ x cause
    refine updateAht (h.setAgent x fun k => ?_) q (Nat.min_le_left _ _)
    exact (k.agents x).edit (.inl rfl) (.inl rfl) rfl
  · rename_i limit
    refine h.putAgent x cause fun k => ?_
    have timely := k.agents x
    have bounded : (e.st.queue q).config.wrapLimit ≤ 65535 := (k.queues q).2.2.1
    refine { timely with wrap := fun w hw => ?_, extension := fun w hw => ?_ }
    · cases hw
      rw [k.tick]
      exact k.fair.fresh _ _ _ (by omega) bounded
    · cases hw
      refine ⟨Nat.zero_le _, ?_⟩
      rw [k.tick]
      simp only [Tick.plus, add_sub_cancel_left, BitVec.toNat_ofNat]
      omega

theorem endWrap (h : e.st.Paced timed ranged good now) (x : Nat) (w : WrapRecord) (cause : Cause) :
    (e.endWrap x w cause).st.Paced timed ranged good now := by
  unfold Ev.endWrap
  dsimp only
  refine leave ?_ x cause
  refine updateAht (h.setAgent x fun k => ?_) w.queue (Nat.min_le_left _ _)
  exact (k.agents x).edit (.inl rfl) (.inl rfl) rfl

/-! ## Waiting orders -/

theorem joinOrder (h : e.st.Paced timed ranged good now) (y : Nat) (c : Call) :
    (e.joinOrder y c).st.Paced timed ranged good now := by
  unfold Ev.joinOrder
  dsimp only
  refine State.Paced.same ?_ (Ev.evalClosing_terms _ _)
  exact h.same (.setQueue _ _ _ rfl)

theorem reinsert (h : s.Paced timed ranged good now) (y : Nat) (c : Call) :
    (s.reinsert y c).Paced timed ranged good now := h.same (.setQueue _ _ _ rfl)

/-- Once a call is out of its highway's list, no list holds it. -/
theorem stopAudio (h : s.Paced timed ranged good now) (hc : s.call? y = some c) :
    (s.stopAudio y c).Paced timed ranged good now
      ∧ (timed → ∀ w, ∀ d ∈ ((s.stopAudio y c).highway w).deferral, d.call ≠ y) := by
  have own : timed → ∀ w, ∀ d ∈ (s.highway w).deferral, d.call = y → c.owner.highway? = some w :=
    fun ht w d hd hy => ((h.timely ht).fits_of_call (d := c) hc rfl id w d hd hy).1
  unfold State.stopAudio
  split
  · rename_i ho
    exact ⟨h, fun k w d hd hy => by rw [own k w d hd hy] at ho; cases ho⟩
  · rename_i v ho
    have left : timed → ∀ w, ∀ d ∈ ((s.leaveDeferral v y).highway w).deferral, d.call ≠ y := by
      intro k w d hd hy
      unfold State.leaveDeferral at hd
      dsimp only at hd
      rw [State.highway_setHighway] at hd
      split at hd
      · simpa [hy] using (List.mem_filter.1 hd).2
      · rename_i hv
        have hw := own k w d hd hy
        rw [ho] at hw
        exact hv (Option.some.inj hw)
    dsimp only
    split
    · rename_i ts _
      have drained := (s.leaveDeferral v y).drainChannel_terms v ts
      exact ⟨(h.leaveDeferral v y).same drained, fun k w d hd => left k w d (drained.deferral w ▸ hd)⟩
    · exact ⟨h.leaveDeferral v y, left⟩

theorem stopTreatment (h : s.Paced timed ranged good now) (y : Nat) : (s.stopTreatment y).Paced timed ranged good now := by
  unfold State.stopTreatment
  split
  · exact h
  · rename_i c hc
    split
    · exact h
    · rename_i t _
      have counted : s.SameTerms (s.updRefs t.bank (· - 1)) := .updRefs _ _ _
      have hc' : (s.updRefs t.bank (· - 1)).call? y = some c := (counted.call y).trans hc
      obtain ⟨stopped, gone⟩ := (h.same counted).stopAudio hc'
      have call : ((s.updRefs t.bank (· - 1)).stopAudio y c).call? y = some c := by
        rw [(State.stopAudio_same _ y c).call, hc']
      generalize hu : (s.updRefs t.bank (· - 1)).stopAudio y c = u at stopped gone call
      have listens : u.SameTerms (u.setLink c.owner
          { u.link c.owner with listenOrder := (u.link c.owner).listenOrder.filter (· != y) }) := .setLink _ _ _ rfl
      refine (stopped.same listens).setCall y (fun _ k => ?_) fun ht _ w d hd hy => ?_
      · exact (k.calls y c ((listens.call y).trans call)).edit rfl rfl (.inl rfl) (.inl rfl) (.inr rfl) id fun hs => .inl hs
      · exact absurd hy (gone ht w d (listens.deferral w ▸ hd))

end State.Paced

/-- A stopped treatment is gone from the call's record. -/
theorem State.stopTreatment_untreated (s : State) (y : Nat) :
    ∀ c, (s.stopTreatment y).call? y = some c → c.treatment = none := by
  cases hc : s.call? y with
  | none => intro c h; unfold State.stopTreatment at h; rw [hc] at h; rw [hc] at h; cases h
  | some d =>
    intro c h
    rw [(State.stopTreatment_replaced hc).call, if_pos rfl] at h
    cases h
    rfl

/-- A call that has left its order has no treatment. -/
theorem Ev.leaveOrder_untreated (e : Ev) (y : Nat) (c : Call) :
    ∀ d, (e.leaveOrder y c).st.call? y = some d → d.treatment = none := by
  intro d hd
  unfold Ev.leaveOrder at hd
  dsimp only at hd
  rw [(Ev.evalOpening_terms _ _).call, Ev.upd_st, State.setQueue_call, State.call?_updCall, if_pos rfl] at hd
  obtain ⟨c', hc', rfl⟩ := Option.map_eq_some_iff.1 hd
  exact State.stopTreatment_untreated _ _ c' hc'

namespace State.Paced

theorem leaveOrder (h : e.st.Paced timed ranged good now) (y : Nat) (c : Call) :
    (e.leaveOrder y c).st.Paced timed ranged good now := by
  unfold Ev.leaveOrder
  dsimp only
  refine State.Paced.same ?_ (Ev.evalOpening_terms _ _)
  refine State.Paced.same (s := (e.st.stopTreatment y).updCall y fun c => { c with promotion := none }) ?_ (.setQueue _ _ _ rfl)
  exact (h.stopTreatment y).updCall y (fun c _ k => k.edit rfl rfl (.inl rfl) (.inr rfl) (.inl rfl) id .inl)
    (fun _ _ => rfl) fun _ _ => id

theorem removeCall (h : e.st.Paced timed ranged good now) (y : Nat) (c : Call) (n : CounterName) :
    (e.removeCall y c n).st.Paced timed ranged good now := by
  unfold Ev.removeCall
  dsimp only
  have told : (e.leaveOrder y c).st.SameTerms (((e.leaveOrder y c).count c.queue n).updLink c.owner
      fun r => { r with exitOrder := r.exitOrder.filter (· != y) }).st :=
    (Ev.count_terms _ _ _).trans (Ev.updLink_terms _ _ fun _ => rfl)
  exact ((h.leaveOrder y c).same told).freeCall y fun _ d hd => e.leaveOrder_untreated y c d (told.call y ▸ hd)

theorem exitCall (h : e.st.Paced timed ranged good now) (y : Nat) (c : Call) (reason : Nat) :
    (e.exitCall y c reason).st.Paced timed ranged good now := by
  unfold Ev.exitCall
  split
  · exact (h.same (e.queueNotice_terms _ _)).removeCall y c _
  · dsimp only
    refine State.Paced.same ?_ (Ev.updLink_terms _ _ fun _ => rfl)
    refine (h.stopTreatment y).updCall y (fun d hd k => ?_) (fun _ _ => rfl) fun _ _ => id
    have untreated := e.st.stopTreatment_untreated y d hd
    exact ⟨k.ring, fun d hd => (nomatch hd), fun hp => (nomatch hp), k.step, fun _ => ⟨rfl, untreated⟩, k.answered⟩

theorem chargeRedirect (h : e.st.Paced timed ranged good now) (y : Nat) :
    (e.chargeRedirect y).st.Paced timed ranged good now := by
  unfold Ev.chargeRedirect
  split
  · exact h
  · rename_i c hc
    split
    · exact h.setCall y (fun _ k => (k.calls y c hc).edit rfl rfl (.inl rfl) (.inl rfl) (.inl rfl) id .inl) fun _ k =>
        k.fits_of_call hc rfl id
    · exact h.exitCall y c _

/-- A call whose deadline is reached has its next one from now (R41). -/
theorem promote (h : s.Paced timed ranged good now) (hc : s.call? y = some c) {f : Tick} (hf : c.promotion = some f)
    (due : timed → s.Timely good now → f = now) : (s.promote y c f).Paced timed ranged good now := by
  unfold State.promote
  dsimp only
  refine reinsert (h.setCall y (fun hz k => ?_) fun _ k => ?fits) y _
  case fits => exact k.fits_of_call hc rfl id
  have timely := k.calls y c hc
  have aging := timely.aging (by simp [hf])
  have bounded : (s.queue c.queue).config.agingInterval ≤ 65535 := (k.queues c.queue).2.2.2.2.2.1
  refine { timely with promotion := fun d hd => ?_, aging := fun hp => ?_, exiting := fun he => ?_ }
  · dsimp only at hd
    split at hd
    · cases hd
      rw [due hz k]
      exact k.fair.fresh _ _ _ (by omega) bounded
    · cases hd
  · refine ⟨aging.1, ?_⟩
    dsimp only at hp ⊢
    split at hp
    · assumption
    · cases hp
  · rw [(timely.exiting he).1] at hf
    cases hf

theorem raiseCall (h : s.Paced timed ranged good now) (hc : s.call? y = some c) (n : Nat) :
    (s.raiseCall y c n).Paced timed ranged good now := by
  unfold State.raiseCall
  split
  · exact h
  · dsimp only
    refine reinsert (h.setCall y (fun _ k => ?_) fun _ k => ?fits) y _
    case fits => exact k.fits_of_call hc rfl id
    have timely := k.calls y c hc
    refine { timely with promotion := fun d hd => ?_, aging := fun hp => ?_, exiting := fun he => ⟨?_, (timely.exiting he).2⟩ }
    · dsimp only at hd
      split at hd
      · cases hd
      · exact timely.promotion d hd
    · dsimp only at hp ⊢
      split at hp
      · cases hp
      · rename_i low
        exact ⟨(timely.aging hp).1, lt_of_le_of_ne (Nat.min_le_left _ _) low⟩
    · dsimp only
      split
      · rfl
      · exact (timely.exiting he).1

/-! ## Offers -/

theorem makeOffer (h : e.st.Paced timed ranged good now) (hc : e.st.call? y = some c) (x : Nat) :
    (e.makeOffer y c x).st.Paced timed ranged good now := by
  unfold Ev.makeOffer
  dsimp only
  have token : e.st.SameTerms (e.upd fun s => { s with token := nextToken e.st.token }).st :=
    ⟨rfl, fun _ => rfl, fun _ => rfl, fun _ => rfl, fun w => by cases w <;> rfl, fun k => by cases k <;> rfl⟩
  have reserved := (h.same token).putAgent x (a := { e.st.agent x with
    state := .reserved, offer := some { token := nextToken e.st.token, call := y }, lastToken := nextToken e.st.token
    lastOutcome := none }) .offer fun k => (k.agents x).edit (.inl rfl) (.inl rfl) rfl
  have call := (Ev.putAgent_replaced (e.upd fun s => { s with token := nextToken e.st.token }) x { e.st.agent x with
    state := .reserved, offer := some { token := nextToken e.st.token, call := y }, lastToken := nextToken e.st.token
    lastOutcome := none } .offer).call y
  generalize (e.upd fun s => { s with token := nextToken e.st.token }).putAgent x _ .offer = d at reserved call ⊢
  have hc : d.st.call? y = some c := call.trans hc
  have offered := reserved.setCall y (c := { c with
      state := .offering
      offer := some { token := nextToken e.st.token, agent := x
                      deadline := Tick.plus d.st.tick (d.st.queue c.queue).config.ringTime } }) (fun _ k => by
    have timely := k.calls y c hc
    have ring := k.queues c.queue
    refine { timely with ring := fun o ho => ?_, answered := fun hs => nomatch hs }
    cases ho
    rw [k.tick]
    exact k.fair.fresh _ _ _ (by have := ring.1; omega) (by have := ring.2.1; omega)) fun _ k => k.fits_of_call hc rfl id
  split
  · exact offered
  · refine State.Paced.same ?_ (Ev.reserve_terms _ _)
    refine State.Paced.same ?_ (Ev.reserve_terms _ _)
    refine State.Paced.same ?_ (Ev.queueNotice_terms _ _ _)
    exact offered

end State.Paced

end

end Sys2Proof.Machine
end

section
/-!
PROOF. The deadlines and handle times under distribution attempts, treatments, waiting work and the end of an event.
-/
namespace Sys2Proof.Machine

open Sys2Proof

section
variable {timed ranged : Prop} {good : Clock → Nat → Tick → Prop} {now : Tick} {s u : State} {e : Ev} {c d : Call}
  {x y : Nat} {t : Treatment}

namespace State.Paced

theorem foldl {α : Type} {f : Ev → α → Ev}
    (hf : ∀ (e : Ev) a, e.st.Paced timed ranged good now → (f e a).st.Paced timed ranged good now) (as : List α) :
    ∀ e : Ev, e.st.Paced timed ranged good now → (as.foldl f e).st.Paced timed ranged good now := by
  induction as with
  | nil => exact fun _ h => h
  | cons a as ih => exact fun e h => ih (f e a) (hf e a h)

/-! ## Distribution attempts and offers -/

theorem queueAttempts (h : e.st.Paced timed ranged good now) (q : Nat) :
    (e.queueAttempts q).st.Paced timed ranged good now := by
  unfold Ev.queueAttempts
  generalize e.st.available.length + 1 = fuel
  induction fuel generalizing e with
  | zero => exact h
  | succ fuel ih =>
    unfold Ev.attemptLoop
    split
    · rename_i y c x found
      exact ih (h.makeOffer (e.st.pairIn_call q _ found).1 x)
    · exact h

theorem agentAttempt (h : e.st.Paced timed ranged good now) (x : Nat) :
    (e.agentAttempt x).st.Paced timed ranged good now := by
  unfold Ev.agentAttempt
  dsimp only
  split
  · split
    · rename_i y c found
      exact h.makeOffer (e.st.bestCall_call _ found).1 x
    · exact h
  · exact h

theorem affinityOffer (h : e.st.Paced timed ranged good now) (y q : Nat) :
    (e.affinityOffer y q).st.Paced timed ranged good now := by
  unfold Ev.affinityOffer
  split
  · exact h
  · rename_i c hc
    split
    · split
      · exact h.makeOffer hc _
      · exact h
    · exact h

theorem endOffer (h : s.Paced timed ranged good now) (y x : Nat) (o : OfferOutcome) :
    (s.endOffer y x o).Paced timed ranged good now := by
  have waiting : (s.updCall y fun c => { c with state := .waiting, offer := none }).Paced timed ranged good now :=
    h.updCall y (fun c _ k => k.edit rfl rfl (.inr rfl) (.inl rfl) (.inl rfl) id fun hs => nomatch hs) (fun _ _ => rfl)
      fun _ _ => id
  unfold State.endOffer
  dsimp only
  exact waiting.setAgent x fun k => (k.agents x).edit (.inl rfl) (.inl rfl) rfl

theorem withdrawFromCall (h : e.st.Paced timed ranged good now) (y : Nat) (c : Call) (o : CallOffer) (cause : Cause) :
    (e.withdrawFromCall y c o cause).st.Paced timed ranged good now := by
  unfold Ev.withdrawFromCall
  dsimp only
  refine settleWithdrawn (State.Paced.same ?_ (Ev.releaseReservation_terms _ _)) _ _
  refine State.Paced.same ?_ (Ev.cancelOffer_terms _ _ _ _)
  exact h.endOffer y o.agent .withdrawn

theorem withdrawFromAgent (h : e.st.Paced timed ranged good now) (y : Nat) (c : Call) (o : CallOffer) :
    (e.withdrawFromAgent y c o).st.Paced timed ranged good now := by
  unfold Ev.withdrawFromAgent
  dsimp only
  refine State.Paced.same ?_ (Ev.releaseReservation_terms _ _)
  refine State.Paced.same ?_ (Ev.cancelOffer_terms _ _ _ _)
  exact h.endOffer y o.agent .withdrawn

/-! ## Treatments -/

theorem changeSource (h : e.st.Paced timed ranged good now) (y : Nat) (c : Call) (source : Source) :
    (e.changeSource y c source).1.st.Paced timed ranged good now := by
  unfold Ev.changeSource
  split
  · exact (h.same (e.queueListen_terms _ _ _)).updTreatment y fun t d hd => .inl hd
  · dsimp only
    refine State.Paced.same ?_ (Ev.updLink_terms _ _ fun _ => rfl)
    exact h.updTreatment y fun t d hd => nomatch hd

/-- A treatment made for a WAITING or OFFERING call without an exit pending. -/
theorem startTreatment (h : e.st.Paced timed ranged good now) {c₀ : Call} (hc : e.st.call? y = some c₀)
    (owner : c.owner = c₀.owner) (timely : timed → e.st.Timely good now → e.st.CallTimely good y c) (waits : timed → c.state ≠ .connected)
    (stays : timed → c.exitPending = none) (source : Source) (last : Option Nat) :
    (e.startTreatment y c source last).1.st.Paced timed ranged good now := by
  unfold Ev.startTreatment
  dsimp only
  generalize ht : ({ bank := e.st.activeBank, pattern := (e.st.queue c.queue).config.pattern, step := 0, state := .running
                     deadline := none, loop := 0, source := source, lastProgramme := last, heldSource := none } : Treatment) = t
  have begun : ((e.st.setCall y { c with treatment := some t }).updRefs e.st.activeBank (· + 1)).Paced timed ranged good now := by
    refine State.Paced.same ?_ (.updRefs _ _ _)
    refine h.setCall y (fun hz k => ?_) fun _ k => k.fits_of_call hc owner fun _ => rfl
    refine { timely hz k with step := fun t' d hs hd => ?_, exiting := fun he => ?_, answered := fun hs => absurd hs (waits hz) }
    · cases hs
      subst ht
      cases hd
    · dsimp only at he
      rw [stays hz] at he
      cases he
  split
  · exact changeSource (e := e.upd _) begun y c _
  · exact begun
  · exact begun

/-- A call's first promotion deadline comes from the aging interval of its queue (R40). -/
theorem firstPromotion {q band : Nat} {f : Tick} (k : s.Timely good now)
    (hf : (s.queue q).config.firstPromotion band now = some f) :
    good .promotion y f ∧ (s.queue q).config.agingInterval ≠ 0 ∧ band < 7 := by
  have bounded : (s.queue q).config.agingInterval ≤ 65535 := (k.queues q).2.2.2.2.2.1
  unfold QueueConfig.firstPromotion at hf
  split at hf
  · rename_i ages
    cases hf
    exact ⟨k.fair.fresh _ _ _ (by omega) bounded, ages⟩
  · cases hf

/-- A call that enters a queue now, without treatment or pending exit. -/
theorem entered {q : Nat} (k : s.Timely good now) (queue : c.queue = q) (ring : ∀ o, c.offer = some o → good .ring y o.deadline)
    (promotion : c.promotion = (s.queue q).config.firstPromotion c.band now) (treatment : c.treatment = none)
    (stays : c.exitPending = none) : s.CallTimely good y c where
  ring := ring
  promotion f hf := (firstPromotion k (promotion ▸ hf)).1
  aging hp := by
    obtain ⟨f, hf⟩ := Option.isSome_iff_exists.1 hp
    rw [queue]
    exact (firstPromotion (y := y) k (promotion ▸ hf)).2
  step t f ht _ := by rw [treatment] at ht; cases ht
  exiting he := by rw [stays] at he; cases he
  answered _ := treatment

/-- A call placed in a queue's order, with its first promotion deadline, and its treatment begun (R47, R48). -/
theorem placed (h : e.st.Paced timed ranged good now) (timely : timed → e.st.Timely good now → e.st.CallTimely good y c)
    (fits : timed → e.st.Timely good now → e.st.DeferralFits y c) {d : Ev}
    (counts : ((e.upd fun s => s.setCall y c).joinOrder y c).st.SameTerms d.st) (waits : timed → c.state ≠ .connected)
    (stays : timed → c.exitPending = none) (source : Source) (last : Option Nat) :
    (d.startTreatment y c source last).1.st.Paced timed ranged good now := by
  have set : (e.upd fun s => s.setCall y c).st.Paced timed ranged good now := h.setCall y timely fits
  have joined := (set.joinOrder y c).same counts
  have call : d.st.call? y = some c := by
    rw [counts.call, Ev.joinOrder_call, Ev.upd_st, State.call?_setCall, if_pos rfl]
  exact joined.startTreatment call rfl (fun _ k => k.calls y c call) waits stays source last

theorem moveCall (h : e.st.Paced timed ranged good now) (hc : e.st.call? y = some c) (ht : c.treatment = some t)
    (p : Placement) : (e.moveCall y c t p).1.st.Paced timed ranged good now := by
  have waits : timed → c.exitPending = none ∧ c.state ≠ .connected := fun hz => by
    have timely := (h.timely hz).calls y c hc
    refine ⟨?_, fun hs => by rw [timely.answered hs] at ht; cases ht⟩
    cases he : c.exitPending with
    | none => rfl
    | some _ => rw [(timely.exiting (by simp [he])).2] at ht; cases ht
  have tick : timed → e.st.tick = now := fun hz => (h.timely hz).tick
  unfold Ev.moveCall
  dsimp only
  generalize hn : ({ c with
    queue := p.queue, entry := e.st.tick, redirects := p.redirects, treatment := none
    promotion := ((e.leaveOrder y c).st.queue p.queue).config.firstPromotion c.band e.st.tick } : Call) = n
  have counts := ((Ev.count_terms (((e.leaveOrder y c).upd fun s => s.setCall y n).joinOrder y n) c.queue .overflowedOut).trans
    (Ev.countPassed_terms _ p.passed)).trans (Ev.count_terms _ p.queue .offered)
  refine placed (h.leaveOrder y c) (fun hz k => ?_) (fun _ k => k.fits_of_untreated (e.leaveOrder_untreated y c) n) counts
    (fun hz => ?_) (fun hz => ?_) t.source t.lastProgramme
  all_goals subst hn
  · exact entered k rfl ((h.timely hz).calls y c hc).ring (by rw [tick hz]) rfl (waits hz).1
  · exact (waits hz).2
  · exact (waits hz).1

theorem finishTreatment (h : e.st.Paced timed ranged good now) (y : Nat) :
    (e.finishTreatment y).st.Paced timed ranged good now := h.updTreatment y fun _ _ hd => nomatch hd

theorem advanceStep (h : e.st.Paced timed ranged good now) (y : Nat) :
    (e.advanceStep y).st.Paced timed ranged good now := h.updTreatment y fun _ _ hd => .inl hd

theorem holdStep (h : e.st.Paced timed ranged good now) (y : Nat) :
    (e.holdStep y).st.Paced timed ranged good now := h.updTreatment y fun _ _ hd => nomatch hd

theorem timeless {done : Ev} (h : e.st.Paced timed ranged good now) (hd : done.st.Paced timed ranged good now) (count y : Nat) :
    (Machine.timeless count y e done).ev.st.Paced timed ranged good now := by
  unfold Machine.timeless
  split
  · exact hd
  · exact h.finishTreatment y

/-- A MUSIC or SILENCE step: its deadline comes from its duration. -/
theorem sourceStep (h : e.st.Paced timed ranged good now) (y : Nat) (c : Call) (t : Treatment) (last : Option Nat)
    (source : Source) {duration : Nat} (bounded : timed → duration ≤ 65535) :
    (e.sourceStep y c t last source duration).st.Paced timed ranged good now := by
  have heard : (e.upd fun s => s.updTreatment y fun t => { t with lastProgramme := last }).st.Paced timed ranged good now :=
    h.updTreatment y fun _ _ hd => .inl hd
  have begins : ∀ d : Ev, d.st.Paced timed ranged good now →
      (d.upd fun s => s.updTreatment y fun t => { t with
        state := .running, deadline := if duration = 0 then none else some (Tick.plus s.tick duration) }).st.Paced
          timed ranged good now := fun d hd => by
    refine hd.updTreatment y fun t f hf => .inr fun hz k => ?_
    dsimp only at hf
    split at hf
    · cases hf
    · cases hf
      rw [k.tick]
      exact k.fair.fresh _ _ _ (by omega) (bounded hz)
  unfold Ev.sourceStep
  dsimp only
  split
  · exact begins _ heard
  · split
    · exact begins _ (heard.changeSource y c source)
    · exact heard.changeSource y c source

theorem runOff (h : e.st.Paced timed ranged good now) (y : Nat) (c : Call) (t : Treatment) (n : Nat) :
    (e.runOff y c t n).st.Paced timed ranged good now := by
  unfold Ev.runOff
  split
  · dsimp only
    split
    · exact (h.changeSource y c _).finishTreatment y
    · exact h.changeSource y c _
  · refine finishTreatment ?_ y
    exact h.updTreatment y fun _ _ hd => .inl hd

theorem bindChannel (h : e.st.Paced timed ranged good now) (w : Highway) (ts y : Nat) (c : Call) (phrase : List Nat) :
    (e.bindChannel w ts y c phrase).st.Paced timed ranged good now := by
  unfold Ev.bindChannel
  dsimp only
  refine State.Paced.updTreatment ?_ y fun _ _ hd => .inl hd
  refine State.Paced.same ?_ (Ev.queueListen_terms _ _ _ _)
  exact h.same ((State.SameTerms.updUseCounts _ _ _).trans (.setChannel _ _ _ _))

theorem requestChannel (h : e.st.Paced timed ranged good now) (hc : e.st.call? y = some c) (ht : c.treatment = some t)
    (count : Nat) (phrase : List Nat) : (e.requestChannel count y c phrase).ev.st.Paced timed ranged good now := by
  unfold Ev.requestChannel
  split
  · exact h
  · rename_i w ho
    dsimp only
    split
    · exact h.bindChannel w _ y c phrase
    · split
      · exact (h.same (e.count_terms _ _)).advanceStep y
      · rename_i hl
        exact (h.joinDeferral w hc ho (by simp [ht]) hl).updTreatment y fun _ _ hd => .inl hd

theorem runStep (h : e.st.Paced timed ranged good now) (hc : e.st.call? y = some c) (ht : c.treatment = some t) (count : Nat) :
    (e.runStep count y c t).ev.st.Paced timed ranged good now := by
  unfold Ev.runStep
  dsimp only
  split
  · exact h.runOff y c t _
  · rename_i step hstep
    have bounded : timed → step.duration ≤ 65535 := fun hz =>
      (h.timely hz).steps t.bank t.pattern step (List.mem_of_getElem? hstep)
    split
    · exact h.sourceStep y c t _ _ bounded
    · exact h.sourceStep y c t _ _ bounded
    iterate 3
      split
      · exact h.timeless (h.advanceStep y) count y
      · exact h.requestChannel hc ht count _
    · refine h.timeless ?_ count y
      exact h.updTreatment y fun t d hd => .inl (by unfold Treatment.goto at hd; split at hd <;> exact hd)
    · exact h.timeless (advanceStep (e := e.upd _) (h.raiseCall hc _) y) count y
    · split
      · exact h.holdStep y
      · split
        · exact h.timeless (h.advanceStep y) count y
        · exact h.exitCall y c _
        · exact h.moveCall hc ht _
    · split
      · exact h.holdStep y
      · exact h.exitCall y c _

theorem runSteps (fuel : Nat) (h : e.st.Paced timed ranged good now) (count y : Nat) :
    (Ev.runSteps fuel count y e).st.Paced timed ranged good now := by
  induction fuel generalizing count e with
  | zero => exact h
  | succ fuel ih =>
    unfold Ev.runSteps
    split
    · exact h
    · rename_i c hc
      split
      · exact h
      · rename_i t ht
        have run := h.runStep hc ht count
        split
        · rename_i e' he; rw [he] at run; exact run
        · rename_i n e' he; rw [he] at run; exact ih run n
        · rename_i q runs e' he
          rw [he] at run
          refine queueAttempts ?_ q
          split
          · exact ih run 0
          · exact run

theorem treatmentEvent (h : e.st.Paced timed ranged good now) (y : Nat) :
    (e.treatmentEvent y).st.Paced timed ranged good now := h.runSteps _ _ y

theorem completePhrase (h : e.st.Paced timed ranged good now) (y : Nat) :
    (e.completePhrase y).st.Paced timed ranged good now := (h.advanceStep y).treatmentEvent y

theorem runHeldStep (h : e.st.Paced timed ranged good now) (y : Nat) :
    (e.runHeldStep y).st.Paced timed ranged good now := by
  unfold Ev.runHeldStep
  split
  · exact h
  · split
    · split
      · exact h.treatmentEvent y
      · exact h
    · exact h

theorem queueReturn (h : e.st.Paced timed ranged good now) (y : Nat) (c : Call) (t : Treatment) (w : Highway) (ts : Nat) :
    (e.queueReturn y c t w ts).st.Paced timed ranged good now := by
  unfold Ev.queueReturn
  dsimp only
  refine completePhrase ?_ y
  refine State.Paced.updTreatment ?_ y fun _ _ hd => .inl hd
  exact (h.same (e.queueListen_terms _ _ _)).same (State.drainChannel_terms _ _ _)

theorem endPhrase (h : e.st.Paced timed ranged good now) (w : Highway) (ts y : Nat) (c : Call) (t : Treatment) :
    (e.endPhrase w ts y c t).st.Paced timed ranged good now := by
  have bare : ∀ gs f ch, ((e.st.updUseCounts gs f).setChannel w ts ch).Paced timed ranged good now := fun gs f ch =>
    h.same ((State.SameTerms.updUseCounts _ _ _).trans (.setChannel _ _ _ _))
  unfold Ev.endPhrase
  dsimp only
  split
  · refine queueReturn ?_ y c t w ts
    exact bare _ _ _
  · refine State.Paced.same ?_ (Ev.updLink_terms _ _ fun _ => rfl)
    refine State.Paced.updTreatment ?_ y fun _ _ hd => .inl hd
    exact bare _ _ _

/-! ## Grants and waiting work -/

theorem grantHead (h : e.st.Paced timed ranged good now) (w : Highway) {d : Ev} (hd : e.grantHead w = some d) :
    d.st.Paced timed ranged good now := by
  unfold Ev.grantHead at hd
  split at hd
  · split at hd
    · dsimp only at hd
      have left := fun y => h.leaveDeferral w y
      split at hd
      · cases hd; exact left _
      · split at hd
        · cases hd; exact left _
        · split at hd
          all_goals
            split at hd
            · cases hd
              refine completePhrase ?_ _
              exact left _
            · cases hd
              refine bindChannel ?_ w _ _ _ _
              exact left _
    · cases hd
  · cases hd

theorem grants (h : e.st.Paced timed ranged good now) (w : Highway) : (e.grants w).st.Paced timed ranged good now := by
  unfold Ev.grants
  generalize 65536 = fuel
  induction fuel generalizing e with
  | zero => exact h
  | succ fuel ih =>
    unfold Ev.grantLoop
    split
    · rename_i d hd; exact ih (h.grantHead w hd)
    · exact h

theorem completeExit (h : e.st.Paced timed ranged good now) (l : Link) (y : Nat) :
    (e.completeExit l y).st.Paced timed ranged good now := by
  have taken : (e.updLink l fun r => { r with exitOrder := r.exitOrder.filter (· != y) }).st.Paced timed ranged good now :=
    h.same (e.updLink_terms l fun _ => rfl)
  unfold Ev.completeExit
  dsimp only
  split
  · exact taken
  · split
    · exact taken
    · exact (taken.same (Ev.queueNotice_terms _ _ _)).removeCall y _ _

theorem exitStage (l : Link) (fuel : Nat) (h : e.st.Paced timed ranged good now) :
    (Ev.exitStage l fuel e).st.Paced timed ranged good now := by
  induction fuel generalizing e with
  | zero => exact h
  | succ fuel ih =>
    unfold Ev.exitStage
    split
    · exact h
    · split
      · exact ih (h.completeExit l _)
      · exact h

theorem takeHeldListen (h : e.st.Paced timed ranged good now) (l : Link) (y : Nat) :
    (e.takeHeldListen l y).st.Paced timed ranged good now := by
  have taken : (e.updLink l fun r => { r with listenOrder := r.listenOrder.filter (· != y) }).st.Paced timed ranged good now :=
    h.same (e.updLink_terms l fun _ => rfl)
  unfold Ev.takeHeldListen
  dsimp only
  split
  · exact taken
  · split
    · exact taken
    · unfold Ev.queueHeldListen
      split
      · exact (taken.changeSource y _ _).treatmentEvent y
      · exact taken.queueReturn y _ _ _ _
      · exact taken

theorem listenStage (l : Link) (fuel : Nat) (h : e.st.Paced timed ranged good now) :
    (Ev.listenStage l fuel e).st.Paced timed ranged good now := by
  induction fuel generalizing e with
  | zero => exact h
  | succ fuel ih =>
    unfold Ev.listenStage
    split
    · exact h
    · split
      · exact ih (h.takeHeldListen l _)
      · exact h

theorem attemptStage (h : e.st.Paced timed ranged good now) (l : Link) :
    (e.attemptStage l).st.Paced timed ranged good now :=
  foldl (fun e q he => by
    split
    · exact he.queueAttempts q
    · exact he) _ e h

theorem resumeWork (h : e.st.Paced timed ranged good now) (l : Link) : (e.resumeWork l).st.Paced timed ranged good now := by
  unfold Ev.resumeWork
  split
  · exact h
  · exact ((listenStage l _ (exitStage l _ h)).grants _).attemptStage l

theorem finish (h : e.st.Paced timed ranged good now) : e.finish.Paced timed ranged good now := by
  have resumed : ∀ (p : Bool) (d : Ev) (l : Link), d.st.Paced timed ranged good now →
      (if p = true then d.resumeWork l else d).st.Paced timed ranged good now := fun p d l hd => by
    split
    · exact hd.resumeWork l
    · exact hd
  exact (resumed _ _ .b (resumed _ _ .a h)).same (Ev.deliverOffered_terms _)

end State.Paced

end

end Sys2Proof.Machine
end

section
/-!
PROOF. The deadlines and handle times under the services of requests and the loss of a link.
-/
namespace Sys2Proof.Machine

open Sys2Proof

theorem readLogin_penalty {body : List Byte} {b : LoginBody} (h : readLogin body = some b) : b.penalty ≤ 65535 := by
  unfold readLogin at h
  dsimp only at h
  split at h
  · obtain ⟨_, _, rfl⟩ := Option.map_eq_some_iff.1 h
    exact u16_le _ _
  · cases h

theorem readUpdate_penalty {body : List Byte} {b : UpdateBody} (h : readUpdate body = some b) :
    ∀ n, b.penalty = some n → n ≤ 65535 := by
  intro n hn
  unfold readUpdate at h
  dsimp only at h
  split at h
  · obtain ⟨_, _, rfl⟩ := Option.map_eq_some_iff.1 h
    dsimp only at hn
    split at hn
    · cases hn; exact u16_le _ _
    · cases hn
  · cases h

/-- What a connection does beyond its records (R72). -/
theorem Ev.connect_terms (e : Ev) (y : Nat) (c : Call) (x : Nat) (a : Agent) (token : Token) :
    (e.joinPair y c x a).st.SameTerms (e.connect y c x a token).st := by
  have pushed : ∀ (d : Ev) (p : Prop) [Decidable p] (f : State → List RecentEntry),
      d.st.SameTerms (if p then d.upd fun s => { s with recent := f s } else d).st := fun d p _ f => by
    split
    · exact State.SameTerms.setRecent d.st _
    · exact .refl _
  have inService : ∀ (d : Ev) (p : Prop) [Decidable p],
      d.st.SameTerms (if p then d.count c.queue .answeredInService else d).st := fun d p _ => by
    split
    · exact d.count_terms _ _
    · exact .refl _
  unfold Ev.connect
  dsimp only
  change (e.joinPair y c x a).st.SameTerms _
  generalize hd : (((e.joinPair y c x a).useReservation c.owner
    (.connect y c.ref token x a.id a.home c.queue)).releaseHome x).count c.queue .answered = d
  have answered : (e.joinPair y c x a).st.SameTerms d.st := by
    rw [← hd]
    exact ((Ev.useReservation_terms _ _ _).trans (Ev.releaseHome_terms _ _)).trans (Ev.count_terms _ _ _)
  have shape : (((((e.leaveOrder y c).upd fun s => s.updCall y fun c =>
      { c with state := .connected, offer := none, agent := some x, connectTick := some e.st.tick }).putAgent x
        { a with state := .busy, call := some y, offer := none, miss := 0, lastOutcome := some .accepted } .request).useReservation
          c.owner (.connect y c.ref token x a.id a.home c.queue)).releaseHome x).count c.queue .answered = d := hd
  rw [shape]
  have timely := inService d (Tick.elapsed e.st.tick c.entry ≤ (d.st.queue c.queue).config.serviceThreshold)
  generalize (if Tick.elapsed e.st.tick c.entry ≤ (d.st.queue c.queue).config.serviceThreshold then
    d.count c.queue .answeredInService else d) = f at timely ⊢
  refine answered.trans (timely.trans ?_)
  split
  · exact .refl _
  · exact pushed _ _ _

section
variable {timed ranged : Prop} {good : Clock → Nat → Tick → Prop} {now : Tick} {s u : State} {e : Ev} {c d : Call}
  {x y : Nat} {t : Treatment} {o : CallOffer} {out : OfferOutcome}

namespace State.Paced

theorem replied (h : e.st.Paced timed ranged good now) (l : Link) (r : Request) (status : Status) (result : Result) :
    (e.reply l r status result).st.Paced timed ranged good now := h.same (e.reply_terms l r status result)

/-! ## Calls -/

theorem enterCall (h : e.st.Paced timed ranged good now) (hn : e.st.call? y = none) (l : Link) (r : Request) (b : CallEnterBody)
    (p : Placement) : (e.enterCall l r b y p).st.Paced timed ranged good now := by
  have tick : timed → e.st.tick = now := fun hz => (h.timely hz).tick
  unfold Ev.enterCall
  dsimp only
  generalize hc : newCall l b p (e.st.queue p.queue).config e.st.tick = c
  have counts := ((Ev.count_terms ((e.upd fun s => s.setCall y c).joinOrder y c) p.queue .offered).trans
    (Ev.countPassed_terms _ p.passed)).trans (Ev.reply_terms _ l r .done
      (.entered y p.queue ((((e.upd fun s => s.setCall y c).joinOrder y c).count p.queue .offered).countPassed p.passed |>.st.position y c)
        ((((((e.upd fun s => s.setCall y c).joinOrder y c).count p.queue .offered).countPassed p.passed).st.queue p.queue).ewt
          ((((e.upd fun s => s.setCall y c).joinOrder y c).count p.queue .offered).countPassed p.passed |>.st.position y c))))
  refine queueAttempts (affinityOffer (treatmentEvent ?_ y) y p.queue) p.queue
  refine placed h (fun hz k => ?_) (fun _ k => ?_) counts (fun _ => ?_) (fun _ => ?_) .none none
  · subst hc
    exact entered k rfl (fun o ho => nomatch ho) (by rw [tick hz]; rfl) rfl rfl
  · exact k.fits_of_untreated (fun d hd => by rw [hn] at hd; cases hd) c
  · subst hc; exact CallState.noConfusion
  · subst hc; rfl

theorem serveWithdraw (h : e.st.Paced timed ranged good now) (l : Link) (r : Request) (y : Nat) (c : Call) :
    (e.serveWithdraw l r y c).st.Paced timed ranged good now := by
  unfold Ev.serveWithdraw
  split
  · exact h.replied l r _ _
  · exact (h.replied l r _ _).removeCall y c _
  · dsimp only
    split
    · exact (h.replied l r _ _).removeCall y c _
    · exact (((h.replied l r _ _).withdrawFromCall y c _ _).removeCall y c _).agentAttempt _

/-- A connected call's slot is freed. -/
theorem freeConnected (h : s.Paced timed ranged good now) (hc : s.call? y = some c) (hs : c.state = .connected) :
    (s.freeCall y).Paced timed ranged good now :=
  h.freeCall y fun k d hd => by
    rw [hc] at hd
    cases hd
    exact (k.calls y c hc).answered hs

theorem serveRelease (h : e.st.Paced timed ranged good now) (hc : e.st.call? y = some c) (l : Link) (r : Request) :
    (e.serveRelease l r y c).st.Paced timed ranged good now := by
  unfold Ev.serveRelease
  split
  · exact h.replied l r _ _
  · exact h.replied l r _ _
  · rename_i hs
    have freed : ((e.reply l r .done .bare).upd fun s => s.freeCall y).st.Paced timed ranged good now :=
      (h.replied l r .done .bare).freeConnected (((e.reply_terms l r .done .bare).call y).trans hc) hs
    dsimp only
    split
    · exact (freed.startWrap _ _ _ _).agentAttempt _
    · exact freed

/-! ## Agents -/

theorem serveLogin (h : e.st.Paced timed ranged good now) (l : Link) (r : Request) {b : LoginBody}
    (hb : b.penalty ≤ 65535) : (e.serveLogin l r b).st.Paced timed ranged good now := by
  unfold Ev.serveLogin
  dsimp only
  split
  · split
    · exact h.replied l r _ _
    · split
      · refine (h.replied l r _ _).putAgent b.slot .request fun k => ?_
        have timely := k.agents b.slot
        rw [(e.reply_terms l r _ _).agent] at timely
        refine { timely with penalized := fun d hd => (nomatch hd), failure := k.fair.fresh _ _ _ ?_ ?_, penalty := ?_ }
        · exact Nat.le_max_left _ _
        · exact Nat.max_le.2 ⟨by omega, hb⟩
        · exact Nat.max_le.2 ⟨by omega, hb⟩
      · exact h.replied l r _ _
  · exact h.replied l r _ _

/-- An agent request that edits no wrap-up, penalty or penalty deadline, beyond ending the last. -/
theorem putEdited (h : e.st.Paced timed ranged good now) (l : Link) (r : Request) (result : Result) (x : Nat) {a : Agent}
    (cause : Cause) (wrap : a.wrap = (e.st.agent x).wrap)
    (penalized : a.penaltyDeadline = (e.st.agent x).penaltyDeadline ∨ a.penaltyDeadline = none)
    (penalty : a.penalty = (e.st.agent x).penalty) :
    ((e.reply l r .done result).putAgent x a cause).st.Paced timed ranged good now
      ∧ ((e.reply l r .done result).putAgentAtTail x a cause).st.Paced timed ranged good now
      ∧ ((e.reply l r .done result).upd fun s => s.setAgent x a).st.Paced timed ranged good now := by
  have timely : (e.reply l r .done result).st.Timely good now → AgentTimely good now x a := fun k => by
    have timely := k.agents x
    rw [(e.reply_terms l r _ _).agent] at timely
    exact timely.edit (.inl wrap) penalized penalty
  exact ⟨(h.replied l r _ _).putAgent x cause timely, (h.replied l r _ _).putAgentAtTail x cause timely,
    (h.replied l r _ _).setAgent x timely⟩

theorem serveReady (h : e.st.Paced timed ranged good now) (l : Link) (r : Request) (x : Nat) :
    (e.serveReady l r x (e.st.agent x)).st.Paced timed ranged good now := by
  have edited : ∀ a : Agent, (a.ready e.st.tick).wrap = a.wrap
      ∧ ((a.ready e.st.tick).penaltyDeadline = a.penaltyDeadline ∨ (a.ready e.st.tick).penaltyDeadline = none)
      ∧ (a.ready e.st.tick).penalty = a.penalty := fun a => by
    unfold Agent.ready
    split
    case h_1 | h_2 => exact ⟨rfl, .inr rfl, rfl⟩
    case h_3 | h_4 | h_5 => split <;> exact ⟨rfl, .inl rfl, rfl⟩
    case h_6 | h_7 => exact ⟨rfl, .inl rfl, rfl⟩
  obtain ⟨wrap, penalized, penalty⟩ := edited (e.st.agent x)
  obtain ⟨_, atTail, set⟩ := h.putEdited l r (((e.st.agent x).ready e.st.tick).result x) x .request wrap penalized penalty
  unfold Ev.serveReady
  dsimp only
  split
  · exact h.replied l r _ _
  · exact atTail.agentAttempt x
  · exact atTail.agentAttempt x
  · exact h.replied l r _ _
  · exact set
  · exact set
  · exact set

theorem serveNotReady (h : e.st.Paced timed ranged good now) (l : Link) (r : Request) (x reason : Nat) (cause : Cause) :
    (e.serveNotReady l r x reason cause (e.st.agent x)).st.Paced timed ranged good now := by
  have edited : ∀ a : Agent, (a.notReady reason).wrap = a.wrap
      ∧ ((a.notReady reason).penaltyDeadline = a.penaltyDeadline ∨ (a.notReady reason).penaltyDeadline = none)
      ∧ (a.notReady reason).penalty = a.penalty := fun a => by
    unfold Agent.notReady
    dsimp only
    split
    case h_3 => exact ⟨rfl, .inr rfl, rfl⟩
    case h_4 | h_5 | h_6 => split <;> exact ⟨rfl, .inl rfl, rfl⟩
    all_goals exact ⟨rfl, .inl rfl, rfl⟩
  obtain ⟨wrap, penalized, penalty⟩ := edited (e.st.agent x)
  unfold Ev.serveNotReady
  dsimp only
  split
  · exact h.replied l r _ _
  · exact (h.putEdited l r _ x cause wrap penalized penalty).1

theorem serveUpdate (h : e.st.Paced timed ranged good now) (l : Link) (r : Request) {b : UpdateBody}
    (hb : ∀ n, b.penalty = some n → n ≤ 65535) :
    (e.serveUpdate l r b (e.st.agent b.slot)).st.Paced timed ranged good now := by
  have put : ∀ result, ((e.reply l r .done result).putAgent b.slot ((e.st.agent b.slot).update b) .request).st.Paced
      timed ranged good now := fun result => by
    refine (h.replied l r _ _).putAgent b.slot .request fun k => ?_
    have timely := k.agents b.slot
    rw [(e.reply_terms l r _ _).agent] at timely
    cases hp : b.penalty with
    | none => exact timely.edit (.inl rfl) (.inl rfl) (by simp [Agent.update, hp])
    | some n =>
      have penalty : ((e.st.agent b.slot).update b).penalty = max 1 n := by simp [Agent.update, hp]
      have bound : max 1 n ≤ 65535 := Nat.max_le.2 ⟨by omega, hb n hp⟩
      exact { timely with
        failure := by rw [penalty]; exact k.fair.fresh _ _ _ (Nat.le_max_left _ _) bound
        penalty := by rw [penalty]; exact bound }
  unfold Ev.serveUpdate
  dsimp only
  split
  · exact h.replied l r _ _
  · split
    · exact (put _).agentAttempt b.slot
    · exact put _

/-- An extension leaves the deadline within what has then been granted (R88). -/
theorem serveWrapExtend (h : e.st.Paced timed ranged good now) (soon : ∀ k x d, (d - now).toNat ≤ 131070 → good k x d)
    (l : Link) (r : Request) (b : ExtendBody) :
    (e.serveWrapExtend l r b (e.st.agent b.slot)).st.Paced timed ranged good now := by
  unfold Ev.serveWrapExtend
  split
  · rename_i w hs hw
    refine (h.replied l r _ _).setAgent b.slot fun k => ?_
    have timely := k.agents b.slot
    rw [(e.reply_terms l r _ _).agent] at timely
    have bounded : (e.st.queue w.queue).config.maxExtension ≤ 65535 := by
      have q := (k.queues w.queue).2.2.2.1
      rwa [(e.reply_terms l r _ _).config] at q
    obtain ⟨granted, ahead⟩ := timely.extension w hw
    have grant : w.granted + w.grant (e.st.queue w.queue).config.maxExtension b.requested ≤ 65535 := by
      unfold WrapRecord.grant
      split <;> omega
    have later : (Tick.plus w.deadline (w.grant (e.st.queue w.queue).config.maxExtension b.requested) - now).toNat
        ≤ 65535 + (w.granted + w.grant (e.st.queue w.queue).config.maxExtension b.requested) := by
      generalize w.grant (e.st.queue w.queue).config.maxExtension b.requested = n at grant
      have shifted : Tick.plus w.deadline n - now = (w.deadline - now) + BitVec.ofNat 32 n := by
        unfold Tick.plus
        abel
      rw [shifted, BitVec.toNat_add, BitVec.toNat_ofNat]
      omega
    exact { timely with
      wrap := fun w' hw' => by cases hw'; exact soon _ _ _ (by dsimp only; omega)
      extension := fun w' hw' => by cases hw'; exact ⟨grant, later⟩ }
  · exact h.replied l r _ _

/-! ## Logout -/

theorem afterOffer (h : e.st.Paced timed ranged good now) (y q x : Nat) :
    (e.afterOffer y q x).st.Paced timed ranged good now := ((h.runHeldStep y).queueAttempts q).agentAttempt x

/-- A call loses its agent. -/
theorem unserve (h : s.Paced timed ranged good now) (o : Option Nat) :
    (match o with
      | some y => s.updCall y fun r => { r with agent := none }
      | none => s).Paced timed ranged good now := by
  split
  · exact h.updCall _ (fun c _ k => k.edit rfl rfl (.inl rfl) (.inl rfl) (.inl rfl) id .inl) (fun _ _ => rfl) fun _ _ => id
  · exact h

theorem logoutNow (h : e.st.Paced timed ranged good now) (x : Nat) (cause : Cause) :
    (e.logoutNow x cause).st.Paced timed ranged good now := by
  have unserved : (e.upd fun s => match (e.st.agent x).call with
      | some c => s.updCall c fun r => { r with agent := none }
      | none => s).st.Paced timed ranged good now := h.unserve _
  unfold Ev.logoutNow
  dsimp only
  split
  · exact unserved.completeLogout x cause
  · split
    · split
      · exact ((unserved.withdrawFromAgent _ _ _).completeLogout x cause).afterOffer _ _ x
      · exact unserved.completeLogout x cause
    · exact unserved.completeLogout x cause

theorem serveLogout (h : e.st.Paced timed ranged good now) (l : Link) (r : Request) (x : Nat) (cause : Cause) :
    (e.serveLogout l r x cause (e.st.agent x)).st.Paced timed ranged good now := by
  have out : (e.replyAndLogout l r x cause).st.Paced timed ranged good now := (h.replied l r _ _).logoutNow x cause
  have pended := fun result => (h.putEdited l r result x (a := { e.st.agent x with pending := .logout }) cause rfl (.inl rfl) rfl).2.2
  unfold Ev.serveLogout
  split
  · exact h.replied l r _ _
  · exact out
  · exact out
  · exact out
  · exact out
  · exact pended _
  · exact pended _

/-! ## Answers to an offer -/

theorem connect (h : e.st.Paced timed ranged good now) (hc : e.st.call? y = some c) (x : Nat) (token : Token) :
    (e.connect y c x (e.st.agent x) token).st.Paced timed ranged good now := by
  refine State.Paced.same ?_ (e.connect_terms y c x (e.st.agent x) token)
  unfold Ev.joinPair
  refine putAgent ?_ x .request fun k => ?_
  · exact (h.leaveOrder y c).updCall y (fun d hd k => k.edit rfl rfl (.inr rfl) (.inl rfl) (.inl rfl) id fun _ =>
      .inr (e.leaveOrder_untreated y c d hd)) (fun _ _ => rfl) fun _ _ => id
  · have timely := k.agents x
    rw [Ev.upd_st, State.updCall_agent, (Ev.leaveOrder_left hc).agent] at timely
    exact timely.edit (.inl rfl) (.inl rfl) rfl

/-- What follows when an offer has been ended by its agent's failure, where a miss may make the agent's penalty a deadline. -/
theorem failOffer_ended (ended : (e.st.endOffer y o.agent out).Paced timed ranged good now)
    (fails : ∀ d, good .failure o.agent d → good .penalty o.agent d) (c : Call) (cause : Cause) :
    (e.failOffer y c o out cause).st.Paced timed ranged good now := by
  rw [← Ev.upd_st e fun s => s.endOffer y o.agent out] at ended
  unfold Ev.failOffer
  dsimp only
  generalize (e.upd fun s => s.endOffer y o.agent out) = d at ended ⊢
  have told : (if out = .expired then d.cancelOffer o y .ringExpired else d.releaseHome o.agent).st.Paced
      timed ranged good now := by
    split
    · exact ended.same (d.cancelOffer_terms _ _ _)
    · exact ended.same (d.releaseHome_terms _)
  refine afterOffer (settleFailed (State.Paced.same (chargeRedirect ?_ y) (Ev.count_terms _ _ _)) _ _ fails) _ _ _
  exact told.same (Ev.releaseReservation_terms _ _)

theorem failOffer (h : e.st.Paced timed ranged good now) (fails : ∀ d, good .failure o.agent d → good .penalty o.agent d)
    (y : Nat) (c : Call) (out : OfferOutcome) (cause : Cause) :
    (e.failOffer y c o out cause).st.Paced timed ranged good now := failOffer_ended (h.endOffer y o.agent out) fails c cause

/-! ## The loss of a link -/

theorem loseCall (h : e.st.Paced timed ranged good now) (l : Link) (y : Nat) :
    (Ev.loseCall l e y).st.Paced timed ranged good now := by
  unfold Ev.loseCall
  split
  · exact h
  · rename_i c hc
    split
    · exact h.removeCall y c _
    · dsimp only
      refine removeCall ?_ y c _
      split
      · exact h
      · split
        · exact h.endOffer _ _ _
        · exact h.withdrawFromCall _ _ _ _
    · rename_i hs
      have freed : (e.upd fun s => s.freeCall y).st.Paced timed ranged good now := h.freeConnected hc hs
      dsimp only
      split
      · split
        · exact freed
        · exact freed.startWrap _ _ _ _
      · exact freed

theorem loseAgent (h : e.st.Paced timed ranged good now) (x : Nat) : (e.loseAgent x).st.Paced timed ranged good now := by
  have unserved : (e.upd fun s => match (e.st.agent x).call with
      | some c => s.updCall c fun r => { r with agent := none }
      | none => s).st.Paced timed ranged good now := h.unserve _
  unfold Ev.loseAgent
  dsimp only
  refine completeLogout ?_ x _
  split
  · exact unserved
  · split
    · exact unserved
    · refine State.Paced.same ?_ (Ev.releaseReservation_terms _ _)
      exact unserved.endOffer _ _ _

theorem loseSwitchingLink (h : e.st.Paced timed ranged good now) (l : Link) (w : Highway) :
    (e.loseSwitchingLink l w).st.Paced timed ranged good now := by
  have calls := foldl (fun e y he => he.loseCall l y) (e.st.ownedCalls l) e h
  have drained := calls.drainHighway w
  unfold Ev.loseSwitchingLink
  dsimp only
  refine foldl (fun e x he => he.agentAttempt x) _ _ ?_
  refine foldl (fun e q he => he.queueAttempts q) _ _ ?_
  refine foldl (fun e r he => he.runHeldStep r.1) _ _ ?_
  exact foldl (fun e x he => he.loseAgent x) _ _ drained

end State.Paced

end

end Sys2Proof.Machine
end

section
/-!
PROOF. QUEUE_SET: what its effects on its queue do to the records, and what they leave of the deadlines and handle times (R32, R34).
-/
namespace Sys2Proof.Machine

open Sys2Proof

/-! ## The promotion deadlines set anew -/

/-- The promotion deadlines of the calls listed, set anew (R34). -/
def State.reageOrder (old new : Nat) (ys : List Nat) (s : State) : State :=
  ys.foldl (fun s y => s.updCall y fun c => c.reaged old new s.tick) s

theorem Call.reaged_reaged (c : Call) (old new : Nat) (now : Tick) :
    (c.reaged old new now).reaged old new now = c.reaged old new now := by
  unfold Call.reaged
  by_cases top : Config.topBand ≤ c.band ∨ c.exitPending.isSome = true
  · simp [top]
  · by_cases off : new = 0
    · simp [top, off]
    · by_cases on : old = 0 <;> simp [top, off, on]

theorem State.reageOrder_calls (old new : Nat) (ys : List Nat) (s : State) :
    s.reageOrder old new ys = { s with calls := (s.reageOrder old new ys).calls } := by
  induction ys generalizing s with
  | nil => rfl
  | cons y ys ih =>
    have head : s.updCall y (fun c => c.reaged old new s.tick)
        = { s with calls := (s.updCall y fun c => c.reaged old new s.tick).calls } := by
      unfold State.updCall
      split <;> rfl
    have tail := ih (s.updCall y fun c => c.reaged old new s.tick)
    change (s.updCall y fun c => c.reaged old new s.tick).reageOrder old new ys = _ at tail
    show (s.updCall y fun c => c.reaged old new s.tick).reageOrder old new ys
      = { s with calls := ((s.updCall y fun c => c.reaged old new s.tick).reageOrder old new ys).calls }
    generalize (s.updCall y fun c => c.reaged old new s.tick) = u at head tail
    rw [tail, head]

theorem State.reageOrder_call (old new : Nat) (ys : List Nat) (s : State) (z : Nat) :
    (s.reageOrder old new ys).call? z = if z ∈ ys then (s.call? z).map fun c => c.reaged old new s.tick else s.call? z := by
  induction ys generalizing s with
  | nil => simp [State.reageOrder]
  | cons y ys ih =>
    have tail := ih (s.updCall y fun c => c.reaged old new s.tick)
    rw [State.call?_updCall, State.updCall_tick] at tail
    show ((s.updCall y fun c => c.reaged old new s.tick).reageOrder old new ys).call? z = _
    rw [tail]
    by_cases hy : y = z
    · subst hy
      simp only [if_true, List.mem_cons, true_or, Option.map_map]
      split
      · exact congrArg (fun f => Option.map f (s.call? y)) (funext fun c => c.reaged_reaged old new s.tick)
      · rfl
    · simp [hy, Ne.symm hy]

/-! ## The configuration stored -/

theorem clamp_le {low high : Nat} (n : Nat) (h : low ≤ high) : clamp low high n ≤ high :=
  Nat.max_le.2 ⟨h, Nat.min_le_left _ _⟩

theorem le_clamp (low high n : Nat) : low ≤ clamp low high n := Nat.le_max_left _ _

/-- A masked field or the one stored. -/
theorem Option.getD_of {α : Type} {p : α → Prop} {o : Option α} {d : α} (h : ∀ a, o = some a → p a) (hd : p d) :
    p (o.getD d) := by
  cases o with
  | none => exact hd
  | some a => exact h a rfl

/-- The durations of a QUEUE_SET's body are two-byte numbers. -/
structure QueueSetBody.Bounded (b : QueueSetBody) : Prop where
  wrapLimit : ∀ n, b.wrapLimit = some n → n ≤ 65535
  maxExtension : ∀ n, b.maxExtension = some n → n ≤ 65535
  serviceThreshold : ∀ n, b.serviceThreshold = some n → n ≤ 65535
  agingInterval : ∀ n, b.agingInterval = some n → n ≤ 65535
  initialHandle : ∀ n, b.initialHandle = some n → n ≤ 65535

theorem readQueueSet_bounded {body : List Byte} {b : QueueSetBody} (h : readQueueSet body = some b) : b.Bounded := by
  have masked : ∀ (p : Bool) (i n : Nat), (if p = true then some (u16 body i) else none) = some n → n ≤ 65535 := by
    intro p i n hn
    split at hn
    · cases hn; exact u16_le body i
    · cases hn
  unfold readQueueSet at h
  dsimp only at h
  split at h
  · split at h
    · cases h
      exact ⟨masked _ 7, masked _ 9, masked _ 11, masked _ 13, masked _ 27⟩
    · cases h
  · cases h

theorem QueueConfig.Bounded.set {c : QueueConfig} {b : QueueSetBody} (h : c.Bounded) (hb : b.Bounded) :
    (c.set b).Bounded := by
  obtain ⟨low, high, wrap, extension, threshold, aging, wait⟩ := h
  refine ⟨?_, ?_, Option.getD_of hb.wrapLimit wrap, Option.getD_of hb.maxExtension extension,
    Option.getD_of hb.serviceThreshold threshold, Option.getD_of hb.agingInterval aging, ?_⟩
  · refine Option.getD_of (p := fun n => 10 ≤ n) (fun n hn => ?_) low
    obtain ⟨m, _, rfl⟩ := Option.map_eq_some_iff.1 hn
    exact le_clamp _ _ _
  · refine Option.getD_of (p := fun n => n ≤ 600) (fun n hn => ?_) high
    obtain ⟨m, _, rfl⟩ := Option.map_eq_some_iff.1 hn
    exact clamp_le _ (by omega)
  · refine Option.getD_of (p := fun o : Option Nat => ∀ w, o = some w → w ≤ 65535) (fun o ho w hw => ?_) wait
    obtain ⟨m, _, rfl⟩ := Option.map_eq_some_iff.1 ho
    obtain ⟨n, _, rfl⟩ := Option.map_eq_some_iff.1 hw
    exact (clamp_le n (by omega : 1 ≤ 65534)).trans (by omega)

theorem Queue.HandleInRange.set {r r' : Queue} {b : QueueSetBody} (h : r.HandleInRange) (hb : b.Bounded)
    (config : r'.config = r.config.set b) (aht : r'.aht = r.aht ∨ r'.aht = (r.config.set b).initialHandle * 16) :
    r'.HandleInRange := by
  obtain ⟨shiftLow, shiftHigh, handleLow, handleHigh, ahtLow, ahtHigh⟩ := h
  have shift : 1 ≤ (r.config.set b).shift ∧ (r.config.set b).shift ≤ 8 := by
    refine Option.getD_of (p := fun n => 1 ≤ n ∧ n ≤ 8) (fun n hn => ?_) ⟨shiftLow, shiftHigh⟩
    obtain ⟨m, _, rfl⟩ := Option.map_eq_some_iff.1 hn
    exact ⟨le_clamp _ _ _, clamp_le _ (by omega)⟩
  have handle : 1 ≤ (r.config.set b).initialHandle ∧ (r.config.set b).initialHandle ≤ 65535 := by
    refine Option.getD_of (p := fun n => 1 ≤ n ∧ n ≤ 65535) (fun n hn => ?_) ⟨handleLow, handleHigh⟩
    obtain ⟨m, hm, rfl⟩ := Option.map_eq_some_iff.1 hn
    exact ⟨Nat.le_max_left _ _, Nat.max_le.2 ⟨by omega, hb.initialHandle m hm⟩⟩
  unfold Queue.HandleInRange
  rw [config]
  refine ⟨shift.1, shift.2, handle.1, handle.2, ?_⟩
  rcases aht with aht | aht <;> rw [aht]
  · exact ⟨ahtLow, ahtHigh⟩
  · omega

/-! ## The effects on the queue -/

section
variable {e : Ev} {s : State} {b : QueueSetBody} {q : Nat}

theorem Ev.evalClosing_tells (e : Ev) (q : Nat) : e.Tells (e.evalClosing q) := by
  unfold Ev.evalClosing
  dsimp only
  split
  · exact (Ev.Tells.upd _ _).trans (.offer _ _ _)
  · exact .refl e

theorem Ev.evalClosing_frame (e : Ev) (q : Nat) : (e.evalClosing q).st = { e.st with queues := (e.evalClosing q).st.queues } := by
  unfold Ev.evalClosing
  dsimp only
  split <;> rfl

/-- A queue closes when its count is at or above its upper threshold. -/
theorem Ev.evalClosing_queue (e : Ev) (q p : Nat) : (e.evalClosing q).st.queue p = if q = p then
    { e.st.queue q with closed := (e.st.queue q).closed || decide ((e.st.queue q).config.upper ≤ (e.st.queue q).order.length) }
    else e.st.queue p := by
  unfold Ev.evalClosing
  dsimp only
  split
  · rename_i h
    show (e.st.setQueue q _).queue p = _
    rw [State.queue_setQueue, h.1, decide_eq_true h.2]
    rfl
  · rename_i h
    split
    · rename_i hp
      subst hp
      have kept : ((e.st.queue q).closed || decide ((e.st.queue q).config.upper ≤ (e.st.queue q).order.length))
          = (e.st.queue q).closed := by
        cases hc : (e.st.queue q).closed with
        | true => rfl
        | false => exact decide_eq_false fun hl => h ⟨hc, hl⟩
      rw [kept]
    · rfl

/-- A queue's record after a QUEUE_SET: the configuration, and what follows it when its field is masked (R33, R43, R98, R103). -/
def Queue.stored (r : Queue) (b : QueueSetBody) (new : QueueConfig) (weight : Nat) : Queue :=
  { r with
    config := new
    weight := if b.minProficiency.isSome then weight else r.weight
    closed := if b.upper.isSome || b.lower.isSome then
        (r.closed || decide (new.upper ≤ r.order.length)) && !decide (r.order.length < new.lower)
      else r.closed
    aht := if b.reseed then new.initialHandle * 16 else r.aht }

/-- What the effects of a QUEUE_SET change, part by part. -/
structure State.QueueStored (s t : State) (b : QueueSetBody) (old new : QueueConfig) : Prop where
  rest : t = { s with calls := t.calls, queues := t.queues }
  queue : ∀ p, t.queue p = if b.queue = p then (s.queue b.queue).stored b new
    ((s.setQueue b.queue { s.queue b.queue with config := new }).weightSum b.queue) else s.queue p
  call : ∀ y, t.call? y = if b.agingInterval.isSome ∧ y ∈ (s.queue b.queue).order then
    (s.call? y).map fun c => c.reaged old.agingInterval new.agingInterval s.tick else s.call? y

theorem Ev.applyQueueSet_stored (e : Ev) (b : QueueSetBody) (old new : QueueConfig) :
    e.st.QueueStored (e.applyQueueSet b old new).st b old new ∧ e.Tells (e.applyQueueSet b old new) := by
  generalize hq : b.queue = q
  generalize h1 : (e.upd fun s => s.setQueue q { s.queue q with config := new }) = e1
  generalize h2 : (if b.minProficiency.isSome then e1.upd fun s => s.recountWeight q else e1) = e2
  generalize h3 : (if b.agingInterval.isSome then
    e2.upd fun s => s.reageOrder old.agingInterval new.agingInterval (s.queue q).order else e2) = e3
  generalize h4 : (if b.upper.isSome || b.lower.isSome then (e3.evalClosing q).evalOpening q else e3) = e4
  have applied : e.applyQueueSet b old new
      = if b.reseed then e4.upd fun s => s.setQueue q { s.queue q with aht := new.initialHandle * 16 } else e4 := by
    rw [← h4, ← h3, ← h2, ← h1, ← hq]
    rfl
  have queue1 : ∀ p, e1.st.queue p = if q = p then { e.st.queue q with config := new } else e.st.queue p := fun p => by
    rw [← h1]; exact State.queue_setQueue _ _ _ _
  have queue2 : ∀ p, e2.st.queue p = if q = p then { e.st.queue q with
      config := new
      weight := if b.minProficiency.isSome then e1.st.weightSum q else (e.st.queue q).weight } else e.st.queue p := fun p => by
    rw [← h2]
    split
    · show (e1.st.setQueue q { e1.st.queue q with weight := e1.st.weightSum q }).queue p = _
      rw [State.queue_setQueue, queue1, queue1, if_pos rfl]
      split <;> rfl
    · exact queue1 p
  have rest2 : e2.st = { e.st with queues := e2.st.queues } := by
    rw [← h2, ← h1]
    split <;> rfl
  have order2 : (e2.st.queue q).order = (e.st.queue q).order := by rw [queue2, if_pos rfl]
  have rest3 : e3.st = { e.st with calls := e3.st.calls, queues := e2.st.queues } := by
    rw [← h3]
    split
    · have := e2.st.reageOrder_calls old.agingInterval new.agingInterval (e2.st.queue q).order
      rw [Ev.upd_st, this, rest2]
    · rw [rest2]
  have queue3 : ∀ p, e3.st.queue p = e2.st.queue p := fun p => by rw [rest3]; rfl
  have call3 : ∀ y, e3.st.call? y = if b.agingInterval.isSome ∧ y ∈ (e.st.queue q).order then
      (e.st.call? y).map fun c => c.reaged old.agingInterval new.agingInterval e.st.tick else e.st.call? y := fun y => by
    have call2 : ∀ z, e2.st.call? z = e.st.call? z := fun z => by rw [rest2]; rfl
    have tick2 : e2.st.tick = e.st.tick := by rw [rest2]
    rw [← h3]
    by_cases masked : b.agingInterval.isSome = true
    · rw [if_pos masked, Ev.upd_st, State.reageOrder_call, order2, call2, tick2]
      simp [masked]
    · rw [if_neg masked, call2]
      simp [masked]
  have rest4 : e4.st = { e3.st with queues := e4.st.queues } := by
    rw [← h4]
    split
    · rw [Ev.evalOpening_frame, Ev.evalClosing_frame]
    · rfl
  have queue4 : ∀ p, e4.st.queue p = if q = p then { e.st.queue q with
      config := new
      weight := if b.minProficiency.isSome then e1.st.weightSum q else (e.st.queue q).weight
      closed := if b.upper.isSome || b.lower.isSome then
          ((e.st.queue q).closed || decide (new.upper ≤ (e.st.queue q).order.length))
            && !decide ((e.st.queue q).order.length < new.lower)
        else (e.st.queue q).closed } else e.st.queue p := fun p => by
    rw [← h4]
    by_cases masked : (b.upper.isSome || b.lower.isSome) = true
    · simp only [if_pos masked]
      rw [Ev.evalOpening_queue, Ev.evalClosing_queue, Ev.evalClosing_queue, if_pos rfl, queue3, queue3, queue2, queue2,
        if_pos rfl]
      split <;> rfl
    · simp only [if_neg masked]
      rw [queue3, queue2]
  refine ⟨⟨?rest, fun p => ?queue, fun y => ?call⟩, ?tells⟩
  case rest =>
    rw [applied]
    split
    · rw [Ev.upd_st, rest4, rest3]; rfl
    · rw [rest4, rest3]
  case queue =>
    have weight1 : e1.st = e.st.setQueue q { e.st.queue q with config := new } := by rw [← h1]; rfl
    rw [applied, hq, ← weight1]
    by_cases reseed : b.reseed = true
    · rw [if_pos reseed, Ev.upd_st, State.queue_setQueue, queue4, queue4, if_pos rfl]
      simp only [Queue.stored, if_pos reseed]
      split <;> rfl
    · rw [if_neg reseed, queue4]
      simp only [Queue.stored, if_neg reseed]
  case call =>
    rw [hq, ← call3, applied]
    have same : e4.st.call? y = e3.st.call? y := by rw [rest4]; rfl
    split
    · rw [Ev.upd_st, State.setQueue_call, same]
    · exact same
  case tells =>
    have tells : ∀ (p : Bool) {c d : Ev}, c.Tells d → c.Tells (if p = true then d else c) := fun p c d h => by
      split
      · exact h
      · exact .refl c
    rw [applied]
    have t1 : e.Tells e1 := h1 ▸ .upd _ _
    have t2 : e1.Tells e2 := h2 ▸ tells _ (.upd _ _)
    have t3 : e2.Tells e3 := h3 ▸ tells _ (.upd _ _)
    have t4 : e3.Tells e4 := h4 ▸ tells _ ((Ev.evalClosing_tells _ _).trans (Ev.evalOpening_tells _ _))
    exact (((t1.trans t2).trans t3).trans t4).trans (tells _ (.upd _ _))

end

/-! ## The deadlines -/

/-- Only the calls of a queue stand in its order, and all of those that have a promotion deadline. -/
structure State.AgesItsOrder (s : State) (q : Nat) : Prop where
  own : ∀ y ∈ (s.queue q).order, ∀ c, s.call? y = some c → c.queue = q
  promoted : ∀ y c, s.call? y = some c → c.queue = q → c.promotion.isSome = true → y ∈ (s.queue q).order

theorem State.RecordsAgree.agesItsOrder {s t : State} (h : s.RecordsAgree) (k : s.SameRecords t) (q : Nat) :
    t.AgesItsOrder q := by
  refine ⟨fun y hy c hc => ?_, fun y c hc hq hp => ?_⟩
  · rw [k.order] at hy
    obtain ⟨d, hd, hq, _⟩ := (h.ordered q y).1 hy
    rw [k.call, hd] at hc
    cases hc
    exact hq
  · rw [k.call] at hc
    rw [k.order]
    refine (h.ordered q y).2 ⟨c, hc, hq, fun hs => ?_⟩
    rw [(h.answered y c hc hs).2.1] at hp
    cases hp

section
variable {timed ranged : Prop} {good : Clock → Nat → Tick → Prop} {now : Tick} {s t u : State} {e : Ev} {c : Call} {q y : Nat}
  {b : QueueSetBody}

/-- A call's promotion deadline set anew agrees with the aging interval stored. -/
theorem State.CallTimely.reaged (k : s.Timely good now) (h : s.CallTimely good y c)
    {old new : Nat} (hn : new ≤ 65535)
    (config : (t.queue c.queue).config.agingInterval = new) : t.CallTimely good y (c.reaged old new now) := by
  by_cases top : Config.topBand ≤ c.band ∨ c.exitPending.isSome = true
  · have kept : c.reaged old new now = c := if_pos top
    have unpromoted : c.promotion.isSome ≠ true := fun hp => by
      rcases top with top | top
      · exact absurd (h.aging hp).2 (not_lt.2 top)
      · rw [(h.exiting top).1] at hp; cases hp
    rw [kept]
    exact { h with aging := fun hp => absurd hp unpromoted }
  · have band : c.band < 7 := by
      have := not_or.1 top
      exact not_le.1 this.1
    by_cases off : new = 0
    · have cleared : c.reaged old new now = { c with promotion := none } := by unfold Call.reaged; rw [if_neg top, if_pos off]
      rw [cleared]
      exact { h with promotion := fun d hd => (nomatch hd), aging := fun hp => (nomatch hp),
                     exiting := fun he => ⟨rfl, (h.exiting he).2⟩ }
    · by_cases on : old = 0
      · have set : c.reaged old new now = { c with promotion := some (Tick.plus now new) } := by
          unfold Call.reaged; rw [if_neg top, if_neg off, if_pos on]
        rw [set]
        exact { h with
          promotion := fun d hd => by cases hd; exact k.fair.fresh _ _ _ (Nat.pos_of_ne_zero off) hn
          aging := fun _ => ⟨config.symm ▸ off, band⟩
          exiting := fun he => absurd (.inr he) top }
      · have kept : c.reaged old new now = c := by unfold Call.reaged; rw [if_neg top, if_neg off, if_neg on]
        rw [kept]
        exact { h with aging := fun _ => ⟨config.symm ▸ off, band⟩ }

theorem State.Timely.queueStored (h : s.Timely good now) (hb : b.Bounded) (ages : s.AgesItsOrder b.queue)
    (k : s.QueueStored t b (s.queue b.queue).config ((s.queue b.queue).config.set b)) : t.Timely good now := by
  have hn := (h.queues b.queue).set hb
  have config : ∀ p, (t.queue p).config = if b.queue = p then (s.queue b.queue).config.set b else (s.queue p).config :=
    fun p => by rw [k.queue]; split <;> rfl
  have settings : t.settings = s.settings := by rw [k.rest]; rfl
  have highway : ∀ w, t.highway w = s.highway w := fun w => by rw [k.rest]; cases w <;> rfl
  have agent : ∀ x, t.agent x = s.agent x := fun x => by rw [k.rest]; rfl
  refine
    { fair := h.fair
      tick := (congrArg Settings.tick settings).trans h.tick
      calls := fun y d hd => ?calls
      agents := fun x => by rw [agent]; exact h.agents x
      deferred := fun w f hf => ?deferred
      deferral := fun w y f hf => h.deferral w y f (by rwa [highway] at hf)
      queues := fun p => ?queues
      deferLimit := (congrArg Settings.deferLimit settings).trans_le h.deferLimit
      steps := h.steps.of_tables (congrArg Settings.patterns0 settings) (congrArg Settings.patterns1 settings)
      boundary := fun hd => (congrArg Settings.frameCount settings).trans
        (h.boundary ((congrArg Settings.boundaryDue settings).symm.trans hd)) }
  case calls =>
    rw [k.call] at hd
    split at hd
    · rename_i hy
      obtain ⟨c, hc, rfl⟩ := Option.map_eq_some_iff.1 hd
      have own := ages.own y hy.2 c hc
      rw [h.tick]
      refine (h.calls y c hc).reaged h hn.2.2.2.2.2.1 ?_
      rw [config, own, if_pos rfl]
    · rename_i hy
      refine { h.calls y d hd with aging := fun hp => ?_ }
      have aging := (h.calls y d hd).aging hp
      rw [config]
      split
      · rename_i hq
        have unmasked : b.agingInterval = none := by
          by_contra masked
          exact hy ⟨Option.isSome_iff_ne_none.2 masked, ages.promoted y d hd hq.symm hp⟩
        have same : ((s.queue b.queue).config.set b).agingInterval = (s.queue b.queue).config.agingInterval :=
          congrArg (fun o => Option.getD o (s.queue b.queue).config.agingInterval) unmasked
        rw [same, hq]
        exact aging
      · exact aging
  case deferred =>
    rw [highway] at hf
    obtain ⟨c, hc, ho, ht⟩ := h.deferred w f hf
    rw [k.call]
    split
    · refine ⟨_, Option.map_eq_some_iff.2 ⟨c, hc, rfl⟩, ?_⟩
      unfold Call.reaged
      split
      · exact ⟨ho, ht⟩
      · split
        · exact ⟨ho, ht⟩
        · split <;> exact ⟨ho, ht⟩
    · exact ⟨c, hc, ho, ht⟩
  case queues =>
    rw [config]
    split
    · exact hn
    · exact h.queues p

theorem State.HandleInRange.queueStored (h : s.HandleInRange) (hb : b.Bounded)
    (k : s.QueueStored t b (s.queue b.queue).config ((s.queue b.queue).config.set b)) : t.HandleInRange := by
  intro p
  rw [k.queue]
  split
  · refine (h b.queue).set hb rfl ?_
    unfold Queue.stored
    dsimp only
    split
    · exact .inr rfl
    · exact .inl rfl
  · exact h p

theorem State.Paced.serveQueueSet (h : e.st.Paced timed ranged good now) (hb : b.Bounded) (l : Link) (r : Request)
    (ages : timed → e.st.AgesItsOrder b.queue) : (e.serveQueueSet l r b).st.Paced timed ranged good now := by
  unfold Ev.serveQueueSet
  split
  · dsimp only
    have told := e.reply_terms l r .done (.queueConfig ((e.st.queue b.queue).config.set b))
    have records := e.reply_same l r .done (.queueConfig ((e.st.queue b.queue).config.set b))
    generalize hd : e.reply l r .done (.queueConfig ((e.st.queue b.queue).config.set b)) = d at told records
    have stored := (d.applyQueueSet_stored b (e.st.queue b.queue).config ((e.st.queue b.queue).config.set b)).1
    rw [← told.config b.queue] at stored ⊢
    have answered := h.same told
    have applied : (d.applyQueueSet b (d.st.queue b.queue).config ((d.st.queue b.queue).config.set b)).st.Paced
        timed ranged good now := by
      refine ⟨fun ht => (answered.timely ht).queueStored hb ?_ stored, fun hr => (answered.handle hr).queueStored hb stored⟩
      refine ⟨fun y hy c hc => ?_, fun y c hc hq hp => ?_⟩
      · exact (ages ht).own y (by rwa [records.order] at hy) c (by rwa [records.call] at hc)
      · rw [records.order]
        exact (ages ht).promoted y c (by rwa [records.call] at hc) hq hp
    split
    · exact applied.queueAttempts b.queue
    · exact applied
  · exact h.replied l r _ _

end

end Sys2Proof.Machine
end

section
/-!
PROOF. The deadlines and handle times under the expiries of a tick, and the ENGINE_RESET: a deadline that is reached is taken in that
tick (R184).
-/
namespace Sys2Proof.Machine

open Sys2Proof

/-! ## Deadlines -/

/-- A state holds a deadline of a clock in a slot; of an agent, also the one that its next failed offer would give it. -/
def State.Holds (s : State) (k : Clock) (x : Nat) (d : Tick) : Prop :=
  match k with
  | .ring => ∃ c o, s.call? x = some c ∧ c.offer = some o ∧ o.deadline = d
  | .promotion => ∃ c, s.call? x = some c ∧ c.promotion = some d
  | .step => ∃ c t, s.call? x = some c ∧ c.treatment = some t ∧ t.deadline = some d
  | .deferral => ∃ w f, (s.highway w).deferral.find? (fun f => f.call == x) = some f ∧ f.deadline = d
  | .wrap => ∃ w, (s.agent x).wrap = some w ∧ w.deadline = d
  | .penalty => (s.agent x).penaltyDeadline = some d
  | .failure => Tick.plus s.tick (s.agent x).penalty = d

section
variable {timed ranged : Prop} {good good' : Clock → Nat → Tick → Prop} {now : Tick} {s t u : State} {e : Ev} {c : Call}
  {k : Clock} {x y : Nat} {d : Tick} {xs : List Nat}

theorem State.Timely.holds (h : s.Timely good now) (hd : s.Holds k x d) : good k x d := by
  cases k with
  | ring => obtain ⟨c, o, hc, ho, rfl⟩ := hd; exact (h.calls x c hc).ring o ho
  | promotion => obtain ⟨c, hc, hp⟩ := hd; exact (h.calls x c hc).promotion d hp
  | step => obtain ⟨c, t, hc, ht, hd⟩ := hd; exact (h.calls x c hc).step t d ht hd
  | deferral => obtain ⟨w, f, hf, rfl⟩ := hd; exact h.deferral w x f hf
  | wrap => obtain ⟨w, hw, rfl⟩ := hd; exact (h.agents x).wrap w hw
  | penalty => exact (h.agents x).penalized d hd
  | failure => cases hd; rw [h.tick]; exact (h.agents x).failure

/-- The deadlines held are good in another sense too. -/
theorem State.Timely.regard (h : s.Timely good now) (fair : Fair good' now)
    (better : ∀ k x d, s.Holds k x d → good k x d → good' k x d) : s.Timely good' now where
  fair := fair
  tick := h.tick
  calls y c hc :=
    have timely := h.calls y c hc
    { timely with
      ring := fun o ho => better .ring y _ ⟨c, o, hc, ho, rfl⟩ (timely.ring o ho)
      promotion := fun d hd => better .promotion y d ⟨c, hc, hd⟩ (timely.promotion d hd)
      step := fun t d ht hd => better .step y d ⟨c, t, hc, ht, hd⟩ (timely.step t d ht hd) }
  agents x :=
    have timely := h.agents x
    { timely with
      wrap := fun w hw => better .wrap x _ ⟨w, hw, rfl⟩ (timely.wrap w hw)
      penalized := fun d hd => better .penalty x d hd (timely.penalized d hd)
      failure := better .failure x _ (by rw [← h.tick]; rfl) timely.failure }
  deferred := h.deferred
  deferral w y f hf := better .deferral y _ ⟨w, f, hf, rfl⟩ (h.deferral w y f hf)
  queues := h.queues
  deferLimit := h.deferLimit
  steps := h.steps
  boundary := h.boundary

/-- A deadline at most 131070 ticks ahead is reached in its own tick. -/
theorem Tick.reached_iff {now d : Tick} (near : (d - now).toNat ≤ 131070) : Tick.reached now d = true ↔ d = now := by
  unfold Tick.reached
  rw [decide_eq_true_iff]
  constructor
  · intro h
    rw [BitVec.toInt_eq_toNat_cond] at h
    bv_omega
  · rintro rfl
    simp

/-- A deadline that is held is the present tick exactly when it is reached. -/
theorem State.Timely.due (h : s.Timely good now) (hd : s.Holds k x d) :
    Tick.reached s.tick d = true ↔ d = now := by
  rw [h.tick]
  exact Tick.reached_iff (h.fair.near k x d (h.holds hd))

/-! ## Deadlines of which some have been taken -/

/-- Good deadlines, where those of a clock in some slots have been taken in this tick. -/
def Past (good : Clock → Nat → Tick → Prop) (now : Tick) (k : Clock) (xs : List Nat) (k' : Clock) (x : Nat) (d : Tick) : Prop :=
  good k' x d ∧ ¬(k' = k ∧ x ∈ xs ∧ d = now)

theorem Tick.plus_ne (t : Tick) {n : Nat} (low : 1 ≤ n) (high : n ≤ 65535) : Tick.plus t n ≠ t := by
  intro h
  unfold Tick.plus at h
  bv_omega

theorem Fair.past (h : Fair good now) (k : Clock) (xs : List Nat) : Fair (Past good now k xs) now where
  fresh k' x n low high := ⟨h.fresh k' x n low high, fun ⟨_, _, hd⟩ => Tick.plus_ne now low high hd⟩
  near k' x d hd := h.near k' x d hd.1

namespace State.Paced

/-- A clock's deadline in a slot is taken once the state holds none that is reached. -/
theorem past (h : s.Paced timed ranged good now) (none : timed → s.Timely good now → ¬s.Holds k x now) :
    s.Paced timed ranged (Past good now k [x]) now := by
  refine ⟨fun ht => ?_, h.handle⟩
  have timely := h.timely ht
  refine timely.regard (timely.fair.past k [x]) fun k' x' d hd hg => ⟨hg, ?_⟩
  rintro ⟨rfl, hx, rfl⟩
  rw [List.mem_singleton] at hx
  subst hx
  exact none ht timely hd

theorem unpast (h : s.Paced timed ranged (Past good now k xs) now) (fair : timed → Fair good now) :
    s.Paced timed ranged good now :=
  ⟨fun ht => (h.timely ht).regard (fair ht) fun _ _ _ _ hg => hg.1, h.handle⟩

/-- The expiries of a clock, taken slot by slot, each with the deadlines that are left. -/
theorem pastAll {take : State → Nat → State} {C : (Clock → Nat → Tick → Prop) → Prop}
    (kept : ∀ good x, C good → C (Past good now k [x]))
    (taken : ∀ good (s : State) x, C good → s.Paced timed ranged good now →
      (take s x).Paced timed ranged (Past good now k [x]) now) (xs : List Nat) :
    ∀ (good : Clock → Nat → Tick → Prop) (s : State), C good → s.Paced timed ranged good now →
      (xs.foldl take s).Paced timed ranged (Past good now k xs) now := by
  induction xs with
  | nil =>
    refine fun good s _ h => ⟨fun ht => ?_, h.handle⟩
    exact (h.timely ht).regard ((h.timely ht).fair.past k []) fun _ _ _ _ hg => ⟨hg, by simp⟩
  | cons x xs ih =>
    intro good s hC h
    have rest := ih (Past good now k [x]) (take s x) (kept good x hC) (taken good s x hC h)
    have both : Past (Past good now k [x]) now k xs = Past good now k (x :: xs) := by
      funext k' x' d
      unfold Past
      simp only [List.mem_cons, eq_iff_iff]
      tauto
    rwa [both] at rest

/-! ## The six expiries -/

theorem takeRingExpiry (h : s.Paced timed ranged good now) (fails : ∀ x d, good .failure x d → good .penalty x d) (y : Nat) :
    (s.takeRingExpiry y).Paced timed ranged (Past good now .ring [y]) now := by
  unfold State.takeRingExpiry
  split
  · rename_i hc
    refine h.past fun _ _ ⟨c, o, hc', _⟩ => ?_
    rw [hc] at hc'; cases hc'
  · rename_i c hc
    split
    · rename_i ho
      refine h.past fun _ _ ⟨c', o, hc', ho', _⟩ => ?_
      rw [hc] at hc'; cases hc'
      rw [ho] at ho'; cases ho'
    · rename_i o ho
      split
      · have ended : (s.endOffer y o.agent .expired).Paced timed ranged (Past good now .ring [y]) now := by
          refine (h.endOffer y o.agent .expired).past fun _ _ ⟨c', o', hc', ho', _⟩ => ?_
          rw [(State.endOffer_replaced hc o.agent .expired).call, if_pos rfl] at hc'
          cases hc'
          cases ho'
        exact finish (failOffer_ended (e := s.event) ended (fun d hd => ⟨fails _ d hd.1, fun hk => nomatch hk.1⟩) c .expiry)
      · rename_i unreached
        refine h.past fun ht timely held => unreached ?_
        obtain ⟨c', o', hc', ho', hd⟩ := held
        rw [hc] at hc'; cases hc'
        rw [ho] at ho'; cases ho'
        exact (timely.due (k := .ring) (x := y) ⟨c, o, hc, ho, rfl⟩).2 hd

theorem takePromotionDeadline (h : s.Paced timed ranged good now) (y : Nat) :
    (s.takePromotionDeadline y).Paced timed ranged (Past good now .promotion [y]) now := by
  unfold State.takePromotionDeadline
  split
  · rename_i hc
    refine h.past fun _ _ ⟨c, hc', _⟩ => ?_
    rw [hc] at hc'; cases hc'
  · rename_i c hc
    split
    · rename_i hp
      refine h.past fun _ _ ⟨c', hc', hp'⟩ => ?_
      rw [hc] at hc'; cases hc'
      rw [hp] at hp'; cases hp'
    · rename_i f hf
      split
      · rename_i reached
        have due : timed → s.Timely good now → f = now := fun _ k =>
          (k.due (k := .promotion) (x := y) ⟨c, hc, hf⟩).1 reached
        refine (h.promote hc hf due).past fun ht _ held => ?_
        have k := h.timely ht
        obtain ⟨c', hc', hp'⟩ := held
        unfold State.promote State.reinsert at hc'
        rw [State.setQueue_call, State.call?_setCall, if_pos rfl] at hc'
        cases hc'
        dsimp only at hp'
        split at hp'
        · have aging := ((k.calls y c hc).aging (by simp [hf])).1
          have bounded : (s.queue c.queue).config.agingInterval ≤ 65535 := (k.queues c.queue).2.2.2.2.2.1
          rw [due ht k] at hp'
          exact Tick.plus_ne now (Nat.pos_of_ne_zero aging) bounded (Option.some.inj hp')
        · cases hp'
      · rename_i unreached
        refine h.past fun ht timely held => unreached ?_
        obtain ⟨c', hc', hp'⟩ := held
        rw [hc] at hc'; cases hc'
        rw [hf] at hp'
        exact (timely.due (k := .promotion) (x := y) ⟨c, hc, hf⟩).2 (Option.some.inj hp')

theorem takeStepDeadline (h : s.Paced timed ranged good now) (y : Nat) :
    (s.takeStepDeadline y).Paced timed ranged (Past good now .step [y]) now := by
  have step : ∀ {d}, s.Holds .step y d → ∃ t, (s.call? y).bind (·.treatment) = some t ∧ t.deadline = some d := by
    rintro d ⟨c, t, hc, ht, hd⟩
    exact ⟨t, by rw [hc]; exact ht, hd⟩
  unfold State.takeStepDeadline
  split
  · rename_i hn
    refine h.past fun _ _ held => ?_
    obtain ⟨t, ht, -⟩ := step held
    rw [hn] at ht; cases ht
  · rename_i t ht
    split
    · rename_i hn
      refine h.past fun _ _ held => ?_
      obtain ⟨t', ht', hd⟩ := step held
      rw [ht] at ht'; cases ht'
      rw [hn] at hd; cases hd
    · rename_i f hf
      split
      · have cleared : (s.event.upd fun s => s.updTreatment y fun t => { t with deadline := none }).st.Paced timed ranged
            (Past good now .step [y]) now := by
          refine (h.updTreatment y (f := fun t => { t with deadline := none }) fun _ _ hd => nomatch hd).past fun _ _ ⟨c, t', hc, ht', hd⟩ => ?_
          rw [State.updTreatment, State.call?_updCall, if_pos rfl] at hc
          obtain ⟨c', _, rfl⟩ := Option.map_eq_some_iff.1 hc
          obtain ⟨t'', _, rfl⟩ := Option.map_eq_some_iff.1 ht'
          cases hd
        exact (cleared.completePhrase y).finish
      · rename_i unreached
        refine h.past fun _ timely held => unreached ?_
        obtain ⟨t', ht', hd⟩ := step held
        rw [ht] at ht'; cases ht'
        rw [hf] at hd
        obtain ⟨c, hc, hct⟩ := Option.bind_eq_some_iff.1 ht
        exact (timely.due (k := .step) (x := y) ⟨c, t, hc, hct, hf⟩).2 (Option.some.inj hd)

theorem takeDeferralExpiry (h : s.Paced timed ranged good now) (y : Nat) :
    (s.takeDeferralExpiry y).Paced timed ranged (Past good now .deferral [y]) now := by
  have deferred : ∀ {d}, s.Timely good now → s.Holds .deferral y d → ∃ c w f, s.call? y = some c ∧ c.owner.highway? = some w
      ∧ (s.highway w).deferral.find? (fun f => f.call == y) = some f ∧ f.deadline = d := by
    rintro d k ⟨w, f, hf, hd⟩
    have hy : f.call = y := by simpa using List.find?_some hf
    obtain ⟨c, hc, ho, -⟩ := k.deferred w f (List.mem_of_find?_eq_some hf)
    exact ⟨c, w, f, hy ▸ hc, ho, hf, hd⟩
  unfold State.takeDeferralExpiry
  split
  · rename_i hn
    refine h.past fun _ k held => ?_
    obtain ⟨c, w, f, hc, -⟩ := deferred k held
    rw [hn] at hc; cases hc
  · rename_i c hc
    split
    · rename_i hn
      refine h.past fun _ k held => ?_
      obtain ⟨c', w, f, hc', ho, -⟩ := deferred k held
      rw [hc] at hc'; cases hc'
      rw [hn] at ho; cases ho
    · rename_i w hw
      split
      · rename_i hn
        refine h.past fun _ k held => ?_
        obtain ⟨c', w', f, hc', ho, hf, -⟩ := deferred k held
        rw [hc] at hc'; cases hc'
        rw [hw] at ho; cases ho
        rw [hn] at hf; cases hf
      · rename_i f hf
        split
        · have left : (s.event.upd fun s => s.leaveDeferral w y).st.Paced timed ranged (Past good now .deferral [y]) now := by
            refine (h.leaveDeferral w y).past fun ht k ⟨w', f', hf', hd⟩ => ?_
            have hy : f'.call = y := by simpa using List.find?_some hf'
            have mem := List.mem_of_find?_eq_some hf'
            rw [State.leaveDeferral_deferral] at mem
            split at mem
            · have := (List.mem_filter.1 mem).2
              simp [hy] at this
            · rename_i other
              obtain ⟨c', hc', ho, -⟩ := (h.timely ht).deferred w' f' mem
              rw [hy, hc] at hc'; cases hc'
              rw [hw] at ho
              exact other (Option.some.inj ho)
          exact (completePhrase (left.same (Ev.count_terms _ c.queue .announceSkipped)) y).finish
        · rename_i unreached
          refine h.past fun _ k held => unreached ?_
          obtain ⟨c', w', f', hc', ho, hf', hd⟩ := deferred k held
          rw [hc] at hc'; cases hc'
          rw [hw] at ho; cases ho
          rw [hf] at hf'; cases hf'
          exact (k.due (k := .deferral) (x := y) ⟨w, f, hf, rfl⟩).2 hd

theorem takeWrapDeadline (h : s.Paced timed ranged good now) (x : Nat) :
    (s.takeWrapDeadline x).Paced timed ranged (Past good now .wrap [x]) now := by
  unfold State.takeWrapDeadline
  split
  · rename_i hn
    refine h.past fun _ _ ⟨w, hw, _⟩ => ?_
    rw [hn] at hw; cases hw
  · rename_i w hw
    split
    · have ended : (s.event.endWrap x w .expiry).st.Paced timed ranged (Past good now .wrap [x]) now := by
        refine (endWrap (e := s.event) h x w .expiry).past fun _ _ ⟨w', hw', _⟩ => ?_
        unfold Ev.endWrap at hw'
        dsimp only at hw'
        rw [(Ev.leave_replaced _ x .expiry).1.agent, if_pos rfl] at hw'
        unfold Agent.left at hw'
        split at hw' <;> cases hw'
      exact (ended.agentAttempt x).finish
    · rename_i unreached
      refine h.past fun _ k ⟨w', hw', hd⟩ => unreached ?_
      rw [hw] at hw'; cases hw'
      exact (k.due (k := .wrap) (x := x) ⟨w, hw, rfl⟩).2 hd

theorem takePenaltyExpiry (h : s.Paced timed ranged good now) (x : Nat) :
    (s.takePenaltyExpiry x).Paced timed ranged (Past good now .penalty [x]) now := by
  unfold State.takePenaltyExpiry
  split
  · rename_i hn
    refine h.past fun _ _ held => ?_
    exact nomatch hn.symm.trans held
  · rename_i f hf
    split
    · have back : (s.event.putAgentAtTail x ((s.agent x).penaltyOver s.tick) .expiry).st.Paced timed ranged
          (Past good now .penalty [x]) now := by
        refine (putAgentAtTail (e := s.event) h x .expiry fun k => ?_).past fun _ _ held => ?_
        · exact (k.agents x).edit (.inl rfl) (.inr rfl) rfl
        · unfold State.Holds at held
          rw [(Ev.putAgentAtTail_replaced _ x _ .expiry).agent, if_pos rfl] at held
          cases held
      exact (back.agentAttempt x).finish
    · rename_i unreached
      refine h.past fun _ k held => unreached ?_
      exact (k.due (k := .penalty) (x := x) hf).2 (Option.some.inj (hf.symm.trans held))

end State.Paced

end

end Sys2Proof.Machine
end

section
/-!
PROOF. The redirect counts, the handle times and the deadlines after every command (O15).
-/
namespace Sys2Proof.Machine

open Sys2Proof

/-- A deadline that is not behind the tick count, nor further ahead of it than 131070 ticks. -/
def Near (now : Tick) (_ : Clock) (_ : Nat) (d : Tick) : Prop := (d - now).toNat ≤ 131070

theorem Tick.plus_sub (t : Tick) (n : Nat) : Tick.plus t n - t = BitVec.ofNat 32 n := by
  unfold Tick.plus
  abel

theorem Fair.near_now (now : Tick) : Fair (Near now) now where
  fresh _ _ n _ high := by
    unfold Near
    rw [Tick.plus_sub, BitVec.toNat_ofNat]
    omega
  near _ _ _ hd := hd

section
variable {timed ranged : Prop} {good : Clock → Nat → Tick → Prop} {now : Tick} {s t u : State} {e : Ev} {k : Clock} {x : Nat}
  {d : Tick}

/-! ## The promise about deadlines -/

theorem PatternStep.duration_le {step : PatternStep} (music : ∀ n d, step = .music n d → d ≤ 65535)
    (silence : ∀ d, step = .silence d → d ≤ 65535) : step.duration ≤ 65535 := by
  unfold PatternStep.duration
  split
  · exact music _ _ rfl
  · exact silence _ rfl
  · exact Nat.zero_le _

theorem State.OnTime.timely (h : s.OnTime)
    (answered : ∀ y c, s.call? y = some c → c.state = .connected → c.treatment = none) : s.Timely (Near s.tick) s.tick where
  fair := .near_now s.tick
  tick := rfl
  calls y c hc :=
    { ring := fun o ho => h.deadlines _ (.inl ⟨y, c, o, hc, ho, rfl⟩)
      promotion := fun d hd => h.deadlines d (.inr (.inl ⟨y, c, hc, hd⟩))
      aging := h.aging y c hc
      step := fun t d ht hd => h.deadlines d (.inr (.inr (.inl ⟨y, c, t, hc, ht, hd⟩)))
      exiting := h.exiting y c hc
      answered := answered y c hc }
  agents x :=
    { wrap := fun w hw => h.deadlines _ (.inr (.inr (.inr (.inr (.inl ⟨x, w, hw, rfl⟩)))))
      extension := h.extensions x
      penalized := fun d hd => h.deadlines d (.inr (.inr (.inr (.inr (.inr ⟨x, hd⟩)))))
      failure := by
        have penalty := h.durations.penalties x
        unfold Near
        rw [Tick.plus_sub, BitVec.toNat_ofNat]
        omega
      penalty := h.durations.penalties x }
  deferred := h.deferred
  deferral w y f hf := by
    have hy : f.call = y := by simpa using List.find?_some hf
    obtain ⟨c, hc, ho, -⟩ := h.deferred w f (List.mem_of_find?_eq_some hf)
    rw [hy] at hc
    exact h.deadlines _ (.inr (.inr (.inr (.inl ⟨y, c, w, f, hc, ho, hf, rfl⟩))))
  queues := h.durations.queues
  deferLimit := h.durations.deferLimit
  steps b p step hstep := PatternStep.duration_le (fun n d hd => h.durations.music b p n d (hd ▸ hstep))
    fun d hd => h.durations.silence b p d (hd ▸ hstep)
  boundary := h.boundary

theorem State.Timely.onTime (h : s.Timely (Near now) now) : s.OnTime where
  deadlines d hd := by
    rw [h.tick]
    rcases hd with ⟨y, c, o, hc, ho, rfl⟩ | ⟨y, c, hc, hd⟩ | ⟨y, c, t, hc, ht, hd⟩ | ⟨y, c, w, f, hc, ho, hf, rfl⟩
      | ⟨x, w, hw, rfl⟩ | ⟨x, hd⟩
    · exact (h.calls y c hc).ring o ho
    · exact (h.calls y c hc).promotion d hd
    · exact (h.calls y c hc).step t d ht hd
    · exact h.deferral w y f hf
    · exact (h.agents x).wrap w hw
    · exact (h.agents x).penalized d hd
  durations :=
    { queues := h.queues
      penalties := fun x => (h.agents x).penalty
      deferLimit := h.deferLimit
      music := fun b p n d hd => h.steps b p _ hd
      silence := fun b p d hd => h.steps b p _ hd }
  extensions x := h.tick ▸ (h.agents x).extension
  aging y c hc := (h.calls y c hc).aging
  exiting y c hc := (h.calls y c hc).exiting
  deferred := h.deferred
  boundary := h.boundary

/-! ## The tick -/

/-- The slots in which a tick takes a clock's deadlines. -/
def State.slots (s : State) (k : Clock) : List Nat :=
  match k with
  | .ring | .promotion | .step | .deferral => s.calls.map (·.1)
  | .wrap | .penalty | .failure => s.agents.map (·.1)

theorem Assoc.key_of_find {α : Type} {v : α} {t : List (Nat × α)} (h : Assoc.find x t = some v) : x ∈ t.map (·.1) :=
  List.mem_map.2 ⟨(x, v), Assoc.mem_of_find h, rfl⟩

/-- A slot of which the agent table holds no record has no deadline, and the penalty of a record after reset. -/
theorem State.agent_unlisted (hx : x ∉ s.agents.map (·.1)) : s.agent x = Agent.reset := by
  unfold State.agent Assoc.get
  cases hf : Assoc.find x s.agents with
  | none => rfl
  | some a => exact absurd (Assoc.key_of_find hf) hx

/-- A deadline that is reached stands in a slot of its table. -/
theorem State.Timely.slot_of_holds (h : s.Timely good now) (hd : s.Holds k x d) (reached : d = now) : x ∈ s.slots k := by
  have called : ∀ {c}, s.call? x = some c → x ∈ s.calls.map (·.1) := fun hc => Assoc.key_of_find hc
  cases k with
  | ring => obtain ⟨c, o, hc, -⟩ := hd; exact called hc
  | promotion => obtain ⟨c, hc, -⟩ := hd; exact called hc
  | step => obtain ⟨c, t, hc, -⟩ := hd; exact called hc
  | deferral =>
    obtain ⟨w, f, hf, -⟩ := hd
    have hy : f.call = x := by simpa using List.find?_some hf
    obtain ⟨c, hc, -⟩ := h.deferred w f (List.mem_of_find?_eq_some hf)
    exact called (hy ▸ hc)
  | wrap =>
    by_contra hx
    obtain ⟨w, hw, -⟩ := hd
    rw [State.agent_unlisted hx] at hw
    cases hw
  | penalty =>
    by_contra hx
    unfold State.Holds at hd
    rw [State.agent_unlisted hx] at hd
    cases hd
  | failure =>
    by_contra hx
    unfold State.Holds at hd
    rw [State.agent_unlisted hx, h.tick, reached] at hd
    exact Tick.plus_ne now (n := 1) (by omega) (by omega) hd

/-- A tick later, where no deadline is left that was reached. -/
theorem State.Timely.later (h : s.Timely good now) (taken : ∀ k x, k ≠ .failure → ¬good k x now) :
    State.Timely (Near (now + 1)) (now + 1) { s with tick := s.tick + 1 } := by
  have ahead : ∀ {k x d}, k ≠ .failure → good k x d → (d - (now + 1)).toNat + 1 = (d - now).toNat := fun {k x d} hk hg => by
    have near := h.fair.near k x d hg
    have ne : d ≠ now := fun hd => taken k x hk (hd ▸ hg)
    bv_omega
  have stays : ∀ {k x d}, k ≠ .failure → good k x d → Near (now + 1) k x d := fun {k x d} hk hg => by
    have near := h.fair.near k x d hg
    have := ahead hk hg
    unfold Near
    omega
  exact
    { h with
      fair := .near_now _
      tick := congrArg (· + 1) h.tick
      calls := fun y c hc =>
        have timely := h.calls y c hc
        { timely with
          ring := fun o ho => stays (by simp) (timely.ring o ho)
          promotion := fun d hd => stays (by simp) (timely.promotion d hd)
          step := fun t d ht hd => stays (by simp) (timely.step t d ht hd) }
      agents := fun x =>
        have timely := h.agents x
        { timely with
          wrap := fun w hw => stays (by simp) (timely.wrap w hw)
          extension := fun w hw => by
            obtain ⟨granted, soon⟩ := timely.extension w hw
            have := ahead (by simp) (timely.wrap w hw)
            exact ⟨granted, by omega⟩
          penalized := fun d hd => stays (by simp) (timely.penalized d hd)
          failure := by
            have penalty := timely.penalty
            unfold Near
            rw [Tick.plus_sub, BitVec.toNat_ofNat]
            exact (Nat.mod_le _ _).trans (penalty.trans (by omega)) }
      deferral := fun w y f hf => stays (by simp) (h.deferral w y f hf) }

/-- The tick takes each deadline that is reached in it. -/
theorem State.Paced.tick (h : s.Paced timed ranged (Near now) now) :
    State.Paced timed ranged (Near (now + 1)) (now + 1) { s.takeExpiries with tick := s.takeExpiries.tick + 1 } := by
  let start : Clock → Nat → Tick → Prop := fun k x d => Near now k x d ∧ (d = now → x ∈ s.slots k)
  have listed : s.Paced timed ranged start now := by
    refine ⟨fun ht => ?_, h.handle⟩
    have timely := h.timely ht
    refine timely.regard ⟨fun k x n low high => ⟨timely.fair.fresh k x n low high, fun hd => ?_⟩, fun _ _ _ hg => hg.1⟩
      fun k x d hd hg => ⟨hg, timely.slot_of_holds hd⟩
    exact absurd hd (Tick.plus_ne now low high)
  have fails : ∀ x d, start .failure x d → start .penalty x d := fun x d hg => hg
  have ring := State.Paced.pastAll (k := .ring) (C := fun good => ∀ x d, good .failure x d → good .penalty x d)
    (fun good z hC x d hg => ⟨hC x d hg.1, fun hk => nomatch hk.1⟩) (fun good u y hC hu => hu.takeRingExpiry hC y)
    (s.calls.map (·.1)) start s fails listed
  have promotion := State.Paced.pastAll (k := .promotion) (C := fun _ => True) (fun _ _ _ => trivial)
    (fun good u y _ hu => hu.takePromotionDeadline y) (s.calls.map (·.1)) _ _ trivial ring
  have step := State.Paced.pastAll (k := .step) (C := fun _ => True) (fun _ _ _ => trivial)
    (fun good u y _ hu => hu.takeStepDeadline y) (s.calls.map (·.1)) _ _ trivial promotion
  have deferral := State.Paced.pastAll (k := .deferral) (C := fun _ => True) (fun _ _ _ => trivial)
    (fun good u y _ hu => hu.takeDeferralExpiry y) (s.calls.map (·.1)) _ _ trivial step
  have wrap := State.Paced.pastAll (k := .wrap) (C := fun _ => True) (fun _ _ _ => trivial)
    (fun good u x _ hu => hu.takeWrapDeadline x) (s.agents.map (·.1)) _ _ trivial deferral
  have penalty := State.Paced.pastAll (k := .penalty) (C := fun _ => True) (fun _ _ _ => trivial)
    (fun good u x _ hu => hu.takePenaltyExpiry x) (s.agents.map (·.1)) _ _ trivial wrap
  refine ⟨fun ht => (penalty.timely ht).later fun k x hk hg => ?_, penalty.handle⟩
  obtain ⟨⟨⟨⟨⟨⟨⟨-, slot⟩, noRing⟩, noPromotion⟩, noStep⟩, noDeferral⟩, noWrap⟩, noPenalty⟩ := hg
  have mem := slot rfl
  cases k with
  | ring => exact noRing ⟨rfl, mem, rfl⟩
  | promotion => exact noPromotion ⟨rfl, mem, rfl⟩
  | step => exact noStep ⟨rfl, mem, rfl⟩
  | deferral => exact noDeferral ⟨rfl, mem, rfl⟩
  | wrap => exact noWrap ⟨rfl, mem, rfl⟩
  | penalty => exact noPenalty ⟨rfl, mem, rfl⟩
  | failure => exact hk rfl

/-! ## Every command -/

theorem State.engineReset_timely (h : s.Timely good now) (rising : Assoc.rising s.queues = true) :
    s.engineReset.Timely good now := by
  have config : ∀ q, (s.engineReset.queue q).config = (s.queue q).config := fun q => by
    rw [State.engineReset_queue rising]
    rfl
  have deferral : ∀ w, (s.engineReset.highway w).deferral = [] := fun w => by cases w <;> rfl
  refine h.of_parts s.engineReset_settings config (fun y c hc => nomatch hc) (fun x => ?_) (fun w f hf => ?_) fun w y f hf => ?_
  · have blank : AgentTimely good now x Agent.reset := ⟨fun w hw => (nomatch hw), fun w hw => (nomatch hw),
      fun d hd => (nomatch hd), h.fair.fresh _ _ 1 (by omega) (by omega), by decide⟩
    exact blank
  · rw [deferral] at hf; cases hf
  · rw [deferral] at hf; cases hf

theorem State.engineReset_handle (h : s.HandleInRange) (rising : Assoc.rising s.queues = true) :
    s.engineReset.HandleInRange := by
  intro q
  obtain ⟨shiftLow, shiftHigh, handleLow, handleHigh, -, -⟩ := h q
  have handleHigh : (s.queue q).config.initialHandle ≤ 65535 := handleHigh
  rw [State.engineReset_queue rising]
  refine ⟨shiftLow, shiftHigh, handleLow, handleHigh, ?_, ?_⟩
  · show 1 ≤ (s.queue q).config.initialHandle * 16
    omega
  · show (s.queue q).config.initialHandle * 16 ≤ 1048560
    omega

theorem State.Paced.serveEngineReset (h : e.st.Paced timed ranged good now) (rising : Assoc.rising e.st.queues = true)
    (l : Link) (r : Request) : (e.serveEngineReset l r).st.Paced timed ranged good now := by
  have emptied : (e.upd fun s => s.engineReset).st.Paced timed ranged good now :=
    ⟨fun ht => State.engineReset_timely (h.timely ht) rising, fun hr => State.engineReset_handle (h.handle hr) rising⟩
  unfold Ev.serveEngineReset
  refine State.Paced.foldl (fun d l hd => ?_) allLinks _ (emptied.replied l r _ _)
  exact hd.same (d.queueNotice_terms l _)

/-- The deadlines and the handle times are kept by every command, from a state whose records agree. -/
theorem upholds_paced {c : Instr} (rising : Assoc.rising s.queues = true) (records : timed → s.RecordsAgree)
    (reset : c = .powerOnReset → ∃ now', State.Paced timed ranged (Near now') now' (State.resetWith s.pending)) :
    Upholds c s (State.Paced timed ranged (Near s.tick) s.tick)
      fun t => ∃ now', t.Paced timed ranged (Near now') now' where
  weaken h := ⟨_, h⟩
  tick _ h := ⟨_, h.tick⟩
  reset := reset
  configured h k := h.configured k
  freeHighway w h := h.freeHighway w
  queueSet l r b _ hb h := h.serveQueueSet (readQueueSet_bounded hb) l r fun ht =>
    (records ht).agesItsOrder (s.takeHead_same l) b.queue
  engineReset l r _ h := h.serveEngineReset (by rw [State.takeHead_st, State.setLink_queues]; exact rising) l r
  finish h := h.finish
  enter l r b p h hn _ := h.enterCall hn l r b p
  withdraw l r h _ := h.serveWithdraw l r _ _
  release l r h hc := h.serveRelease hc l r
  login l r h hb := h.serveLogin l r (readLogin_penalty hb)
  ready l r x h := h.serveReady l r x
  notReady l r x reason cause h := h.serveNotReady l r x reason cause
  logout l r x cause h := h.serveLogout l r x cause
  logoutNow x cause h := h.logoutNow x cause
  update l r h hb := h.serveUpdate l r (readUpdate_penalty hb)
  extend l r b h := h.serveWrapExtend (fun _ _ _ hd => hd) l r b
  endWrap cause h _ := h.endWrap _ _ cause
  connect token h hc := h.connect hc _ token
  failOffer out cause h _ _ := h.failOffer (fun _ hd => hd) _ _ out cause
  agentRead {u} x h := h.editAgent x (a := (u.agent x).clearAccumulators) (.inl rfl) (.inl rfl) rfl
  agentAttempt x h := h.agentAttempt x
  ringExpiry y h := (h.takeRingExpiry (fun _ _ hd => hd) y).unpast fun _ => .near_now _
  promotion y h := (h.takePromotionDeadline y).unpast fun _ => .near_now _
  stepDeadline y h := (h.takeStepDeadline y).unpast fun _ => .near_now _
  deferralExpiry y h := (h.takeDeferralExpiry y).unpast fun _ => .near_now _
  wrapDeadline x h := (h.takeWrapDeadline x).unpast fun _ => .near_now _
  penaltyExpiry x h := (h.takePenaltyExpiry x).unpast fun _ => .near_now _
  grantHead w h hd := h.grantHead w hd
  grants w h := h.grants w
  endPhrase w ts y d t h := h.endPhrase w ts y d t
  completeExit l y h := h.completeExit l y
  takeHeldListen l y h := h.takeHeldListen l y
  attemptStage l h := h.attemptStage l
  loseSwitchingLink l w h := h.loseSwitchingLink l w

/-! ## The redirect counts -/

theorem State.RedirectsBounded.worked (h : s.RedirectsBounded) (k : s.Worked t) : t.RedirectsBounded := k.redirects h

theorem upholds_redirects {c : Instr} : Upholds c s State.RedirectsBounded State.RedirectsBounded := by
  refine .of_worked id (fun h k => h.worked k) (fun h k y d hd => h y d (k.call y ▸ hd)) (fun _ _ h => h)
    (fun _ y d hd => nomatch hd) (fun l r b _ _ h => ?_) fun _ _ _ y d hd => nomatch hd
  obtain ⟨v, same, k | ⟨new, k⟩⟩ := (s.takeHead l).serveQueueSet_worked l r b
  · exact (h.worked same.worked).worked k
  · refine State.RedirectsBounded.worked (s := v.setQueue b.queue _) (fun y d hd => ?_) k
    exact h.worked same.worked y d (by rwa [State.setQueue_call] at hd)

end

/-! ## A step -/

theorem State.OnTime.withPending {s : State} (h : s.OnTime) (cs : List Instr) : State.OnTime { s with pending := cs } :=
  ⟨h.deadlines, { h.durations with }, h.extensions, h.aging, h.exiting, h.deferred, h.boundary⟩

theorem State.resetWith_handle (cs : List Instr) : (State.resetWith cs).HandleInRange := fun q => by
  show Queue.powerOn.HandleInRange
  exact ⟨by decide, by decide, by decide, by decide, by decide, by decide⟩

/-- A step executes the next command, from the state without it; a state without commands stays as it is. -/
theorem step_upholds {s t : State} {P : State → State → Prop} (ht : step s = .next t) (idle : P s s)
    (executes : ∀ c rest, s.pending = c :: rest → ∃ u, exec c { s with pending := rest } = .next u ∧ P s u) : P s t := by
  unfold step at ht
  split at ht
  · rename_i c rest hp
    obtain ⟨u, hu, h⟩ := executes c rest hp
    rw [hu] at ht
    cases ht
    exact h
  · cases ht
    exact idle

/-- Settles O15: every command is gone through once with what keeps a deadline near, which is that each record's deadlines are in
reach, that a tick takes those that it reaches, and that whatever makes one makes it from a duration in range. -/
theorem redirectsAndHandleTimesInRange : Obligations.RedirectsAndHandleTimesInRange := by
  refine ⟨fun s t h ht => ?_, fun s t rising h ht => ?_, fun s t rising records h ht => ?_⟩
  · refine step_upholds (P := fun _ t => t.RedirectsBounded) ht h fun c rest _ => ?_
    exact upholds_redirects.exec (s := { s with pending := rest }) h
  · refine step_upholds (P := fun _ t => t.HandleInRange) ht h fun c rest _ => ?_
    obtain ⟨u, hu, now, hh⟩ := (upholds_paced (c := c) (s := { s with pending := rest }) (timed := False) (ranged := True)
      rising.queues False.elim fun _ => ⟨0, False.elim, fun _ => State.resetWith_handle rest⟩).exec ⟨False.elim, fun _ => h⟩
    exact ⟨u, hu, hh.handle trivial⟩
  · refine step_upholds (P := fun _ t => t.OnTime) ht h fun c rest _ => ?_
    have start := h.withPending rest
    have agree : State.RecordsAgree { s with pending := rest } := { records with }
    have reset : (State.resetWith rest).Timely _ _ := (State.reset_onTime.withPending rest).timely fun y c hc => nomatch hc
    obtain ⟨u, hu, now, hh⟩ := (upholds_paced (c := c) (s := { s with pending := rest }) (timed := True) (ranged := False)
      rising.queues (fun _ => agree) fun _ => ⟨_, fun _ => reset, False.elim⟩).exec
        ⟨fun _ => start.timely fun y c hc hs => (agree.answered y c hc hs).1, False.elim⟩
    exact ⟨u, hu, (hh.timely trivial).onTime⟩

end Sys2Proof.Machine
end

section
/-!
PROOF. A promotion (O50): the call's new place in its order, and the end of an offer, which moves it in none.
-/
namespace Sys2Proof.Machine

open Sys2Proof

theorem List.takeWhile_congr {α : Type} {p q : α → Bool} {L : List α} (h : ∀ a ∈ L, p a = q a) :
    L.takeWhile p = L.takeWhile q := by
  induction L with
  | nil => rfl
  | cons a L ih =>
    have ih := ih fun b hb => h b (List.mem_cons_of_mem a hb)
    rw [List.takeWhile_cons, List.takeWhile_cons, h a List.mem_cons_self, ih]

theorem List.dropWhile_congr {α : Type} {p q : α → Bool} {L : List α} (h : ∀ a ∈ L, p a = q a) :
    L.dropWhile p = L.dropWhile q := by
  induction L with
  | nil => rfl
  | cons a L ih =>
    have ih := ih fun b hb => h b (List.mem_cons_of_mem a hb)
    rw [List.dropWhile_cons, List.dropWhile_cons, h a List.mem_cons_self, ih]

/-- The place of a call in an order that does not hold it does not depend on its own record. -/
theorem State.insertInOrder_setCall {s : State} {y : Nat} {L : List Nat} (hy : y ∉ L) (c : Call) (band : Nat) (entry : Tick) :
    (s.setCall y c).insertInOrder y band entry L
      = L.takeWhile (s.standsBefore band entry) ++ y :: L.dropWhile (s.standsBefore band entry) := by
  have same : ∀ z ∈ L, (s.setCall y c).standsBefore band entry z = s.standsBefore band entry z := fun z hz => by
    have hn : y ≠ z := fun h => hy (h ▸ hz)
    rw [State.standsBefore, State.call?_setCall, if_neg hn]
    rfl
  rw [State.insertInOrder_eq, List.takeWhile_congr same, List.dropWhile_congr same]

/-- A call re-inserted with a new record of the same queue. -/
theorem State.reinsert_setCall {s : State} {y : Nat} (c : Call) :
    (s.setCall y c).reinsert y c = (s.setCall y c).setQueue c.queue { s.queue c.queue with
      order := ((s.queue c.queue).order.filter (· != y)).takeWhile (s.standsBefore c.band c.entry)
        ++ y :: ((s.queue c.queue).order.filter (· != y)).dropWhile (s.standsBefore c.band c.entry) } := by
  unfold State.reinsert
  dsimp only
  rw [State.setCall_queue, State.insertInOrder_setCall (by simp)]

/-- Settles O50: a promotion is a new record and a new insertion, and the end of an offer writes the call's and the agent's
records alone. -/
theorem promotionLiftsCall : Obligations.PromotionLiftsCall := by
  refine ⟨fun s x y c outcome hc => ⟨?_, fun q => ?_⟩, fun s y c deadline hc hp due => ?_⟩
  · rw [State.endOffer_eq hc, State.setAgent_call, State.call?_setCall, if_pos rfl]
  · rw [State.endOffer_eq hc, State.setAgent_queue, State.setCall_queue]
  · have taken : exec (.promotionDeadline y) s = .next (s.promote y c deadline) := by
      show Host.Outcome.next (s.takePromotionDeadline y) = _
      unfold State.takePromotionDeadline
      rw [hc]
      dsimp only
      rw [hp]
      exact congrArg Host.Outcome.next (if_pos (decide_eq_true due))
    rw [taken]
    exact congrArg Host.Outcome.next (State.reinsert_setCall _)

end Sys2Proof.Machine
end

section
/-!
PROOF. The leave rule at the end of an event (R94), and CALL_RELEASE (O46).
-/
namespace Sys2Proof.Machine

open Sys2Proof

/-! ## A record written twice -/

theorem Assoc.erase_insert {α : Type} (k : Nat) (v : α) (t : List (Nat × α)) :
    Assoc.erase k (Assoc.insert k v t) = Assoc.erase k t := by
  induction t with
  | nil => simp [Assoc.erase, Assoc.insert]
  | cons e t ih =>
    obtain ⟨k', v'⟩ := e
    unfold Assoc.insert
    split
    · simp [Assoc.erase]
    · unfold Assoc.erase at ih ⊢
      rw [List.filter_cons, List.filter_cons, ih]

theorem Assoc.erase_erase {α : Type} (k : Nat) (t : List (Nat × α)) : Assoc.erase k (Assoc.erase k t) = Assoc.erase k t := by
  simp [Assoc.erase]

theorem Assoc.set_set {α : Type} [DecidableEq α] (d : α) (k : Nat) (v w : α) (t : List (Nat × α)) :
    Assoc.set d k w (Assoc.set d k v t) = Assoc.set d k w t := by
  have erased : Assoc.erase k (Assoc.set d k v t) = Assoc.erase k t := by
    unfold Assoc.set
    split
    · exact Assoc.erase_erase k t
    · rw [Assoc.put, Assoc.erase_insert, Assoc.erase_erase]
  unfold Assoc.set at erased ⊢
  unfold Assoc.put at erased ⊢
  rw [erased]

theorem State.setAgent_setAgent (s : State) (x : Nat) (a b : Agent) : (s.setAgent x a).setAgent x b = s.setAgent x b := by
  unfold State.setAgent
  rw [Assoc.set_set]

/-- Two records of an agent that weigh the same and report a change alike. -/
structure Agent.SameStanding (a b : Agent) : Prop where
  state : a.state = b.state
  reason : a.reason = b.reason
  home : a.home = b.home
  skills : a.skills = b.skills

section
variable {s u : State} {e : Ev} {x : Nat} {a b new : Agent} {cause : Cause}

theorem Agent.SameStanding.reweigh (h : a.SameStanding b) (s : State) (new : Agent) : s.reweigh a new = s.reweigh b new := by
  unfold State.reweigh State.adjustWeights Agent.share
  rw [h.state, h.skills]

theorem Agent.SameStanding.agentReport (h : a.SameStanding b) (s : State) (x : Nat) (new : Agent) (cause : Cause) :
    s.agentReport x a new cause = s.agentReport x b new cause := by
  unfold State.agentReport
  rw [h.state, h.reason, h.home]

/-- A record of the same standing in between leaves no trace. -/
theorem State.settled_setAgent (h : a.SameStanding (s.agent x)) (new : Agent) (ls : List Nat) :
    (s.setAgent x a).settled x new ls = s.settled x new ls := by
  unfold State.settled
  rw [State.setAgent_setAgent, State.agent_setAgent, if_pos rfl, h.reweigh]

theorem State.agentOut_setAgent (h : a.SameStanding (s.agent x)) (new : Agent) (cause : Cause) :
    (s.setAgent x a).agentOut x new cause = s.agentOut x new cause := by
  unfold State.agentOut
  rw [State.setAgent_available, State.settled_setAgent h, State.agent_setAgent, if_pos rfl, h.agentReport]

theorem State.agentJoins_setAgent (h : a.SameStanding (s.agent x)) (new : Agent) (cause : Cause) :
    (s.setAgent x a).agentJoins x new cause = s.agentJoins x new cause := by
  unfold State.agentJoins
  rw [State.setAgent_available, State.settled_setAgent h, State.agent_setAgent, if_pos rfl]
  dsimp only
  split
  · exact h.agentReport _ _ _ _
  · rw [h.agentReport]

/-- A logout leaves nothing of the record that it finds in between. -/
theorem State.agentLogsOut_setAgent (ha : a.SameStanding (s.agent x)) (hb : b.SameStanding (s.agent x)) (h : a.out = b.out)
    (cause : Cause) : (s.setAgent x a).agentLogsOut x cause = (s.setAgent x b).agentLogsOut x cause := by
  have written : ∀ {c : Agent}, c.SameStanding (s.agent x) →
      (s.setAgent x c).agentLogsOut x cause
        = ({ s with recent := s.recent.filter fun r => r.agent != x }).agentOut x c.out cause := fun {c} hc => by
    unfold State.agentLogsOut
    rw [State.agent_setAgent, if_pos rfl]
    exact State.agentOut_setAgent (s := { s with recent := s.recent.filter fun r => r.agent != x }) hc _ _
  rw [written ha, written hb, h]

/-! ## The leave rule -/

/-- An agent's record out of its call and wrap-up (R94). -/
def Agent.unwrapped (a : Agent) : Agent := { a with wrap := none, call := none }

/-- The leave rule at the end of an event, where the agent's record in between is of the standing that it had (R94). -/
theorem Ev.Quiet.agentLeaves (h : e.Quiet) (he : e.st = u.setAgent x a) (standing : a.SameStanding (u.agent x)) (cause : Cause) :
    ((e.leave x cause).agentAttempt x).finish = u.agentLeaves x a.unwrapped cause := by
  have agent : e.st.agent x = a := by rw [he, State.agent_setAgent, if_pos rfl]
  have tick : e.st.tick = u.tick := by rw [he, State.setAgent_tick]
  have left := (e.leave_replaced x cause).1.agent x
  rw [if_pos rfl, agent] at left
  have stays : (a.left e.st.tick).state ≠ .available → (e.leave x cause).agentAttempt x = e.leave x cause :=
    fun hn => Ev.agentAttempt_idle fun hx => absurd (left ▸ hx) hn
  unfold State.agentLeaves
  rw [show a.unwrapped.pending = a.pending from rfl]
  cases hp : a.pending with
  | logout =>
    rw [stays (by simp [Agent.left, hp, Agent.loggedOut])]
    have leaves : e.leave x cause = e.completeLogout x cause := by
      unfold Ev.leave
      rw [agent]
      dsimp only
      rw [hp]
    rw [leaves, h.agentLogsOut, he]
    exact State.agentLogsOut_setAgent (b := a.unwrapped) standing ⟨standing.state, standing.reason, standing.home, standing.skills⟩ rfl cause
  | notReady reason =>
    rw [stays (by simp [Agent.left, hp, Agent.madeNotReady])]
    have leaves : e.leave x cause
        = e.putAgent x (({ a with wrap := none, call := none } : Agent).madeNotReady reason) cause := by
      unfold Ev.leave
      rw [agent]
      dsimp only
      rw [hp]
    rw [leaves, h.agentOut x _ cause (by simp [Agent.madeNotReady]), he]
    exact State.agentOut_setAgent standing _ _
  | none =>
    have leaves : e.leave x cause
        = e.putAgentAtTail x (({ a with wrap := none, call := none } : Agent).madeAvailable e.st.tick) cause := by
      unfold Ev.leave
      rw [agent]
      dsimp only
      rw [hp]
    rw [leaves, h.agentJoins x _ cause (by simp [Agent.madeAvailable]), tick, he]
    exact State.agentJoins_setAgent standing _ _

/-! ## CALL_RELEASE -/

/-- The record of an agent whose call ends, before its wrap-up (R84, R95). -/
theorem Agent.addCall_standing (a : Agent) (talk : Nat) (y : Option Nat) :
    ({ a.addCall talk with call := y } : Agent).SameStanding a := ⟨rfl, rfl, rfl, rfl⟩

/-- The end of a connected call, for its agent, at the end of the event (R84 to R86, R94). -/
theorem Ev.Quiet.wrapStarts (h : e.Quiet) (x q : Nat) (since : Tick) (cause : Cause) :
    ((e.startWrap x q since cause).agentAttempt x).finish =
      if (e.st.queue q).config.wrapLimit = 0 then
        (e.st.updateAht q (talkTicks e.st.tick since)).agentLeaves x
          ((e.st.agent x).addCall (talkTicks e.st.tick since)).unwrapped cause
      else
        e.st.agentOut x
          { (e.st.agent x).addCall (talkTicks e.st.tick since) with
            state := .wrapUp
            call := none
            wrap := some { queue := q, talk := talkTicks e.st.tick since, start := e.st.tick
                           deadline := Tick.plus e.st.tick (e.st.queue q).config.wrapLimit, granted := 0 } } cause := by
  unfold Ev.startWrap
  dsimp only
  generalize talkTicks e.st.tick since = talk
  split
  · refine (h.upd _).agentLeaves (u := e.st.updateAht q talk) (a := { (e.st.agent x).addCall talk with call := none }) rfl ?_
      cause
    rw [(State.updateAht_same _ _ _).agent]
    exact Agent.addCall_standing _ talk none
  · have idle : ∀ new : Agent, new.state ≠ .available →
        (e.putAgent x new cause).agentAttempt x = e.putAgent x new cause := fun new hn =>
      Ev.agentAttempt_idle fun hx => absurd hx (by rw [(e.putAgent_replaced x new cause).agent, if_pos rfl]; exact hn)
    rw [idle _ (by simp)]
    exact h.agentOut x _ cause (by simp)

end

theorem State.Served.release {s : State} {l : Link} {r : Request} {y : Nat} (h : s.Served l r 0x03 .calls)
    (hb : readSlot r.body = some y) :
    exec (.callRelease l) s = .next ((s.takeHead l).forCall l r y ((s.takeHead l).serveRelease l r y)).finish :=
  h.serves (serve := fun r e y => e.forCall l r y (e.serveRelease l r y)) h.mine hb rfl

/-- Settles O46: the checks of a request about a call, and then the wrap-up or the leave rule of the agent. -/
theorem callReleaseStartsWrapUp : Obligations.CallReleaseStartsWrapUp := by
  intro l r s y h hb
  have call := s.takeHead_call l
  refine ⟨fun out => ?_, fun c hc hy => ⟨fun ho => ?_, fun ho hs => ?_, fun ho hs ha => ?_, fun x since ho hs ha ht => ?_⟩⟩
  · have none : (if y < Config.callSlots then (s.takeHead l).st.call? y else none) = none := by
      split
      · rename_i hy; exact (call y).trans (out.resolve_left (not_le.2 hy))
      · rfl
    rw [h.release hb, Ev.forCall, none, State.takeHead_reply_finish]
  · have found : (if y < Config.callSlots then (s.takeHead l).st.call? y else none) = some c := (if_pos hy).trans ((call y).trans hc)
    rw [h.release hb, Ev.forCall, found]
    dsimp only
    rw [if_neg ho, State.takeHead_reply_finish]
  all_goals rw [h.release hb, Ev.forCall_own ((call y).trans hc) hy ho, Ev.serveRelease]
  · cases hs' : c.state with
    | waiting => dsimp only; rw [State.takeHead_reply_finish]
    | offering => dsimp only; rw [State.takeHead_reply_finish]
    | connected => exact absurd hs' hs
  · rw [hs, ha]
    dsimp only
    rw [State.takeHead_reply_upd_finish]
  · rw [hs, ha, ht]
    dsimp only
    have quiet := ((s.takeHead_quiet l).reply l r .done .bare).upd fun s => s.freeCall y
    have st : (((s.takeHead l).reply l r .done .bare).upd fun s => s.freeCall y).st
        = (s.answered l r .done .bare).freeCall y := by rw [Ev.upd_st, State.takeHead_reply]
    have answered := s.answered_same l r .done .bare
    have cause : (((s.takeHead l).reply l r .done .bare).upd fun s => s.freeCall y).st.callCause x l
        = if (s.agent x).home = some l then .request else .otherLink := by
      rw [st, State.callCause, State.freeCall_agent, answered.agent]
    rw [cause, quiet.wrapStarts, st, State.freeCall_agent, answered.agent, State.freeCall_queue, State.answered_queue,
      State.freeCall_tick, answered.tick]
    rfl

end Sys2Proof.Machine
end

section
/-!
PROOF. The distribution attempts for a queue, one after another: the offers that an event makes are those of `State.Attempts` (R59).
-/
namespace Sys2Proof.Machine

open Sys2Proof

section
variable {s : State} {e : Ev} {q y x : Nat} {c : Call}

theorem State.candidate_iff (s : State) (y : Nat) (c : Call) (hc : s.call? y = some c) :
    s.candidate c = true ↔ s.Candidate y c := by
  unfold State.candidate State.Candidate
  simp [hc, and_assoc]

theorem State.fits_iff (s : State) (q : Nat) (c : Call) (x : Nat) :
    (s.qualified (s.agent x) q && s.pairable c (s.agent x)) = true ↔ s.Fits q c x := by
  rw [Bool.and_eq_true, State.Fits]

theorem State.agentFor_none_iff : s.agentFor q c = none ↔ ∀ x ∈ s.available, ¬s.Fits q c x := by
  unfold State.agentFor
  rw [List.find?_eq_none]
  exact forall₂_congr fun x _ => not_congr (s.fits_iff q c x)

theorem State.agentFor_some (h : s.agentFor q c = some x) :
    s.Fits q c x ∧ ∃ ahead behind, s.available = ahead ++ x :: behind ∧ ∀ z ∈ ahead, ¬s.Fits q c z := by
  obtain ⟨fits, ahead, behind, split, first⟩ := List.find?_eq_some_iff_append.1 h
  refine ⟨(s.fits_iff q c x).1 fits, ahead, behind, split, fun z hz fit => ?_⟩
  have := first z hz
  rw [(s.fits_iff q c z).2 fit] at this
  cases this

/-- What a walk along an order passes by, no AVAILABLE agent can be offered. -/
theorem State.pairIn_passed {order : List Nat} (h : s.pairIn q order = none) :
    ∀ z ∈ order, ∀ d, s.Candidate z d → ∀ x ∈ s.available, ¬s.Fits q d x := by
  induction order with
  | nil => exact fun z hz => absurd hz List.not_mem_nil
  | cons y rest ih =>
    intro z hz d hd
    unfold State.pairIn at h
    rcases List.mem_cons.1 hz with rfl | hz
    · rw [hd.1] at h
      dsimp only at h
      rw [if_pos ((s.candidate_iff z d hd.1).2 hd)] at h
      cases ha : s.agentFor q d with
      | none => exact State.agentFor_none_iff.1 ha
      | some x => rw [ha] at h; cases h
    · refine ih ?_ z hz d hd
      cases hc : s.call? y with
      | none => rw [hc] at h; exact h
      | some c =>
        rw [hc] at h
        dsimp only at h
        split at h
        · cases ha : s.agentFor q c with
          | none => rw [ha] at h; exact h
          | some x => rw [ha] at h; cases h
        · exact h

theorem State.pairIn_found {order : List Nat} (h : s.pairIn q order = some (y, c, x)) :
    s.Candidate y c ∧ s.agentFor q c = some x ∧ ∃ before after, order = before ++ y :: after
      ∧ ∀ z ∈ before, ∀ d, s.Candidate z d → ∀ x ∈ s.available, ¬s.Fits q d x := by
  induction order with
  | nil => cases h
  | cons z rest ih =>
    have later : s.pairIn q [z] = none → s.pairIn q rest = some (y, c, x) → s.Candidate y c ∧ s.agentFor q c = some x
        ∧ ∃ before after, z :: rest = before ++ y :: after
          ∧ ∀ z ∈ before, ∀ d, s.Candidate z d → ∀ x ∈ s.available, ¬s.Fits q d x := fun passed found => by
      obtain ⟨candidate, agent, before, after, split, first⟩ := ih found
      refine ⟨candidate, agent, z :: before, after, by rw [split]; rfl, fun w hw => ?_⟩
      rcases List.mem_cons.1 hw with rfl | hw
      · exact State.pairIn_passed passed w List.mem_cons_self
      · exact first w hw
    unfold State.pairIn at h
    cases hc : s.call? z with
    | none =>
      rw [hc] at h
      exact later (by rw [State.pairIn, hc]; rfl) h
    | some d =>
      rw [hc] at h
      dsimp only at h
      split at h
      · rename_i candidate
        cases ha : s.agentFor q d with
        | none =>
          rw [ha] at h
          refine later ?_ h
          rw [State.pairIn, hc]
          dsimp only
          rw [if_pos candidate, ha]
          rfl
        | some w =>
          rw [ha] at h
          cases h
          exact ⟨(s.candidate_iff y c hc).1 candidate, ha, [], rest, rfl, fun z hz => absurd hz List.not_mem_nil⟩
      · rename_i candidate
        refine later ?_ h
        rw [State.pairIn, hc]
        dsimp only
        rw [if_neg candidate]
        rfl

theorem State.attempt_of_pairIn (h : s.pairIn q (s.queue q).order = some (y, c, x)) :
    s.Attempt q { slot := y, call := c, agent := x } := by
  obtain ⟨candidate, agent, order⟩ := State.pairIn_found h
  obtain ⟨fits, available⟩ := State.agentFor_some agent
  exact ⟨candidate, fits, order, available⟩

/-- An offer takes its agent out of the available list. -/
theorem State.offerMade_available (s : State) (y : Nat) (c : Call) (x : Nat) :
    (s.offerMade y c x).available = s.available.filter (· != x) := by
  unfold State.offerMade
  dsimp only
  split
  · simp [State.settled]
  · simp [State.settled]

/-- The attempts for a queue end before the fuel does, and are those of R59, one after another. -/
theorem Ev.attemptLoop_attempts (q fuel : Nat) (e : Ev) (hf : e.st.available.length < fuel) :
    ∃ os : List Pairing, State.Attempts q e.st os (Ev.attemptLoop q fuel e).st ∧ e.Tells (Ev.attemptLoop q fuel e) := by
  induction fuel generalizing e with
  | zero => exact absurd hf (Nat.not_lt_zero _)
  | succ fuel ih =>
    unfold Ev.attemptLoop
    cases found : e.st.pairIn q (e.st.queue q).order with
    | none => exact ⟨[], .stop (State.pairIn_passed found), .refl e⟩
    | some p =>
      obtain ⟨y, c, x⟩ := p
      dsimp only
      have attempt := State.attempt_of_pairIn found
      have pairable : e.st.pairable c (e.st.agent x) = true := attempt.2.1.2
      have listed : x ∈ e.st.available := by
        obtain ⟨ahead, behind, split, -⟩ := attempt.2.2.2
        rw [split]
        simp
      have fewer : (e.st.offerMade y c x).available.length < fuel := by
        rw [State.offerMade_available]
        have shorter : (e.st.available.filter (· != x)).length < e.st.available.length :=
          List.length_filter_lt_length_iff_exists.2 ⟨x, listed, by simp⟩
        omega
      have made := e.makeOffer_eq y c x pairable
      have made_st : (e.makeOffer y c x).st = e.st.offerMade y c x := by rw [made]
      have tells : e.Tells (e.makeOffer y c x) := by rw [made]; exact ⟨⟨_, rfl⟩, rfl, rfl⟩
      obtain ⟨os, attempts, told⟩ := ih (e.makeOffer y c x) (by rw [made_st]; exact fewer)
      rw [made_st] at attempts
      exact ⟨_, .offer attempt attempts, tells.trans told⟩

theorem Ev.queueAttempts_attempts (e : Ev) (q : Nat) :
    ∃ os : List Pairing, State.Attempts q e.st os (e.queueAttempts q).st ∧ e.Tells (e.queueAttempts q) :=
  Ev.attemptLoop_attempts q _ e (Nat.lt_succ_self _)

end

end Sys2Proof.Machine
end

section
/-!
PROOF. QUEUE_SET (O25): the refusal, the configuration stored, and what follows it.
-/
namespace Sys2Proof.Machine

open Sys2Proof

section
variable {s t u : State} {e : Ev} {b : QueueSetBody} {old new : QueueConfig} {l : Link} {r : Request}

theorem State.Notified.settings (h : s.Notified t) : t.settings = s.settings := by rw [h.rest]; rfl

theorem State.Notified.sameLinks (h : s.Notified t) : s.SameLinks t := by
  constructor
  all_goals
    intro k
    obtain ⟨ns, dropped, hk⟩ := h.link k
    rw [hk]

/-- The numbers that a QUEUE_SET masks are in range. -/
theorem QueueSetBody.inRange_iff (b : QueueSetBody) : b.inRange = true ↔ b.queue < 64
    ∧ (∀ p, b.pattern = some p → p < 32) ∧ ∀ t, b.overflowTarget = some (some t) → t < 64 := by
  have pattern : b.pattern.getD 0 < 32 ↔ ∀ p, b.pattern = some p → p < 32 := by
    cases b.pattern with
    | none => simp
    | some p => simp
  have target : (b.overflowTarget.getD none).getD 0 < 64 ↔ ∀ t, b.overflowTarget = some (some t) → t < 64 := by
    rcases b.overflowTarget with _ | _ | t <;> simp
  unfold QueueSetBody.inRange
  rw [Bool.and_eq_true, Bool.and_eq_true, decide_eq_true_iff, decide_eq_true_iff, decide_eq_true_iff, and_assoc]
  exact and_congr Iff.rfl (and_congr pattern target)

/-- The lower threshold is at most the upper one wherever a QUEUE_SET masks either (R32). -/
theorem QueueConfig.set_lower_le (c : QueueConfig) (b : QueueSetBody) (h : (b.upper.isSome || b.lower.isSome) = true) :
    (c.set b).lower ≤ (c.set b).upper := by
  show b.newLower c ≤ b.newUpper c
  unfold QueueSetBody.newLower
  split
  · exact Nat.min_le_right _ _
  · rename_i hl
    rw [hl] at h
    rw [if_pos (by simpa using h)]
    exact Nat.min_le_right _ _

/-- A queue that is open closes, and one that is closed opens, where the lower threshold is at most the upper one. -/
theorem closed_settled {closed : Bool} {upper lower n : Nat} (h : lower ≤ upper) :
    ((closed || decide (upper ≤ n)) && !decide (n < lower)) = if closed = true then !decide (n < lower) else decide (upper ≤ n) := by
  cases closed with
  | true => rfl
  | false =>
    by_cases up : upper ≤ n
    · simp [up, Nat.not_lt.2 (h.trans up)]
    · simp [up]

theorem State.weightSum_congr (agents : t.agents = s.agents) {q : Nat} (config : (t.queue q).config = (s.queue q).config) :
    t.weightSum q = s.weightSum q := by
  unfold State.weightSum State.contribution State.qualified
  rw [agents, config]

/-- A call's promotion deadline set anew, written out (R34). -/
theorem Call.reaged_eq (c : Call) (old new : Nat) (now : Tick) : c.reaged old new now =
    if c.band < 7 ∧ c.exitPending = none then
      if new = 0 then { c with promotion := none }
      else if old = 0 then { c with promotion := some (Tick.plus now new) } else c
    else c := by
  have open_iff : (Config.topBand ≤ c.band ∨ c.exitPending.isSome = true) ↔ ¬(c.band < 7 ∧ c.exitPending = none) := by
    rw [not_and_or, not_lt, ← ne_eq, ← Option.isSome_iff_ne_none]
  unfold Call.reaged
  by_cases top : c.band < 7 ∧ c.exitPending = none
  · rw [if_neg (mt open_iff.1 (not_not.2 top)), if_pos top]
  · rw [if_pos (open_iff.2 top), if_neg top]

theorem State.Served.queueSet (h : s.Served l r 0x0C .config) (hb : readQueueSet r.body = some b) :
    exec (.queueSet l) s = .next ((s.takeHead l).serveQueueSet l r b).finish :=
  h.serves (serve := fun r e b => e.serveQueueSet l r b) h.mine hb rfl

/-- A QUEUE_SET in range: the state with the effects on its queue, the attempts, and the notices. -/
theorem State.queueSet_runs (s : State) (l : Link) (r : Request) (hb : b.inRange = true)
    (hold : old = (s.queue b.queue).config) (hnew : new = old.set b) :
    ∃ (m u : State) (os : List Pairing), (s.answered l r .done (.queueConfig new)).QueueStored m b old new
      ∧ (if new.minProficiency < old.minProficiency then State.Attempts b.queue m os u else u = m)
      ∧ u.Notified ((s.takeHead l).serveQueueSet l r b).finish
      ∧ Engine ((s.setQueue b.queue { s.queue b.queue with config := new }).answered l r .done (.queueConfig new))
        ((s.takeHead l).serveQueueSet l r b).finish := by
  subst hold hnew
  generalize hold : (s.queue b.queue).config = old
  generalize hnew : old.set b = new
  have queue : ((s.takeHead l).st.queue b.queue).config = old := by
    rw [State.takeHead_st, State.setLink_queue, hold]
  generalize hd : ((s.takeHead l).reply l r .done (.queueConfig new)) = d
  have dst : d.st = s.answered l r .done (.queueConfig new) := by rw [← hd, State.takeHead_reply]
  have quiet : d.Quiet := by rw [← hd]; exact (s.takeHead_quiet l).reply l r .done _
  obtain ⟨stored, tells⟩ := d.applyQueueSet_stored b old new
  have engine := d.applyQueueSet_engine b old new
  generalize hm : d.applyQueueSet b old new = em at stored tells engine
  have commute : d.st.setQueue b.queue { d.st.queue b.queue with config := new }
      = (s.setQueue b.queue { s.queue b.queue with config := new }).answered l r .done (.queueConfig new) := by
    rw [dst, State.answered_queue]
    cases l <;> rfl
  rw [commute] at engine
  rw [dst] at stored
  have served : (s.takeHead l).serveQueueSet l r b
      = if new.minProficiency < old.minProficiency then em.queueAttempts b.queue else em := by
    unfold Ev.serveQueueSet
    rw [if_pos hb, queue]
    dsimp only
    rw [hnew, hd, hm]
  obtain ⟨os, attempts, told⟩ := em.queueAttempts_attempts b.queue
  have finished : ∀ e : Ev, d.Tells e → e.st.Notified e.finish := fun e k => by
    rw [Ev.finish_unfreed (k.freedA.trans quiet.freedA) (k.freedB.trans quiet.freedB)]
    exact State.delivered_notified _ _
  rw [served]
  split
  · exact ⟨em.st, _, os, stored, attempts, finished _ (tells.trans told),
      (engine.trans (Ev.queueAttempts_engine em b.queue)).trans (Ev.finish_engine _)⟩
  · exact ⟨em.st, _, os, stored, rfl, finished _ tells, engine.trans (Ev.finish_engine _)⟩

end

/-- The configuration that a QUEUE_SET stores, written out (R32). -/
theorem QueueConfig.set_eq (c : QueueConfig) (b : QueueSetBody) (upper : Nat)
    (hu : upper = match b.upper with | some n => max 1 (min 2048 n) | none => c.upper) : c.set b =
      { enabled := b.enabled.getD c.enabled
        minProficiency := match b.minProficiency with | some n => max 1 (min 15 n) | none => c.minProficiency
        ringTime := match b.ringTime with | some n => max 10 (min 600 n) | none => c.ringTime
        wrapLimit := b.wrapLimit.getD c.wrapLimit
        maxExtension := b.maxExtension.getD c.maxExtension
        serviceThreshold := b.serviceThreshold.getD c.serviceThreshold
        agingInterval := b.agingInterval.getD c.agingInterval
        upper := upper
        lower := match b.lower, b.upper with
          | some n, _ => min (max 1 (min 2048 n)) upper
          | none, some _ => min c.lower upper
          | none, none => c.lower
        overflowTarget := match b.overflowTarget with
          | none => c.overflowTarget
          | some none => none
          | some (some t) => if t = b.queue then none else some t
        maxWait := match b.maxWait with
          | none => c.maxWait
          | some none => none
          | some (some w) => some (max 1 (min 65534 w))
        pattern := b.pattern.getD c.pattern
        affinity := b.affinity.getD c.affinity
        shift := match b.shift with | some n => max 1 (min 8 n) | none => c.shift
        initialHandle := match b.initialHandle with | some n => max 1 n | none => c.initialHandle } := by
  have newUpper : b.newUpper c = upper := by
    rw [hu, QueueSetBody.newUpper]
    cases b.upper <;> rfl
  unfold QueueConfig.set
  rw [QueueSetBody.newLower, QueueSetBody.newTarget, newUpper]
  congr 1
  · cases b.minProficiency <;> rfl
  · cases b.ringTime <;> rfl
  · cases b.lower <;> cases b.upper <;> rfl
  · rcases b.maxWait with _ | _ | w <;> rfl
  · cases b.shift <;> rfl
  · cases b.initialHandle <;> rfl

/-- Settles O25: the configuration of the reply is the one that the queue takes, each effect follows from its masked field, and the
attempts are made on the state so made. -/
theorem queueSetStoresFields : Obligations.QueueSetStoresFields := by
  intro l r s b h hb
  refine ⟨fun out => ?_, fun hq hp ht => ?_⟩
  · have refused : b.inRange ≠ true := fun hr => by
      obtain ⟨hq, hp, ht⟩ := b.inRange_iff.1 hr
      rcases out with out | ⟨p, h1, h2⟩ | ⟨t, h1, h2⟩
      · omega
      · have := hp p h1; omega
      · have := ht t h1; omega
    rw [h.queueSet hb, Ev.serveQueueSet, if_neg refused, State.takeHead_reply_finish]
  · intro old upper new stored
    have hnew : new = old.set b := (QueueConfig.set_eq old b upper rfl).symm
    obtain ⟨m, u, os, effects, attempts, notified, engine⟩ :=
      s.queueSet_runs l r (b := b) (b.inRange_iff.2 ⟨hq, hp, ht⟩) (old := old) rfl hnew
    have runs := h.queueSet hb
    generalize ((s.takeHead l).serveQueueSet l r b).finish = t at notified engine runs
    generalize hsa : s.answered l r .done (.queueConfig new) = sa at effects
    have same : s.SameRecords sa := hsa ▸ s.answered_same l r .done _
    have agents : s.SameAgents sa := hsa ▸ s.answered_agents l r .done _
    have playout : s.SamePlayout sa := hsa ▸ s.answered_playout l r .done _
    have settings : sa.settings = s.settings := hsa ▸ s.answered_settings l r .done _
    have queue : ∀ q, sa.queue q = s.queue q := fun q => hsa ▸ s.answered_queue l r .done _ q
    have link : ∀ k, sa.link k = { s.link k with
        inbound := if k = l then (s.link k).inbound.tail else (s.link k).inbound
        outbound := (s.link k).outbound ++ (if k = l then [.reply (r.answer .done (.queueConfig new))] else []) } :=
      fun k => hsa ▸ s.answered_link l r .done _ k
    have mlink : ∀ k, m.link k = sa.link k := fun k => by rw [effects.rest]; cases k <;> rfl
    have storedOf : ∀ v, m.Notified v → stored v := fun v k => by
      refine ⟨⟨?_, ?_, ?_, ?_⟩, ⟨fun j => ?_, ?_, fun w => ?_⟩, ?_, ⟨fun j => ?_, fun j => ?_, fun j => ?_, fun j => ?_, fun j => ?_⟩,
        fun q hq => ?_, fun j => ⟨?_, ?_, ?_⟩, ?_, ?_, ?_, ?_, ?_, ?_, fun y => ?_⟩
      · rw [k.agents, effects.rest, agents.agents]
      · rw [k.available, effects.rest, agents.available]
      · rw [k.recent, effects.rest, agents.recent]
      · rw [k.token, effects.rest, agents.token]
      · rw [k.refs, effects.rest, ← playout.refs]; cases j <;> rfl
      · rw [k.useCounts, effects.rest, playout.useCounts]
      · rw [k.highway, effects.rest, ← playout.highways]; cases w <;> rfl
      · rw [k.settings, effects.rest, ← settings]; rfl
      · rw [k.sameLinks.up, mlink, link]
      · rw [k.sameLinks.receiving, mlink, link]
      · rw [k.sameLinks.permissions, mlink, link]
      · rw [k.sameLinks.enables, mlink, link]
      · rw [k.sameLinks.faultCount, mlink, link]
      · rw [k.queue, effects.queue, if_neg (Ne.symm hq), queue]
      · rw [k.reserved, mlink, link]
      · rw [k.exitOrder, mlink, link]
      · rw [k.listenOrder, mlink, link]
      rotate_right
      · rw [k.call, effects.call, queue, same.call, same.tick]
        by_cases aged : b.agingInterval.isSome = true ∧ y ∈ (s.queue b.queue).order
        · rw [if_pos aged]
          refine congrArg (fun f => Option.map f (s.call? y)) (funext fun c => ?_)
          rw [c.reaged_eq]
          simp only [aged, true_and]
          rfl
        · rw [if_neg aged]
          have kept : ∀ c : Call, ¬(b.agingInterval.isSome = true ∧ y ∈ (s.queue b.queue).order ∧ c.band < 7
              ∧ c.exitPending = none) := fun c hc => aged ⟨hc.1, hc.2.1⟩
          simp only [kept, if_false, Option.map_id']
      all_goals rw [k.queue, effects.queue, if_pos rfl, queue]
      · rfl
      · rfl
      · rfl
      · have weighed : (sa.setQueue b.queue { s.queue b.queue with config := new }).weightSum b.queue
            = (s.setQueue b.queue { s.queue b.queue with config := new }).weightSum b.queue :=
          State.weightSum_congr (by simp [agents.agents]) (by simp)
        rw [weighed]
        rfl
      · rfl
      · show (if (b.upper.isSome || b.lower.isSome) = true then _ else _) = _
        by_cases masked : (b.upper.isSome || b.lower.isSome) = true
        · rw [if_pos masked, if_pos masked]
          refine closed_settled ?_
          rw [hnew]
          exact old.set_lower_le b masked
        · rw [if_neg masked, if_neg masked]
    refine ⟨t, runs, ?replied, fun q => ?config, fun least => ?least, fun lowered => ?lowered⟩
    case replied =>
      have replied := engine.replied
      have links : ∀ k, (s.setQueue b.queue { s.queue b.queue with config := new }).link k = s.link k := fun k => by simp
      exact ⟨by rw [replied.taken, links], by simpa only [links] using replied.answered,
        fun k hk => by simpa only [links] using replied.others k hk⟩
    case config =>
      rw [engine.worked.config, State.answered_queue, State.queue_setQueue]
      by_cases hb : b.queue = q
      · rw [if_pos hb, if_pos hb.symm]
      · rw [if_neg hb, if_neg (Ne.symm hb)]
    case least =>
      rw [if_neg (Nat.not_lt.2 least)] at attempts
      subst attempts
      exact storedOf t notified
    case lowered =>
      rw [if_pos lowered] at attempts
      refine ⟨m, u, os, storedOf m (.refl m), fun k => ?_, attempts, notified.rest, notified.sameLinks, fun k => ?_⟩
      · rw [mlink, link]
      · obtain ⟨ns, dropped, hk⟩ := notified.link k
        exact ⟨notified.reserved k, notified.exitOrder k, notified.listenOrder k, ns, by rw [hk]⟩

end Sys2Proof.Machine
end

section
/-!
PROOF. A call placed in a waiting order: the counts, the order, the closed flag and the peak of the queues (R36, R43, R163, R165), and
the checks and the reply of CALL_ENTER (O42).
-/
namespace Sys2Proof.Machine

open Sys2Proof

/-! ## Counts (R163) -/

/-- Only counters differ, each by a number of counts. -/
structure Queue.CountedBy (r r' : Queue) (f : CounterName → Word32) : Prop where
  config : r'.config = r.config
  aht : r'.aht = r.aht
  weight : r'.weight = r.weight
  order : r'.order = r.order
  closed : r'.closed = r.closed
  peak : r'.stats.peak = r.stats.peak
  counter : ∀ n, (r'.stats.counter n).value = (r.stats.counter n).value + f n

theorem Queue.CountedBy.refl (r : Queue) : r.CountedBy r fun _ => 0 := ⟨rfl, rfl, rfl, rfl, rfl, rfl, fun n => by simp⟩

theorem Queue.CountedBy.trans {r r' r'' : Queue} {f g : CounterName → Word32} (h : r.CountedBy r' f) (k : r'.CountedBy r'' g) :
    r.CountedBy r'' fun n => f n + g n :=
  ⟨k.config.trans h.config, k.aht.trans h.aht, k.weight.trans h.weight, k.order.trans h.order, k.closed.trans h.closed,
    k.peak.trans h.peak, fun n => by rw [k.counter, h.counter, add_assoc]⟩

theorem Statistics.counter_setCounter (t : Statistics) (n m : CounterName) (c : Counter) :
    (t.setCounter n c).counter m = if m = n then c else t.counter m := by
  cases n <;> cases m <;> rfl

theorem Queue.counted_by (r : Queue) (n : CounterName) : r.CountedBy (r.counted n) fun m => if m = n then 1 else 0 := by
  refine ⟨rfl, rfl, rfl, rfl, rfl, by cases n <;> rfl, fun m => ?_⟩
  unfold Queue.counted
  dsimp only
  rw [Statistics.counter_setCounter]
  split
  · rename_i hm; subst hm; rfl
  · simp

/-- Only counters of the queues differ. -/
structure State.CountedBy (s t : State) (f : Nat → CounterName → Word32) : Prop where
  rest : t = { s with queues := t.queues }
  queue : ∀ q, (s.queue q).CountedBy (t.queue q) (f q)

section
variable {s t u : State} {e d : Ev} {y : Nat} {c : Call} {f g : Nat → CounterName → Word32}

theorem State.CountedBy.refl (s : State) : s.CountedBy s fun _ _ => 0 := ⟨rfl, fun _ => .refl _⟩

theorem State.CountedBy.trans (h : s.CountedBy t f) (k : t.CountedBy u g) : s.CountedBy u fun q n => f q n + g q n :=
  ⟨by rw [k.rest, h.rest], fun q => (h.queue q).trans (k.queue q)⟩

theorem State.CountedBy.congr (h : s.CountedBy t f) (hf : ∀ q n, f q n = g q n) : s.CountedBy t g :=
  ⟨h.rest, fun q => { h.queue q with counter := fun n => by rw [(h.queue q).counter, hf] }⟩

theorem Ev.count_counted (e : Ev) (q : Nat) (n : CounterName) :
    e.st.CountedBy (e.count q n).st fun p m => if m = n ∧ p = q then 1 else 0 := by
  rw [Ev.count_st]
  refine ⟨rfl, fun p => ?_⟩
  rw [State.queue_setQueue]
  by_cases hp : q = p
  · subst hp
    rw [if_pos rfl]
    have counted := (e.st.queue q).counted_by n
    exact { counted with counter := fun m => by rw [counted.counter]; simp }
  · rw [if_neg hp]
    have same := Queue.CountedBy.refl (e.st.queue p)
    exact { same with counter := fun m => by simp [Ne.symm hp] }

theorem Ev.countPassed_counted (qs : List Nat) (e : Ev) :
    e.st.CountedBy (e.countPassed qs).st fun p m => if m = .overflowedOut then BitVec.ofNat 32 (qs.count p) else 0 := by
  induction qs generalizing e with
  | nil => exact (State.CountedBy.refl e.st).congr fun p m => by simp
  | cons q qs ih =>
    refine ((e.count_counted q .overflowedOut).trans (ih _)).congr fun p m => ?_
    by_cases hm : m = .overflowedOut
    · subst hm
      by_cases hp : p = q
      · subst hp
        simp only [and_self, if_true, List.count_cons_self, BitVec.ofNat_add]
        exact add_comm _ _
      · simp [hp, Ne.symm hp]
    · simp [hm]

theorem Ev.countPassed_tells (qs : List Nat) (e : Ev) : e.Tells (e.countPassed qs) := by
  induction qs generalizing e with
  | nil => exact .refl e
  | cons q qs ih => exact (e.count_tells q _).trans (ih _)

/-! ## The joining of a waiting order (R36, R39, R43) -/

/-- A queue's record with a new waiting order, and what follows its length. -/
def Queue.joinedBy (r : Queue) (order : List Nat) : Queue :=
  { r with
    order := order
    closed := r.closed || decide (r.config.upper ≤ order.length)
    stats := { r.stats with peak := max r.stats.peak order.length } }

theorem Ev.joinOrder_tells (e : Ev) (y : Nat) (c : Call) : e.Tells (e.joinOrder y c) :=
  (Ev.Tells.upd e _).trans (Ev.evalClosing_tells _ _)

theorem Ev.joinOrder_rest (e : Ev) (y : Nat) (c : Call) : (e.joinOrder y c).st = { e.st with queues := (e.joinOrder y c).st.queues } := by
  unfold Ev.joinOrder
  dsimp only
  rw [Ev.evalClosing_frame]
  rfl

theorem Ev.joinOrder_queue (e : Ev) (y : Nat) (c : Call) (q : Nat) : (e.joinOrder y c).st.queue q = if c.queue = q then
    (e.st.queue q).joinedBy (e.st.insertInOrder y c.band c.entry (e.st.queue q).order) else e.st.queue q := by
  unfold Ev.joinOrder
  dsimp only
  rw [Ev.evalClosing_queue]
  by_cases hq : c.queue = q
  · subst hq
    simp only [Ev.upd_st, State.queue_setQueue, if_true]
    rfl
  · simp [Ev.upd_st, hq]

/-- The waiting order with a call put in by band and queue entry tick (R36). -/
def State.placeIn (s : State) (y band : Nat) (entry : Tick) (order : List Nat) : List Nat :=
  order.takeWhile (s.standsBefore band entry) ++ y :: order.dropWhile (s.standsBefore band entry)

theorem State.placeIn_length (s : State) (y band : Nat) (entry : Tick) (order : List Nat) :
    (s.placeIn y band entry order).length = order.length + 1 := by
  have whole := congrArg List.length (List.takeWhile_append_dropWhile (p := s.standsBefore band entry) (l := order))
  rw [List.length_append] at whole
  rw [State.placeIn, List.length_append, List.length_cons]
  omega

/-- The place that a call gets is behind the calls that stand before it. -/
theorem State.placeIn_idxOf (s : State) {y : Nat} (band : Nat) (entry : Tick) {order : List Nat} (hy : y ∉ order) :
    (s.placeIn y band entry order).idxOf y = (order.takeWhile (s.standsBefore band entry)).length := by
  have before : y ∉ order.takeWhile (s.standsBefore band entry) := fun h => hy (List.takeWhile_subset _ h)
  rw [State.placeIn, List.idxOf_append_of_notMem before, List.idxOf_cons_self, Nat.add_zero]

/-- A new record of a call, placed in its queue's order and counted there and at the queues passed. -/
structure State.PlacedBy (s t : State) (y : Nat) (c : Call) (f : Nat → CounterName → Word32) : Prop where
  rest : t = { s.setCall y c with queues := t.queues }
  queue : ∀ q, (if c.queue = q then (s.queue q).joinedBy (s.placeIn y c.band c.entry (s.queue q).order) else s.queue q).CountedBy
    (t.queue q) (f q)

theorem State.PlacedBy.of_joined (hy : y ∉ (e.st.queue c.queue).order)
    (h : ((e.upd fun s => s.setCall y c).joinOrder y c).st.CountedBy t f) : e.st.PlacedBy t y c f := by
  refine ⟨by rw [h.rest, Ev.joinOrder_rest]; rfl, fun q => ?_⟩
  have queue := h.queue q
  rw [Ev.joinOrder_queue, Ev.upd_st, State.setCall_queue] at queue
  by_cases hq : c.queue = q
  · subst hq
    rw [if_pos rfl, State.insertInOrder_setCall hy] at queue
    rw [if_pos rfl]
    exact queue
  · rw [if_neg hq] at queue ⊢
    exact queue

theorem State.PlacedBy.order (h : s.PlacedBy t y c f) (q : Nat) : (t.queue q).order =
    if c.queue = q then s.placeIn y c.band c.entry (s.queue q).order else (s.queue q).order := by
  rw [(h.queue q).order]
  split <;> rfl

theorem State.PlacedBy.ewt (h : s.PlacedBy t y c f) (q n : Nat) : (t.queue q).ewt n = (s.queue q).ewt n := by
  have weight : (t.queue q).weight = (s.queue q).weight := by
    rw [(h.queue q).weight]
    split <;> rfl
  have aht : (t.queue q).aht = (s.queue q).aht := by
    rw [(h.queue q).aht]
    split <;> rfl
  unfold Queue.ewt
  rw [weight, aht]

theorem State.PlacedBy.position (h : s.PlacedBy t y c f) (hy : y ∉ (s.queue c.queue).order) :
    t.position y c = ((s.queue c.queue).order.takeWhile (s.standsBefore c.band c.entry)).length + 1 := by
  rw [State.position, h.order, if_pos rfl, State.placeIn_idxOf _ _ _ hy]

theorem State.standsBefore_congr (call : ∀ z, t.call? z = s.call? z) (band : Nat) (entry : Tick) :
    t.standsBefore band entry = s.standsBefore band entry := by
  funext z
  unfold State.standsBefore
  rw [call]

/-! ## Free slots and chains -/

theorem State.freeSlotFrom_lowest {n a : Nat} (hy : s.call? y = none) (low : a ≤ y) (high : y < a + n)
    (lower : ∀ z, a ≤ z → z < y → (s.call? z).isSome = true) : s.freeSlotFrom n a = some y := by
  induction n generalizing a with
  | zero => omega
  | succ n ih =>
    unfold State.freeSlotFrom
    by_cases ha : a = y
    · subst ha
      rw [hy]
      rfl
    · have occupied := lower a (le_refl a) (by omega)
      rw [if_neg (by rw [Option.isNone_iff_eq_none]; exact Option.isSome_iff_ne_none.1 occupied)]
      exact ih (by omega) (by omega) fun z hz => lower z (by omega)

theorem State.freeSlotFrom_full {n a : Nat} (full : ∀ z, a ≤ z → z < a + n → (s.call? z).isSome = true) :
    s.freeSlotFrom n a = none := by
  induction n generalizing a with
  | zero => rfl
  | succ n ih =>
    have occupied := full a (le_refl a) (by omega)
    unfold State.freeSlotFrom
    rw [if_neg (by rw [Option.isNone_iff_eq_none]; exact Option.isSome_iff_ne_none.1 occupied)]
    exact ih fun z hz hz' => full z (by omega) (by omega)

/-- The chains look at the queues alone. -/
theorem State.arrivalChain_congr (queue : ∀ q, t.queue q = s.queue q) (fuel q count : Nat) (passed : List Nat)
    (last : Option Placement) : t.arrivalChain fuel q count passed last = s.arrivalChain fuel q count passed last := by
  have target : ∀ q, t.divertTarget q = s.divertTarget q := fun q => by simp only [State.divertTarget, queue]
  induction fuel generalizing q count passed last with
  | zero => rfl
  | succ fuel ih => simp only [State.arrivalChain, queue, target, ih]

/-! ## CALL_ENTER -/

/-- The record of an accepted call's reply and place, before its treatment begins (R47 steps 1 to 4). -/
def Ev.admitCall (e : Ev) (b : CallEnterBody) (l : Link) (y : Nat) (p : Placement) : Ev :=
  let c := newCall l b p (e.st.queue p.queue).config e.st.tick
  (((e.upd fun s => s.setCall y c).joinOrder y c).count p.queue .offered).countPassed p.passed

/-- The counts of an arrival: OFFERED where it is placed, OVERFLOWED_OUT at each queue passed (R163). -/
def Placement.counts (p : Placement) (q : Nat) (n : CounterName) : Word32 :=
  (if n = .offered ∧ q = p.queue then 1 else 0) + if n = .overflowedOut then BitVec.ofNat 32 (p.passed.count q) else 0

theorem Ev.admitCall_placed (e : Ev) (b : CallEnterBody) (l : Link) {p : Placement} (hy : y ∉ (e.st.queue p.queue).order) :
    e.st.PlacedBy (e.admitCall b l y p).st y (newCall l b p (e.st.queue p.queue).config e.st.tick) p.counts :=
  .of_joined (by exact hy) ((Ev.count_counted _ p.queue .offered).trans (Ev.countPassed_counted p.passed _))

theorem Ev.admitCall_tells (e : Ev) (b : CallEnterBody) (l : Link) (y : Nat) (p : Placement) : e.Tells (e.admitCall b l y p) :=
  (((Ev.Tells.upd e _).trans (Ev.joinOrder_tells _ _ _)).trans (Ev.count_tells _ _ _)).trans (Ev.countPassed_tells _ _)

/-- The place of an arrival in its queue's order, from 1 (R37). -/
def State.arrivalPosition (s : State) (b : CallEnterBody) (p : Placement) : Nat :=
  ((s.queue p.queue).order.takeWhile (s.standsBefore (min 7 b.priority) s.tick)).length + 1

/-- What an accepted CALL_ENTER is answered (R47, R107). -/
def State.arrivalResult (s : State) (b : CallEnterBody) (y : Nat) (p : Placement) : Result :=
  .entered y p.queue (s.arrivalPosition b p) ((s.queue p.queue).ewt (s.arrivalPosition b p))

theorem Ev.enterCall_eq (e : Ev) (l : Link) (r : Request) (b : CallEnterBody) {p : Placement}
    (hy : y ∉ (e.st.queue p.queue).order) : e.enterCall l r b y p =
      ((((((e.admitCall b l y p).reply l r .done (e.st.arrivalResult b y p)).startTreatment y
        (newCall l b p (e.st.queue p.queue).config e.st.tick) .none none).1.treatmentEvent y).affinityOffer y p.queue).queueAttempts
          p.queue) := by
  have placed := e.admitCall_placed b l hy
  have position := placed.position hy
  have ewt := placed.ewt p.queue
  unfold Ev.enterCall
  dsimp only
  unfold State.arrivalResult
  rw [← show _ = e.st.arrivalPosition b p from position, ← ewt]
  rfl

theorem State.Served.enter {l : Link} {r : Request} {b : CallEnterBody} (h : s.Served l r 0x01 .calls) (hl : l ≠ .s)
    (hb : readCallEnter r.body = some b) :
    exec (.callEnter l) s = .next ((s.takeHead l).serveCallEnter l r b).finish := by
  refine h.serves (serve := fun r e b => e.serveCallEnter l r b) (result := fun _ => .bare) h.mine hb ?_
  show Host.Outcome.next (takeRequest s l (ofKind 0x01) fun r e => if l = .s then e.reply l r .notPermitted .bare
    else e.checked l r .calls readCallEnter .bare (e.serveCallEnter l r)) = _
  simp only [if_neg hl]

theorem State.takeHead_queue (s : State) (l : Link) (q : Nat) : (s.takeHead l).st.queue q = s.queue q := by
  rw [State.takeHead_st, State.setLink_queue]

/-- The state of an event in which the request at the head of a link has been answered, whatever else has been done to the rest. -/
theorem Engine.replied_of_link {l : Link} {r : Request} {status : Status} {result : Result} (h : Engine u t)
    (link : ∀ k, u.link k = (s.answered l r status result).link k) : s.Replied t l (r.answer status result) := by
  have told := h.onlyTold
  have answered := s.answered_link l r status result
  refine ⟨?_, ?_, fun k hk => ?_⟩
  · rw [(told l).1, link, answered, if_pos rfl]
  · obtain ⟨ns, hn⟩ := (told l).2
    exact ⟨ns, by rw [hn, link, answered, if_pos rfl]; simp⟩
  · obtain ⟨inbound, ns, hn⟩ := told k
    exact ⟨by rw [inbound, link, answered]; exact if_neg hk, ns, by rw [hn, link, answered]; simp [hk]⟩

/-- A reply touches its link alone. -/
theorem Ev.reply_link_of {l : Link} {r : Request} {status : Status} {result : Result}
    (link : ∀ k, d.st.link k = (s.takeHead l).st.link k) (k : Link) :
    (d.reply l r status result).st.link k = (s.answered l r status result).link k := by
  have replied : ∀ e : Ev, (e.reply l r status result).st.link k = if l = k then
      { e.st.link l with outbound := (e.st.link l).outbound ++ [.reply (r.answer status result)] } else e.st.link k := fun e =>
    State.link_setLink _ _ _ _
  rw [← State.takeHead_reply, replied, replied, link, link]

/-- The records that an accepted call is made of leave the links as they are. -/
theorem State.PlacedBy.link (h : s.PlacedBy t y c f) (k : Link) : t.link k = s.link k := by
  rw [h.rest]
  cases k <;> rfl

/-- A CALL_ENTER that passes its checks. -/
theorem Ev.serveCallEnter_placed {l : Link} {r : Request} {b : CallEnterBody} {p : Placement} (free : e.st.freeSlot = some y)
    (hq : b.queue < 64) (enabled : (e.st.queue b.queue).config.enabled = true)
    (chain : e.st.arrivalChain 9 b.queue 0 [] none = .placed p) :
    e.serveCallEnter l r b = e.enterCall l r b y p := by
  have chain' : e.st.arrivalChain (Config.maxRedirects + 2) b.queue 0 [] none = .placed p := chain
  unfold Ev.serveCallEnter
  rw [free]
  dsimp only
  rw [if_neg (Nat.not_le.2 hq), if_neg (by rw [enabled]; decide), chain']

end

/-- Settles O42: the checks in their order, and the reply of an accepted call, which stands in the event before its treatment
begins. -/
theorem callEnterAnswers : Obligations.CallEnterAnswers := by
  intro l r s b hl h hb
  have call := s.takeHead_call l
  have queue := s.takeHead_queue l
  have chain : ∀ q, (s.takeHead l).st.arrivalChain (Config.maxRedirects + 2) q 0 [] none = s.arrivalChain 9 q 0 [] none :=
    fun q => State.arrivalChain_congr queue _ q 0 [] none
  refine ⟨fun full => ?_, fun y hy hc lower => ?_⟩
  · have none : (s.takeHead l).st.freeSlot = none :=
      State.freeSlotFrom_full fun z _ hz => by rw [call]; exact full z (by simpa [Config.callSlots] using hz)
    rw [h.enter hl hb, Ev.serveCallEnter, none, State.takeHead_reply_finish]
  have free : (s.takeHead l).st.freeSlot = some y :=
    State.freeSlotFrom_lowest ((call y).trans hc) (Nat.zero_le y) (by simpa [Config.callSlots] using hy)
      fun z _ hz => by rw [call]; exact lower z hz
  refine ⟨fun hq => ?_, fun hq off => ?_, fun hq on => ⟨fun closed => ?_, fun limit => ?_, fun p placed hn => ?_⟩⟩
  · rw [h.enter hl hb, Ev.serveCallEnter, free]
    dsimp only
    rw [if_pos (show Config.queueCount ≤ b.queue from hq), State.takeHead_reply_finish]
  · rw [h.enter hl hb, Ev.serveCallEnter, free]
    dsimp only
    rw [if_neg (Nat.not_le.2 hq), if_pos (by rw [queue]; exact off), State.takeHead_reply_finish]
  · rw [h.enter hl hb, Ev.serveCallEnter, free]
    dsimp only
    rw [if_neg (Nat.not_le.2 hq), if_neg (by rw [queue, on]; decide), chain, closed, State.takeHead_reply_finish]
  · rw [h.enter hl hb, Ev.serveCallEnter, free]
    dsimp only
    rw [if_neg (Nat.not_le.2 hq), if_neg (by rw [queue, on]; decide), chain, limit, State.takeHead_reply_finish]
  · refine ⟨_, h.enter hl hb, ?_⟩
    have absent : y ∉ ((s.takeHead l).st.queue p.queue).order := by rw [queue]; exact hn
    have result : (s.takeHead l).st.arrivalResult b y p = s.arrivalResult b y p := by
      unfold State.arrivalResult State.arrivalPosition
      rw [queue, State.standsBefore_congr call, (s.takeHead_same l).tick]
    rw [Ev.serveCallEnter_placed free hq (by rw [queue]; exact on) ((chain b.queue).trans placed), Ev.enterCall_eq _ l r b absent,
      result]
    have admitted := (s.takeHead l).admitCall_placed b l absent
    refine Engine.replied_of_link ?_ (Ev.reply_link_of admitted.link)
    refine Engine.trans (Engine.trans (Engine.trans (Engine.trans ?_ (Ev.treatmentEvent_engine _ y)) (Ev.affinityOffer_engine _ y p.queue))
      (Ev.queueAttempts_engine _ p.queue)) (Ev.finish_engine _)
    exact Ev.startTreatment_engine _ y _ .none none fun _ => State.arrivalChain_redirects s 9 b.queue 0 [] none (by omega) (by simp)
      p placed

end Sys2Proof.Machine
end

section
/-!
PROOF. A MUSIC or SILENCE step, as one change of the state (R128, R129).
-/
namespace Sys2Proof.Machine

open Sys2Proof

theorem Assoc.put_put {α : Type} (k : Nat) (v w : α) (t : List (Nat × α)) :
    Assoc.put k w (Assoc.put k v t) = Assoc.put k w t := by
  unfold Assoc.put
  rw [Assoc.erase_insert, Assoc.erase_erase]

theorem State.setCall_setCall (s : State) (y : Nat) (c d : Call) : (s.setCall y c).setCall y d = s.setCall y d := by
  unfold State.setCall
  rw [Assoc.put_put]

/-- A call's record with a treatment part. -/
def Call.treated (c : Call) (r : Treatment) : Call := { c with treatment := some r }

section
variable {s t u : State} {e d : Ev} {y : Nat} {c : Call} {l : Link} {r : Treatment} {programme : Option Nat}

theorem State.updCall_of (hc : s.call? y = some c) (f : Call → Call) : s.updCall y f = s.setCall y (f c) := by
  unfold State.updCall
  rw [hc]

theorem State.updTreatment_of (hc : s.call? y = some (c.treated r)) (f : Treatment → Treatment) :
    s.updTreatment y f = s.setCall y (c.treated (f r)) := by
  rw [State.updTreatment, State.updCall_of hc]
  rfl

/-- A treatment part changed twice. -/
theorem State.setCall_updTreatment (s : State) (y : Nat) (c : Call) (r : Treatment) (f : Treatment → Treatment) :
    (s.setCall y (c.treated r)).updTreatment y f = s.setCall y (c.treated (f r)) := by
  rw [State.updTreatment_of (c := c) (r := r) (by rw [State.call?_setCall, if_pos rfl]), State.setCall_setCall]

theorem State.setLink_setCall (s : State) (l : Link) (k : LinkRec) (y : Nat) (c : Call) :
    (s.setLink l k).setCall y c = (s.setCall y c).setLink l k := by
  cases l <;> rfl

theorem Ev.upd_eq (e : Ev) {f : State → State} {u : State} (h : f e.st = u) : e.upd f = { e with st := u } := by
  rw [← h]
  rfl

/-- The source that plays a programme, or silence for none. -/
def soundSource (programme : Option Nat) : Source :=
  match programme with
  | some p => .programme p
  | none => .none

theorem soundSource_timeslot (programme : Option Nat) : (soundSource programme).timeslot = programme := by
  cases programme <;> rfl

/-- A LISTEN joins the tail of the owner link's outbound queue; Link S gets none. -/
def State.listened (s : State) (y : Nat) (c : Call) (timeslot : Option Nat) : State :=
  match c.owner.highway? with
  | some h => s.setLink c.owner { s.link c.owner with
      outbound := (s.link c.owner).outbound ++ [.notice (.listen y c.ref h timeslot)] }
  | none => s

theorem State.listened_call (s : State) (y : Nat) (c : Call) (timeslot : Option Nat) (z : Nat) :
    (s.listened y c timeslot).call? z = s.call? z := by
  unfold State.listened
  split
  · exact State.setLink_call _ _ _ _
  · rfl

theorem State.listened_tick (s : State) (y : Nat) (c : Call) (timeslot : Option Nat) :
    (s.listened y c timeslot).tick = s.tick := by
  unfold State.listened
  split
  · exact State.setLink_tick _ _ _
  · rfl

theorem State.listened_setCall (s : State) (y : Nat) (c : Call) (timeslot : Option Nat) (d : Call) :
    (s.listened y c timeslot).setCall y d = (s.setCall y d).listened y c timeslot := by
  unfold State.listened
  split
  · rw [State.setLink_setCall, State.setCall_link]
  · rfl

theorem State.soundRun_same (same : r.source = soundSource programme) (index : Nat) (duration : Nat) :
    s.soundRun y c r index programme duration = s.setCall y (c.treated { r with
      step := index, state := .running, lastProgramme := programme
      deadline := if duration = 0 then none else some (Tick.plus s.tick duration) }) := if_pos same

theorem State.soundRun_free (changes : r.source ≠ soundSource programme) (free : 0 < s.freeNotices c.owner) (index : Nat)
    (duration : Nat) : s.soundRun y c r index programme duration = (s.setCall y (c.treated { r with
      step := index, state := .running, lastProgramme := programme
      deadline := if duration = 0 then none else some (Tick.plus s.tick duration)
      source := soundSource programme, heldSource := none })).listened y c programme := by
  refine (if_neg changes).trans ((if_pos free).trans ?_)
  unfold State.listened
  rw [State.setCall_link]
  rfl

theorem State.soundRun_held (changes : r.source ≠ soundSource programme) (full : ¬0 < s.freeNotices c.owner) (index : Nat)
    (duration : Nat) : s.soundRun y c r index programme duration = (s.setCall y (c.treated { r with
      step := index, state := .running, lastProgramme := programme, heldSource := some (soundSource programme)
      deadline := none })).setLink c.owner { s.link c.owner with listenOrder := (s.link c.owner).listenOrder ++ [y] } :=
  (if_neg changes).trans (if_neg full)

theorem Ev.queueListen_free (free : 0 < e.st.freeNotices c.owner) (timeslot : Option Nat) :
    e.queueListen y c timeslot = { e with st := e.st.listened y c timeslot } := by
  unfold Ev.queueListen State.listened
  cases hw : c.owner.highway? with
  | none => rfl
  | some w =>
    dsimp only
    rw [Ev.queueNotice, if_pos free]
    rfl

/-- A change of source whose LISTEN can be queued (R129). -/
theorem Ev.changeSource_free (hc : e.st.call? y = some (c.treated r)) (free : 0 < e.st.freeNotices c.owner)
    (r' : Treatment) (source : Source) : e.changeSource y (c.treated r') source = ({ e with
      st := (e.st.setCall y (c.treated { r with source := source, heldSource := none })).listened y c source.timeslot }, true) := by
  have listened := Ev.queueListen_free (e := e) (y := y) (c := c.treated r') free source.timeslot
  have held : (e.st.listened y (c.treated r') source.timeslot).call? y = some (c.treated r) := by rw [State.listened_call, hc]
  refine (if_pos free).trans ?_
  dsimp only
  rw [listened, Ev.upd_eq _ (State.updTreatment_of held _), State.listened_setCall]
  rfl

/-- A change of source for which no notice entry is free (R129). -/
theorem Ev.changeSource_held (hc : e.st.call? y = some (c.treated r)) (full : ¬0 < e.st.freeNotices c.owner)
    (r' : Treatment) (source : Source) : e.changeSource y (c.treated r') source = ({ e with
      st := (e.st.setCall y (c.treated { r with heldSource := some source, state := .running, deadline := none })).setLink c.owner
        { e.st.link c.owner with listenOrder := (e.st.link c.owner).listenOrder ++ [y] } }, false) := by
  refine (if_neg full).trans ?_
  dsimp only
  rw [Ev.upd_eq _ (State.updTreatment_of hc _)]
  unfold Ev.updLink
  dsimp only
  rw [State.setCall_link]
  rfl

/-- A MUSIC or SILENCE step run at a treatment's own step index is one change of the state. -/
theorem Ev.sourceStep_eq (hc : e.st.call? y = some (c.treated r)) (programme : Option Nat) (duration : Nat) :
    e.sourceStep y (c.treated r) r programme (soundSource programme) duration
      = { e with st := e.st.soundRun y c r r.step programme duration } := by
  have heard : (e.st.updTreatment y fun t => { t with lastProgramme := programme })
      = e.st.setCall y (c.treated { r with lastProgramme := programme }) := State.updTreatment_of hc _
  have call : ∀ r', (e.st.setCall y (c.treated r')).call? y = some (c.treated r') := fun r' => by
    rw [State.call?_setCall, if_pos rfl]
  unfold Ev.sourceStep
  dsimp only
  rw [Ev.upd_eq e heard]
  by_cases same : r.source = soundSource programme
  · rw [if_pos same, State.soundRun_same same]
    dsimp only
    rw [if_pos rfl, Ev.upd_eq _ (State.setCall_updTreatment _ y c _ _)]
    rfl
  · rw [if_neg same]
    by_cases free : 0 < e.st.freeNotices c.owner
    · rw [Ev.changeSource_free (call _) (by rw [State.setCall_freeNotices]; exact free), State.soundRun_free same free]
      dsimp only
      rw [if_pos rfl, State.setCall_setCall, soundSource_timeslot]
      rw [Ev.upd_eq _ (State.updTreatment_of (by rw [State.listened_call]; exact call _) _), State.listened_setCall,
        State.setCall_setCall, State.listened_tick, State.setCall_tick]
    · rw [Ev.changeSource_held (call _) (by rw [State.setCall_freeNotices]; exact free), State.soundRun_held same free]
      dsimp only
      rw [if_neg (by decide), State.setCall_setCall, State.setCall_link]

end

end Sys2Proof.Machine
end

section
/-!
PROOF. The beginning of a treatment whose pattern begins with a MUSIC step (R126, R128), and attempts for a queue for which no
AVAILABLE agent is qualified.
-/
namespace Sys2Proof.Machine

open Sys2Proof

section
variable {s t u : State} {e d : Ev} {y q m duration : Nat} {c : Call} {l : Link} {h : Highway} {r : Treatment} {programme : Option Nat}
  {source : Source} {last : Option Nat} {rest : List PatternStep}

/-! ## A sound step run -/

theorem Ev.runStep_sound {count : Nat} (hc : e.st.call? y = some (c.treated r))
    (step : (e.st.pattern r.bank r.pattern)[r.step]? = some (soundStep programme duration)) :
    e.runStep count y (c.treated r) r = .waits { e with st := e.st.soundRun y c r r.step programme duration } := by
  have run := Ev.sourceStep_eq hc programme duration
  unfold Ev.runStep
  dsimp only
  rw [step]
  cases programme with
  | none => exact congrArg StepEnd.waits run
  | some p => exact congrArg StepEnd.waits run

theorem Ev.runSteps_sound (fuel : Nat) {count : Nat} (hc : e.st.call? y = some (c.treated r))
    (step : (e.st.pattern r.bank r.pattern)[r.step]? = some (soundStep programme duration)) :
    Ev.runSteps (fuel + 1) count y e = { e with st := e.st.soundRun y c r r.step programme duration } := by
  rw [Ev.runSteps, hc]
  dsimp only [Call.treated]
  have run := Ev.runStep_sound (count := count) hc step
  dsimp only [Call.treated] at run
  rw [run]

/-! ## A treatment begun -/

/-- The LISTEN for a programme that a call does not hear yet (R128, R129). -/
def State.tunedTo (s : State) (y : Nat) (c : Call) (m : Nat) (was : Source) : State :=
  if was = .programme m then s else s.listened y c (some m)

theorem State.soundRun_begins (ready : r.source = .programme m ∨ 0 < s.freeNotices c.owner) (unheld : r.heldSource = none)
    (index duration : Nat) : s.soundRun y c r index (some m) duration = (s.setCall y (c.treated { r with
      step := index, state := .running, lastProgramme := some m
      deadline := if duration = 0 then none else some (Tick.plus s.tick duration)
      source := .programme m, heldSource := none })).tunedTo y c m r.source := by
  unfold State.tunedTo
  by_cases same : r.source = .programme m
  · rw [if_pos same, State.soundRun_same (programme := some m) same, ← unheld, ← same]
  · rw [if_neg same, State.soundRun_free (programme := some m) same (ready.resolve_left same)]
    rfl

/-- The treatment that a call gets in its queue, before its first step (R126). -/
def State.newTreatment (s : State) (c : Call) (source : Source) (last : Option Nat) : Treatment :=
  { bank := s.activeBank, pattern := (s.queue c.queue).config.pattern, step := 0, state := .running, deadline := none,
    loop := 0, source := source, lastProgramme := last, heldSource := none }

theorem Ev.startTreatment_eq (impersonal : ∀ ts, source ≠ .personal ts) : e.startTreatment y c source last
    = ({ e with st := (e.st.setCall y (c.treated (e.st.newTreatment c source last))).updRefs e.st.activeBank (· + 1) }, true) := by
  unfold Ev.startTreatment
  dsimp only
  cases source with
  | personal ts => exact absurd rfl (impersonal ts)
  | none => rfl
  | programme p => rfl

theorem State.setCall_updRefs (s : State) (y : Nat) (c : Call) (b : Bank) (f : Nat → Nat) :
    (s.setCall y c).updRefs b f = (s.updRefs b f).setCall y c := by
  cases b <;> rfl

/-- The treatment part with which a call hears the programme of its pattern's first step. -/
def State.musicBegun (s : State) (c : Call) (m duration : Nat) : Treatment :=
  { bank := s.activeBank, pattern := (s.queue c.queue).config.pattern, step := 0, state := .running
    deadline := if duration = 0 then none else some (Tick.plus s.tick duration)
    loop := 0, source := .programme m, lastProgramme := some m, heldSource := none }

/-- The state of a call's treatment begun with a MUSIC step: its record, its bank's count, and the LISTEN where one is due. -/
def State.treatmentBegun (s : State) (y : Nat) (c : Call) (m duration : Nat) (was : Source) : State :=
  ((s.updRefs s.activeBank (· + 1)).setCall y (c.treated (s.musicBegun c m duration))).tunedTo y c m was

theorem Ev.treatmentBegins (fuel : Nat) (impersonal : ∀ ts, source ≠ .personal ts)
    (pattern : e.st.pattern e.st.activeBank (e.st.queue c.queue).config.pattern = .music m duration :: rest)
    (ready : source = .programme m ∨ 0 < e.st.freeNotices c.owner) :
    Ev.runSteps (fuel + 1) 0 y (e.startTreatment y c source last).1
      = { e with st := e.st.treatmentBegun y c m duration source } := by
  rw [Ev.startTreatment_eq impersonal]
  dsimp only
  rw [State.setCall_updRefs]
  have call : ((e.st.updRefs e.st.activeBank (· + 1)).setCall y (c.treated (e.st.newTreatment c source last))).call? y
      = some (c.treated (e.st.newTreatment c source last)) := by rw [State.call?_setCall, if_pos rfl]
  rw [Ev.runSteps_sound fuel (programme := some m) (duration := duration) call]
  · dsimp only
    rw [State.soundRun_begins (r := e.st.newTreatment c source last) (by simpa [State.newTreatment] using ready) rfl,
      State.setCall_setCall, State.setCall_tick, State.updRefs_tick]
    rfl
  · rw [State.setCall_pattern, State.updRefs_pattern]
    exact congrArg (fun steps => steps[0]?) pattern

theorem State.listened_notified (s : State) (y : Nat) (c : Call) (timeslot : Option Nat) :
    s.Notified (s.listened y c timeslot) := by
  unfold State.listened
  split
  · rename_i w hw
    refine ⟨by cases c.owner <;> rfl, fun k => ?_⟩
    rw [State.link_setLink]
    split
    · rename_i hk
      subst hk
      exact ⟨[.listen y c.ref w timeslot], (s.link c.owner).dropped, rfl⟩
    · exact ⟨[], (s.link k).dropped, by simp⟩
  · exact .refl s

/-- The state of a treatment begun, but for its LISTEN. -/
def State.begunUnheard (s : State) (y : Nat) (c : Call) (m duration : Nat) : State :=
  (s.updRefs s.activeBank (· + 1)).setCall y (c.treated (s.musicBegun c m duration))

theorem State.treatmentBegun_notified (s : State) (y : Nat) (c : Call) (m duration : Nat) (was : Source) :
    (s.begunUnheard y c m duration).Notified (s.treatmentBegun y c m duration was) := by
  unfold State.treatmentBegun State.tunedTo
  split
  · exact .refl _
  · exact State.listened_notified _ _ _ _

section
variable (s : State) (y : Nat) (c : Call) (m duration : Nat) (was : Source)

theorem State.treatmentBegun_call (z : Nat) : (s.treatmentBegun y c m duration was).call? z
    = if y = z then some (c.treated (s.musicBegun c m duration)) else s.call? z := by
  rw [(s.treatmentBegun_notified y c m duration was).call, State.begunUnheard, State.call?_setCall, State.updRefs_call]

theorem State.treatmentBegun_queue (q : Nat) : (s.treatmentBegun y c m duration was).queue q = s.queue q := by
  rw [(s.treatmentBegun_notified y c m duration was).queue, State.begunUnheard, State.setCall_queue, State.updRefs_queue]

theorem State.treatmentBegun_agents : s.SameAgents (s.treatmentBegun y c m duration was) := by
  have k := s.treatmentBegun_notified y c m duration was
  exact ⟨k.agents.trans (State.updRefs_agents _ _ _), k.available.trans (State.updRefs_available _ _ _),
    k.recent.trans (State.updRefs_recent _ _ _), k.token.trans (State.updRefs_token _ _ _)⟩

theorem State.treatmentBegun_settings : (s.treatmentBegun y c m duration was).settings = s.settings := by
  rw [(s.treatmentBegun_notified y c m duration was).settings, State.begunUnheard, State.setCall_settings, State.updRefs_settings]

theorem State.treatmentBegun_refs (b : Bank) :
    (s.treatmentBegun y c m duration was).refs b = s.refs b + if b = s.activeBank then 1 else 0 := by
  rw [(s.treatmentBegun_notified y c m duration was).refs, State.begunUnheard, State.setCall_refs]
  cases b <;> cases s.activeBank <;> rfl

theorem State.treatmentBegun_highway (w : Highway) : (s.treatmentBegun y c m duration was).highway w = s.highway w := by
  rw [(s.treatmentBegun_notified y c m duration was).highway, State.begunUnheard, State.setCall_highway, State.updRefs_highway]

theorem State.treatmentBegun_useCounts : (s.treatmentBegun y c m duration was).useCounts = s.useCounts :=
  (s.treatmentBegun_notified y c m duration was).useCounts.trans (State.updRefs_useCounts _ _ _)

end

/-- The link of the call's owner has the LISTEN behind what it held. -/
theorem State.treatmentBegun_link (hw : c.owner.highway? = some h) (was : Source) (k : Link) :
    (s.treatmentBegun y c m duration was).link k = { s.link k with
      outbound := (s.link k).outbound
        ++ (if was ≠ .programme m ∧ k = c.owner then [.notice (.listen y c.ref h (some m))] else []) } := by
  have base : ∀ j, ((s.updRefs s.activeBank (· + 1)).setCall y (c.treated (s.musicBegun c m duration))).link j = s.link j :=
    fun j => by rw [State.setCall_link, State.updRefs_link]
  unfold State.treatmentBegun State.tunedTo
  by_cases same : was = .programme m
  · rw [if_pos same, base]
    simp [same]
  · rw [if_neg same]
    unfold State.listened
    rw [hw]
    dsimp only
    rw [State.link_setLink, base, base]
    by_cases hk : c.owner = k
    · subst hk; simp [same]
    · simp [hk, Ne.symm hk]

/-! ## A queue without a qualified agent -/

theorem Ev.queueAttempts_none (h : e.st.pairIn q (e.st.queue q).order = none) : e.queueAttempts q = e := by
  unfold Ev.queueAttempts Ev.attemptLoop
  rw [h]

theorem Ev.queueAttempts_unqualified (h : ∀ x ∈ e.st.available, e.st.qualified (e.st.agent x) q = false) :
    e.queueAttempts q = e := Ev.queueAttempts_none (State.pairIn_none (State.agentFor_none h) _)

end

end Sys2Proof.Machine
end

section
/-!
PROOF. An accepted CALL_ENTER (O44): the place of the call and the beginning of its treatment, and the offer to the agent that its
caller had last.
-/
namespace Sys2Proof.Machine

open Sys2Proof

section
variable {s t u : State} {e d : Ev} {y q m duration : Nat} {c : Call} {l home : Link} {h : Highway} {r : Request}
  {b : CallEnterBody} {p : Placement} {rest : List PatternStep}

/-! ## The call admitted -/

/-- The record that an accepted CALL_ENTER makes in a state. -/
def State.arrival (s : State) (l : Link) (b : CallEnterBody) (p : Placement) : Call :=
  newCall l b p (s.queue p.queue).config s.tick

/-- An event in which a call has been admitted and its request answered, before its treatment begins (R47 steps 1 to 4). -/
structure State.Admits (s : State) (d : Ev) (l : Link) (r : Request) (b : CallEnterBody) (y : Nat) (p : Placement) : Prop where
  freedA : d.freedA = false
  freedB : d.freedB = false
  link : ∀ k, d.st.link k = (s.answered l r .done (s.arrivalResult b y p)).link k
  rest : d.st = { s.setCall y (s.arrival l b p) with
    queues := d.st.queues, linkA := d.st.linkA, linkB := d.st.linkB, linkS := d.st.linkS }
  queue : ∀ q, (if p.queue = q then (s.queue q).joinedBy (s.placeIn y (min 7 b.priority) s.tick (s.queue q).order)
    else s.queue q).CountedBy (d.st.queue q) (p.counts q)

theorem State.arrivalResult_takeHead (s : State) (l : Link) (b : CallEnterBody) (y : Nat) (p : Placement) :
    (s.takeHead l).st.arrivalResult b y p = s.arrivalResult b y p := by
  unfold State.arrivalResult State.arrivalPosition
  rw [State.takeHead_queue, State.standsBefore_congr (s.takeHead_call l), (s.takeHead_same l).tick]

theorem State.arrival_takeHead (s : State) (l : Link) (b : CallEnterBody) (p : Placement) :
    (s.takeHead l).st.arrival l b p = s.arrival l b p := by
  unfold State.arrival
  rw [State.takeHead_queue, (s.takeHead_same l).tick]

theorem State.admits (s : State) (l : Link) (r : Request) (b : CallEnterBody) (p : Placement)
    (hy : y ∉ (s.queue p.queue).order) :
    s.Admits (((s.takeHead l).admitCall b l y p).reply l r .done (s.arrivalResult b y p)) l r b y p := by
  have absent : y ∉ ((s.takeHead l).st.queue p.queue).order := by rw [State.takeHead_queue]; exact hy
  have placed := (s.takeHead l).admitCall_placed b l absent
  have tells := (s.takeHead l).admitCall_tells b l y p
  have record : newCall l b p ((s.takeHead l).st.queue p.queue).config (s.takeHead l).st.tick = s.arrival l b p :=
    s.arrival_takeHead l b p
  rw [record] at placed
  generalize (s.takeHead l).admitCall b l y p = f at placed tells
  have replied : (f.reply l r .done (s.arrivalResult b y p)).st
      = f.st.setLink l { f.st.link l with outbound := (f.st.link l).outbound ++ [.reply (r.answer .done (s.arrivalResult b y p))] } :=
    rfl
  refine ⟨tells.freedA, tells.freedB, Ev.reply_link_of placed.link, ?_, fun q => ?_⟩
  · rw [replied, placed.rest, State.takeHead_st]
    cases l <;> rfl
  · have queue := placed.queue q
    have before : ∀ order, (s.takeHead l).st.placeIn y (s.arrival l b p).band (s.arrival l b p).entry order
        = s.placeIn y (min 7 b.priority) s.tick order := fun order => by
      unfold State.placeIn
      rw [State.standsBefore_congr (s.takeHead_call l)]
      rfl
    rw [before, State.takeHead_queue] at queue
    rw [replied, State.setLink_queue]
    exact queue

namespace State.Admits

theorem config (k : s.Admits d l r b y p) (q : Nat) : (d.st.queue q).config = (s.queue q).config := by
  rw [(k.queue q).config]
  split <;> rfl

theorem freeNotices (k : s.Admits d l r b y p) (j : Link) : d.st.freeNotices j = s.freeNotices j := by
  rw [State.freeNotices, k.link, s.answered_link, State.freeNotices]
  unfold LinkRec.freeNotices LinkRec.noticeCount
  dsimp only
  rw [List.countP_append]
  by_cases hj : j = l <;> simp [hj, OutEntry.isNotice]

theorem call (k : s.Admits d l r b y p) (z : Nat) :
    d.st.call? z = if y = z then some (s.arrival l b p) else s.call? z := by
  rw [k.rest]
  exact State.call?_setCall s y z (s.arrival l b p)

theorem agents (k : s.Admits d l r b y p) : s.SameAgents d.st := by
  rw [k.rest]
  exact ⟨rfl, rfl, rfl, rfl⟩

theorem settings (k : s.Admits d l r b y p) : d.st.settings = s.settings := by
  rw [k.rest]
  rfl

theorem pattern (k : s.Admits d l r b y p) (bank : Bank) (n : Nat) : d.st.pattern bank n = s.pattern bank n := by
  rw [k.rest]
  cases bank <;> rfl

theorem refs (k : s.Admits d l r b y p) (bank : Bank) : d.st.refs bank = s.refs bank := by
  rw [k.rest]
  cases bank <;> rfl

theorem highway (k : s.Admits d l r b y p) (w : Highway) : d.st.highway w = s.highway w := by
  rw [k.rest]
  cases w <;> rfl

theorem useCounts (k : s.Admits d l r b y p) : d.st.useCounts = s.useCounts := by
  rw [k.rest]
  rfl

theorem activeBank (k : s.Admits d l r b y p) : d.st.activeBank = s.activeBank := by
  rw [k.rest]
  rfl

theorem tick (k : s.Admits d l r b y p) : d.st.tick = s.tick := by
  rw [k.rest]
  rfl

/-- The treatment that an admitted call begins is that of the state it is admitted in. -/
theorem musicBegun (k : s.Admits d l r b y p) (m duration : Nat) :
    d.st.musicBegun (s.arrival l b p) m duration = s.musicBegun (s.arrival l b p) m duration := by
  unfold State.musicBegun
  rw [k.config, k.activeBank, k.tick]

end State.Admits

end

end Sys2Proof.Machine
end

section
/-!
PROOF. An accepted CALL_ENTER, continued: the state in which the call's treatment has begun, and what the offers after it leave (O44).
-/
namespace Sys2Proof.Machine

open Sys2Proof

section
variable {s t u : State} {e d : Ev} {y q x m duration : Nat} {c : Call} {l home : Link} {h : Highway} {r : Request}
  {b : CallEnterBody} {p : Placement} {rest : List PatternStep}

theorem State.SameAgents.trans (h : s.SameAgents t) (k : t.SameAgents u) : s.SameAgents u :=
  ⟨k.agents.trans h.agents, k.available.trans h.available, k.recent.trans h.recent, k.token.trans h.token⟩

/-- The record of an arrived call that hears the programme of its first step. -/
def State.arrivalHeard (s : State) (l : Link) (b : CallEnterBody) (p : Placement) (m duration : Nat) : Call :=
  (s.arrival l b p).treated (s.musicBegun (s.arrival l b p) m duration)

/-- An accepted call stands in its queue and its treatment has begun with a MUSIC step (R47 steps 1 to 5). -/
structure State.Entered (s u : State) (l : Link) (h : Highway) (r : Request) (b : CallEnterBody) (y : Nat) (p : Placement)
    (m duration : Nat) : Prop where
  call : ∀ z, u.call? z = if y = z then some (s.arrivalHeard l b p m duration) else s.call? z
  link : ∀ k, u.link k = { s.link k with
    inbound := if k = l then (s.link k).inbound.tail else (s.link k).inbound
    outbound := (s.link k).outbound ++ (if k = l then
      [.reply (r.answer .done (s.arrivalResult b y p)), .notice (.listen y b.ref h (some m))] else []) }
  agents : s.SameAgents u
  settings : u.settings = s.settings
  refs : ∀ i, u.refs i = s.refs i + if i = s.activeBank then 1 else 0
  useCounts : u.useCounts = s.useCounts
  highway : ∀ w, u.highway w = s.highway w
  queue : ∀ q, (if p.queue = q then (s.queue q).joinedBy (s.placeIn y (min 7 b.priority) s.tick (s.queue q).order)
    else s.queue q).CountedBy (u.queue q) (p.counts q)

/-- An admitted call begins its treatment. -/
theorem State.Admits.begins (k : s.Admits d l r b y p) (hw : l.highway? = some h) :
    s.Entered (d.st.treatmentBegun y (s.arrival l b p) m duration .none) l h r b y p m duration where
  call z := by
    rw [State.treatmentBegun_call, k.musicBegun, k.call]
    split <;> rfl
  link j := by
    have owner : (s.arrival l b p).owner = l := rfl
    rw [State.treatmentBegun_link (by rw [owner]; exact hw), k.link, s.answered_link, owner]
    by_cases hj : j = l
    · simp [hj]
      rfl
    · simp [hj]
  agents := k.agents.trans (d.st.treatmentBegun_agents y _ m duration .none)
  settings := (d.st.treatmentBegun_settings y _ m duration .none).trans k.settings
  refs i := by rw [State.treatmentBegun_refs, k.refs, k.activeBank]
  useCounts := (d.st.treatmentBegun_useCounts y _ m duration .none).trans k.useCounts
  highway w := by rw [State.treatmentBegun_highway, k.highway]
  queue q := by rw [State.treatmentBegun_queue]; exact k.queue q

/-- An accepted CALL_ENTER whose pattern begins with a MUSIC step: after the state in which the call's treatment has begun come the
affinity offer and the attempts for its queue. -/
theorem State.Served.enterPlaced (hs : s.Served l r 0x01 .calls) (hw : l.highway? = some h)
    (hb : readCallEnter r.body = some b) (hy : y < 2048) (free : s.call? y = none)
    (lower : ∀ z, z < y → (s.call? z).isSome = true) (hq : b.queue < 64) (enabled : (s.queue b.queue).config.enabled = true)
    (chain : s.arrivalChain 9 b.queue 0 [] none = .placed p) (absent : y ∉ (s.queue p.queue).order)
    (pattern : s.pattern s.activeBank (s.queue p.queue).config.pattern = .music m duration :: rest)
    (notices : 0 < s.freeNotices l) :
    ∃ d : Ev, d.freedA = false ∧ d.freedB = false ∧ s.Entered d.st l h r b y p m duration
      ∧ exec (.callEnter l) s = .next ((d.affinityOffer y p.queue).queueAttempts p.queue).finish := by
  have hl : l ≠ .s := by rintro rfl; cases hw
  have call := s.takeHead_call l
  have queue := s.takeHead_queue l
  have slot : (s.takeHead l).st.freeSlot = some y :=
    State.freeSlotFrom_lowest ((call y).trans free) (Nat.zero_le y) (by simpa [Config.callSlots] using hy)
      fun z _ hz => by rw [call]; exact lower z hz
  have k := s.admits l r b p absent
  have event := (s.takeHead l).enterCall_eq l r b (y := y) (p := p) (by rw [queue]; exact absent)
  rw [State.arrivalResult_takeHead] at event
  generalize ((s.takeHead l).admitCall b l y p).reply l r .done (s.arrivalResult b y p) = d at k event
  have record : newCall l b p ((s.takeHead l).st.queue p.queue).config (s.takeHead l).st.tick = s.arrival l b p :=
    s.arrival_takeHead l b p
  have begun := Ev.treatmentBegins (e := d) (y := y) (c := s.arrival l b p) (source := .none) (last := none) (m := m)
    (duration := duration) 4095 (by simp) (rest := rest) (by
      rw [k.pattern, k.activeBank]
      exact (congrArg _ (congrArg QueueConfig.pattern (k.config p.queue))).trans pattern) (.inr (by
      rw [k.freeNotices]
      exact notices))
  refine ⟨{ d with st := d.st.treatmentBegun y (s.arrival l b p) m duration .none }, k.freedA, k.freedB, k.begins hw, ?_⟩
  rw [hs.enter hl hb, Ev.serveCallEnter_placed slot hq (by rw [queue]; exact enabled)
    ((State.arrivalChain_congr queue _ _ _ _ _).trans chain), event, record, ← begun]
  rfl

namespace State.Entered

theorem config (k : s.Entered u l h r b y p m duration) (q : Nat) : (u.queue q).config = (s.queue q).config := by
  rw [(k.queue q).config]
  split <;> rfl

theorem qualified (k : s.Entered u l h r b y p m duration) (a : Agent) (q : Nat) : u.qualified a q = s.qualified a q := by
  unfold State.qualified
  rw [k.config]

theorem tick (k : s.Entered u l h r b y p m duration) : u.tick = s.tick := congrArg Settings.tick k.settings

/-- The LISTEN takes one notice entry of the owner's link. -/
theorem freeNotices (k : s.Entered u l h r b y p m duration) (j : Link) :
    u.freeNotices j = s.freeNotices j - if j = l then 1 else 0 := by
  unfold State.freeNotices
  rw [k.link]
  unfold LinkRec.freeNotices LinkRec.noticeCount
  dsimp only
  rw [List.countP_append]
  by_cases hj : j = l
  · have entries : ∀ n : Notice, List.countP OutEntry.isNotice [.reply (r.answer .done (s.arrivalResult b y p)), .notice n] = 1 :=
      fun _ => rfl
    rw [if_pos hj, if_pos hj, entries]
    split
    · omega
    · rfl
  · simp [hj]

end State.Entered

/-! ## Notices behind the reply -/

/-- Notices joined the outbound queues, or were dropped, and reservations changed. -/
def State.Posted (s t : State) : Prop := ∀ k, ∃ (ns : List Notice) (dropped : Bool) (reserved : Nat),
  t.link k = { s.link k with outbound := (s.link k).outbound ++ ns.map OutEntry.notice, dropped := dropped, reserved := reserved }

theorem State.Notified.posted (h : s.Notified t) : s.Posted t := fun k => by
  obtain ⟨ns, dropped, hk⟩ := h.link k
  exact ⟨ns, dropped, _, hk⟩

theorem State.Posted.trans (h : s.Posted t) (k : t.Posted u) : s.Posted u := fun j => by
  obtain ⟨ms, _, _, hm⟩ := h j
  obtain ⟨ns, dropped, reserved, hn⟩ := k j
  exact ⟨ms ++ ns, dropped, reserved, by rw [hn, hm]; simp⟩

namespace State.Entered

theorem outbound (k : s.Entered u l h r b y p m duration) (j : Link) : (u.link j).outbound = (s.link j).outbound
    ++ (if j = l then [.reply (r.answer .done (s.arrivalResult b y p)), .notice (.listen y b.ref h (some m))] else []) := by
  rw [k.link]

theorem replied (k : s.Entered u l h r b y p m duration) (told : u.Posted t) :
    s.Replied t l (r.answer .done (s.arrivalResult b y p)) := by
  obtain ⟨ns, _, _, own⟩ := told l
  refine ⟨by rw [own, k.link]; exact if_pos rfl, ⟨.listen y b.ref h (some m) :: ns, by rw [own, k.link]; simp⟩, fun j hj => ?_⟩
  obtain ⟨ms, _, _, other⟩ := told j
  exact ⟨by rw [other, k.link]; exact if_neg hj, ms, by rw [other, k.link]; simp [hj]⟩

theorem sameLinks (k : s.Entered u l h r b y p m duration) (told : u.Posted t) : s.SameLinks t := by
  constructor
  all_goals
    intro j
    obtain ⟨ns, _, _, other⟩ := told j
    rw [other, k.link]

end State.Entered

theorem Queue.joinedBy_counter (r : Queue) (order : List Nat) (n : CounterName) :
    (r.joinedBy order).stats.counter n = r.stats.counter n := by cases n <;> rfl

/-! ## A queue without a qualified agent -/

theorem State.affinityAgent_qualified (h : s.affinityAgent q c = some x) : s.qualified (s.agent x) q = true := by
  unfold State.affinityAgent at h
  split at h
  · split at h
    · cases h
    · split at h
      · cases h
      · dsimp only at h
        split at h
        · rename_i ha; cases h; exact ha.2.1
        · cases h
  · cases h

/-- Where no agent is qualified, neither the affinity lookup nor the attempts make an offer. -/
theorem State.Entered.unoffered (k : s.Entered d.st l h r b y p m duration)
    (unqualified : ∀ x, x ∈ s.available ∨ (s.agent x).state = .available → s.qualified (s.agent x) p.queue = false) :
    (d.affinityOffer y p.queue).queueAttempts p.queue = d := by
  have none : ∀ x, x ∈ d.st.available ∨ (d.st.agent x).state = .available → d.st.qualified (d.st.agent x) p.queue = false := by
    intro x hx
    rw [k.agents.available, k.agents.agent] at hx
    rw [k.qualified, k.agents.agent]
    exact unqualified x hx
  have affinity : ∀ c, d.st.affinityAgent p.queue c = Option.none := fun c => by
    cases hx : d.st.affinityAgent p.queue c with
    | none => rfl
    | some x =>
      have := none x (.inr (State.affinityAgent_available hx))
      rw [State.affinityAgent_qualified hx] at this
      cases this
  have idle : d.affinityOffer y p.queue = d := by
    unfold Ev.affinityOffer
    rw [k.call, if_pos rfl]
    dsimp only
    rw [affinity]
    exact ite_self _
  rw [idle, Ev.queueAttempts_unqualified fun x hx => none x (.inl hx)]

/-! ## The offer to the agent that the caller had last (R67, R68) -/

/-- The state of an offer before its entries on the links. -/
def State.offerRecords (s : State) (y : Nat) (c : Call) (x : Nat) : State :=
  (({ s with token := nextToken s.token }).settled x ((s.agent x).offered (nextToken s.token) y)
    (s.available.filter (· != x))).setCall y (c.offeredTo (s.newOffer c x))

/-- The entries of an offer on the links of the agent and of the call (R68). -/
def State.offerEntries (s : State) (y : Nat) (c : Call) (x : Nat) (o : Token) (a : Agent) (home : Link) : State :=
  let s := s.setLink home { s.link home with
    outbound := (s.link home).outbound ++ [.notice (.offer o x a.id y c.queue (c.key.getD 0) c.owner c.ref)]
    reserved := (s.link home).reserved + 1 }
  s.setLink c.owner { s.link c.owner with reserved := (s.link c.owner).reserved + 1 }

theorem State.offerMade_of (at_home : (s.agent x).home = some home) : s.offerMade y c x
    = (s.offerRecords y c x).offerEntries y c x (nextToken s.token) (s.agent x) home := by
  have tick : ∀ v : State, v.tick = s.tick → ∀ a ls, (v.settled x a ls).tick = s.tick := fun v hv a ls => by
    rw [State.settled_eq]; exact hv
  have config : ∀ v : State, (∀ q, v.queue q = s.queue q) → ∀ a ls q,
      ((v.settled x a ls).queue q).config = (s.queue q).config := fun v hv a ls q => by rw [State.settled_config, hv]
  unfold State.offerMade State.offerRecords State.offerEntries State.newOffer
  dsimp only
  rw [tick { s with token := if s.token = 0xFFFF then 1 else s.token + 1 } rfl,
    config { s with token := if s.token = 0xFFFF then 1 else s.token + 1 } fun _ => rfl]
  split
  · rename_i away
    rw [at_home] at away
    cases away
  · rename_i at_home'
    rw [at_home] at at_home'
    cases at_home'
    rfl

theorem State.offerRecords_call (s : State) (y : Nat) (c : Call) (x z : Nat) : (s.offerRecords y c x).call? z =
    if y = z then some (c.offeredTo (s.newOffer c x)) else s.call? z := by
  rw [State.offerRecords, State.call?_setCall, State.settled_call]
  rfl

theorem State.offerRecords_agent (s : State) (y : Nat) (c : Call) (x z : Nat) : (s.offerRecords y c x).agent z =
    if x = z then (s.agent x).offered (nextToken s.token) y else s.agent z := by
  rw [State.offerRecords, State.setCall_agent, State.settled_agent]
  rfl

theorem State.offerRecords_link (s : State) (y : Nat) (c : Call) (x : Nat) (k : Link) :
    (s.offerRecords y c x).link k = s.link k := by
  rw [State.offerRecords, State.setCall_link, State.settled_link]
  cases k <;> rfl

theorem State.offerRecords_order (s : State) (y : Nat) (c : Call) (x q : Nat) :
    ((s.offerRecords y c x).queue q).order = (s.queue q).order := by
  rw [State.offerRecords, State.setCall_queue, (State.CallsKept.settled _ x _ _).order]
  rfl

theorem State.offerRecords_rest (s : State) (y : Nat) (c : Call) (x : Nat) : (s.offerRecords y c x).recent = s.recent
    ∧ (s.offerRecords y c x).token = nextToken s.token ∧ (s.offerRecords y c x).settings = s.settings
    ∧ (s.offerRecords y c x).available = s.available.filter (· != x) := by
  rw [State.offerRecords, State.settled_eq]
  exact ⟨rfl, rfl, rfl, rfl⟩

/-- The entries change the links alone. -/
theorem State.offerEntries_rest (s : State) (y : Nat) (c : Call) (x : Nat) (o : Token) (a : Agent) (home : Link) :
    s.offerEntries y c x o a home = { s with
      linkA := (s.offerEntries y c x o a home).linkA
      linkB := (s.offerEntries y c x o a home).linkB
      linkS := (s.offerEntries y c x o a home).linkS } := by
  unfold State.offerEntries
  cases home <;> cases c.owner <;> rfl

theorem State.offerEntries_link (s : State) (y : Nat) (c : Call) (x : Nat) (o : Token) (a : Agent) (home k : Link) :
    (s.offerEntries y c x o a home).link k = { s.link k with
      outbound := (s.link k).outbound ++ (if k = home then
        [.notice (.offer o x a.id y c.queue (c.key.getD 0) c.owner c.ref)] else [])
      reserved := (s.link k).reserved + (if k = home then 1 else 0) + (if k = c.owner then 1 else 0) } := by
  unfold State.offerEntries
  dsimp only
  rw [State.link_setLink, State.link_setLink, State.link_setLink]
  by_cases owner : c.owner = k
  · subst owner
    by_cases at_home : home = c.owner
    · simp [at_home]
    · simp [at_home, Ne.symm at_home]
  · by_cases at_home : home = k
    · subst at_home; simp [owner, Ne.symm owner]
    · simp [owner, at_home, Ne.symm owner, Ne.symm at_home]

section
variable (at_home : (s.agent x).home = some home) (y : Nat) (c : Call)
include at_home

theorem State.offerMade_call (z : Nat) : (s.offerMade y c x).call? z =
    if y = z then some (c.offeredTo (s.newOffer c x)) else s.call? z := by
  rw [State.offerMade_of at_home, State.offerEntries_rest]
  exact s.offerRecords_call y c x z

theorem State.offerMade_agent (z : Nat) : (s.offerMade y c x).agent z =
    if x = z then (s.agent x).offered (nextToken s.token) y else s.agent z := by
  rw [State.offerMade_of at_home, State.offerEntries_rest]
  exact s.offerRecords_agent y c x z

theorem State.offerMade_order (q : Nat) : ((s.offerMade y c x).queue q).order = (s.queue q).order := by
  rw [State.offerMade_of at_home, State.offerEntries_rest]
  exact s.offerRecords_order y c x q

theorem State.offerMade_rest : (s.offerMade y c x).recent = s.recent ∧ (s.offerMade y c x).token = nextToken s.token
    ∧ (s.offerMade y c x).settings = s.settings := by
  rw [State.offerMade_of at_home, State.offerEntries_rest]
  obtain ⟨recent, token, settings, -⟩ := s.offerRecords_rest y c x
  exact ⟨recent, token, settings⟩

theorem State.offerMade_link (k : Link) : (s.offerMade y c x).link k = { s.link k with
    outbound := (s.link k).outbound ++ (if k = home then
      [.notice (.offer (nextToken s.token) x (s.agent x).id y c.queue (c.key.getD 0) c.owner c.ref)] else [])
    reserved := (s.link k).reserved + (if k = home then 1 else 0) + (if k = c.owner then 1 else 0) } := by
  rw [State.offerMade_of at_home, State.offerEntries_link, State.offerRecords_link]

end

theorem State.offerMade_posted (at_home : (s.agent x).home = some home) (y : Nat) (c : Call) : s.Posted (s.offerMade y c x) :=
  fun k => ⟨if k = home then [.offer (nextToken s.token) x (s.agent x).id y c.queue (c.key.getD 0) c.owner c.ref] else [],
    (s.link k).dropped, (s.link k).reserved + (if k = home then 1 else 0) + (if k = c.owner then 1 else 0), by
      rw [State.offerMade_link at_home, apply_ite (List.map OutEntry.notice)]
      rfl⟩

/-- Where the agent that the caller had last is AVAILABLE, qualified and has notice space, the call is offered to that agent, and no
other call of its queue waits. -/
theorem State.Entered.offered (k : s.Entered d.st l h r b y p m duration) {e : RecentEntry}
    (affinity : (s.queue p.queue).config.affinity = true)
    (found : s.recent.find? (fun e => (s.arrival l b p).key == some e.key) = some e)
    (available : (s.agent e.agent).state = .available) (at_home : (s.agent e.agent).home = some home)
    (qualified : s.qualified (s.agent e.agent) p.queue = true) (near : home = l → 4 ≤ s.freeNotices l)
    (far : home ≠ l → 2 ≤ s.freeNotices home ∧ 2 ≤ s.freeNotices l) (alone : (s.queue p.queue).order = []) :
    ∃ os, ((d.affinityOffer y p.queue).queueAttempts p.queue)
      = { d with st := d.st.offerMade y (s.arrivalHeard l b p m duration) e.agent, offered := os } := by
  have pairable : d.st.pairable (s.arrivalHeard l b p m duration) (d.st.agent e.agent) = true := by
    have owner : (s.arrivalHeard l b p m duration).owner = l := rfl
    rw [k.agents.agent]
    unfold State.pairable
    rw [at_home]
    dsimp only
    rw [owner, k.freeNotices, k.freeNotices]
    by_cases hh : home = l
    · have := near hh
      rw [if_pos hh, if_pos hh, hh, decide_eq_true_iff]
      omega
    · have := far hh
      rw [if_neg hh, if_neg hh, if_pos rfl, Bool.and_eq_true, decide_eq_true_iff, decide_eq_true_iff]
      omega
  have agent : d.st.affinityAgent p.queue (s.arrivalHeard l b p m duration) = some e.agent := by
    cases hk : (s.arrivalHeard l b p m duration).key with
    | none =>
      have hk' : (s.arrival l b p).key = none := hk
      rw [hk'] at found
      exact absurd (List.find?_some found) Bool.false_ne_true
    | some key =>
      have hk' : (s.arrival l b p).key = some key := hk
      have found' : d.st.recent.find? (fun r => r.key == key) = some e := by
        rw [k.agents.recent, ← found, hk']
        exact congrArg (fun f => s.recent.find? f) (funext fun r => BEq.comm)
      unfold State.affinityAgent
      rw [if_pos (by rw [k.config]; exact affinity), hk]
      dsimp only
      rw [found']
      dsimp only
      rw [if_pos ⟨by rw [k.agents.agent]; exact available, by rw [k.qualified, k.agents.agent]; exact qualified, pairable⟩]
  have offer : d.affinityOffer y p.queue = d.makeOffer y (s.arrivalHeard l b p m duration) e.agent := by
    unfold Ev.affinityOffer
    rw [k.call, if_pos rfl]
    dsimp only
    rw [if_pos ⟨rfl, rfl, rfl⟩, agent]
  have at_home' : (d.st.agent e.agent).home = some home := by rw [k.agents.agent]; exact at_home
  have order : ((d.st.offerMade y (s.arrivalHeard l b p m duration) e.agent).queue p.queue).order = [y] := by
    rw [State.offerMade_order at_home', (k.queue p.queue).order, if_pos rfl]
    show s.placeIn y _ _ (s.queue p.queue).order = [y]
    rw [alone]
    rfl
  rw [offer, Ev.makeOffer_eq _ _ _ _ pairable]
  refine ⟨_, Ev.queueAttempts_none ?_⟩
  dsimp only
  rw [order, State.pairIn, State.offerMade_call at_home', if_pos rfl]
  rfl

end

/-- Settles O44: an accepted call stands in its queue and hears the programme of its first step; it is offered to the agent that its
caller had last, where the queue has affinity and that agent can take it. -/
theorem callEnterPlacesCall : Obligations.CallEnterPlacesCall := by
  intro l r s b y p d place rest h hw hs hb hy free lower hq enabled chain absent pattern notices
  obtain ⟨f, freedA, freedB, k, event⟩ := hs.enterPlaced hw hb hy free lower hq enabled chain (absent place.queue) pattern notices
  dsimp only
  refine ⟨fun unqualified => ?_, fun e home affinity found available at_home qualified near far alone => ?_⟩
  · rw [event, k.unoffered unqualified, Ev.finish_unfreed freedA freedB]
    refine ⟨_, rfl, ?_⟩
    have told : f.st.Notified (f.offered.foldl (fun s o => s.told o.dests o.notice) f.st) := f.st.delivered_notified f.offered
    generalize f.offered.foldl (fun s o => s.told o.dests o.notice) f.st = t at told
    have posted := told.posted
    obtain ⟨ns, _, own⟩ := told.link l
    refine ⟨k.replied posted, by rw [told.call, k.call, if_pos rfl]; rfl, fun z hz => ?_,
      k.agents.trans ⟨told.agents, told.available, told.recent, told.token⟩, told.settings.trans k.settings, k.sameLinks posted,
      ⟨ns, ?_⟩, fun j => ?_, fun i => ?_, told.useCounts.trans k.useCounts, fun w => (told.highway w).trans (k.highway w),
      fun q => ?_⟩
    · rw [told.call, k.call, if_neg (Ne.symm hz)]
    · rw [own]
      dsimp only
      rw [k.outbound, if_pos rfl, List.append_assoc]
      rfl
    · rw [told.reserved, told.exitOrder, told.listenOrder, k.link]
      exact ⟨rfl, rfl, rfl⟩
    · rw [told.refs, k.refs]
      split <;> rfl
    · have record := k.queue q
      rw [told.queue]
      by_cases hp : place.queue = q
      · subst hp
        rw [if_pos rfl] at record
        refine ⟨record.config, record.aht, record.weight, record.order.trans (if_pos rfl).symm, ?_, ?_, fun n => ?_⟩
        · rw [if_pos rfl, record.closed]
          exact congrArg (fun n => _ || decide (_ ≤ n)) (s.placeIn_length _ _ _ _)
        · rw [if_pos rfl, record.peak]
          exact congrArg (max _) (s.placeIn_length _ _ _ _)
        · rw [record.counter, Queue.joinedBy_counter, Placement.counts, add_assoc]
      · rw [if_neg hp] at record
        have hp' := Ne.symm hp
        refine ⟨record.config, record.aht, record.weight, record.order.trans (if_neg hp').symm, record.closed.trans (if_neg hp').symm,
          record.peak.trans (if_neg hp').symm, fun n => ?_⟩
        rw [record.counter, Placement.counts, add_assoc]
  · obtain ⟨os, offered⟩ := k.offered affinity found available at_home qualified near far alone
    have home' : (f.st.agent e.agent).home = some home := by rw [k.agents.agent]; exact at_home
    have link := State.offerMade_link home' y (s.arrivalHeard l b place p d)
    have call := State.offerMade_call home' y (s.arrivalHeard l b place p d)
    have agent := State.offerMade_agent home' y (s.arrivalHeard l b place p d)
    have available := State.offerMade_available f.st y (s.arrivalHeard l b place p d) e.agent
    obtain ⟨recent, token, settings⟩ := State.offerMade_rest home' y (s.arrivalHeard l b place p d)
    have posted := State.offerMade_posted home' y (s.arrivalHeard l b place p d)
    generalize f.st.offerMade y (s.arrivalHeard l b place p d) e.agent = v
      at offered link call agent available recent token settings posted
    have told : v.Notified (v.delivered os) := v.delivered_notified os
    generalize hd : v.delivered os = t at told
    have posted := posted.trans told.posted
    obtain ⟨ns, _, own⟩ := told.link home
    refine ⟨t, ?_, k.replied posted, ?_, fun z hz => ?_, ?_, ?_, ?_, k.sameLinks posted, fun x => ?_, ?_, ⟨ns, ?_⟩, fun i => ?_⟩
    · rw [event, offered, Ev.finish_mk freedA freedB, hd]
    · rw [told.call, call, if_pos rfl, State.newOffer, k.agents.token, k.tick, k.config]
      rfl
    · rw [told.call, call, if_neg (Ne.symm hz), k.call, if_neg (Ne.symm hz)]
    · rw [told.recent, recent, k.agents.recent]
    · rw [told.token, token, k.agents.token]
      rfl
    · rw [told.settings, settings, k.settings]
    · rw [told.agent, agent, k.agents.agent, k.agents.token]
      by_cases hx : e.agent = x
      · rw [if_pos hx, if_pos hx.symm]
        rfl
      · rw [if_neg hx, if_neg (Ne.symm hx), k.agents.agent]
    · rw [told.available, available, k.agents.available]
    · rw [own, link, if_pos rfl]
      dsimp only
      rw [k.outbound, k.agents.agent, k.agents.token, List.append_assoc]
      by_cases near : home = l
      · rw [if_pos near, if_pos near]; rfl
      · rw [if_neg near, if_neg near]; rfl
    · rw [told.reserved, link, k.link]
      rfl

end Sys2Proof.Machine
end

section
/-!
PROOF. The divert chains of an arrival and of an OVERFLOW step along a path of diverts (R45, R46, R48).
-/
namespace Sys2Proof.Machine

open Sys2Proof

/-- A queue fails its entry check: it is closed or over-wait (R45). -/
def State.FailsEntry (s : State) (q : Nat) : Prop :=
  (s.queue q).closed = true
    ∨ ∃ w, (s.queue q).config.maxWait = some w ∧ w < (s.queue q).ewt ((s.queue q).order.length + 1)

/-- A path of `n` diverts: each queue before the last fails its check and diverts to the next (R46). -/
def State.Diverts (s : State) (path : Nat → Nat) (n : Nat) : Prop :=
  ∀ i, i < n → s.FailsEntry (path i) ∧ s.divertTarget (path i) = some (path (i + 1))

/-- The queues passed over before the `n`th of a path. -/
def passedAlong (path : Nat → Nat) (n : Nat) : List Nat := (List.range n).map path

/-- The place of a call in the `n`th queue of a path. -/
def placeAlong (path : Nat → Nat) (n : Nat) : Placement := { queue := path n, redirects := n, passed := passedAlong path n }

/-- The last queue that is not closed, of the first `n` of a path. -/
def State.lastOpenAlong (s : State) (path : Nat → Nat) : Nat → Option Placement
  | 0 => none
  | n + 1 => if (s.queue (path n)).closed then s.lastOpenAlong path n else some (placeAlong path n)

theorem passedAlong_succ (path : Nat → Nat) (n : Nat) : passedAlong path (n + 1) = passedAlong path n ++ [path n] := by
  simp [passedAlong, List.range_succ]

section
variable {s : State} {path : Nat → Nat} {q n i own count : Nat} {c : Call} {passed : List Nat} {last : Option Placement}

/-! ## The entry check and the divert target (R45, R46) -/

theorem State.divertTarget_eq (s : State) (q : Nat) :
    s.divertTarget q = (s.queue q).config.overflowTarget.filter fun t => (s.queue t).config.enabled := by
  unfold State.divertTarget
  cases (s.queue q).config.overflowTarget with
  | none => rfl
  | some t => rfl

theorem State.entryCheck_pass_iff : (s.queue q).entryCheck = .pass ↔ ¬s.FailsEntry q := by
  unfold Queue.entryCheck State.FailsEntry
  cases (s.queue q).closed with
  | true => simp
  | false =>
    cases (s.queue q).config.maxWait with
    | none => simp
    | some w => by_cases h : (s.queue q).ewt ((s.queue q).order.length + 1) ≤ w <;> simp [h]

theorem State.entryCheck_fails (h : s.FailsEntry q) :
    (s.queue q).entryCheck = if (s.queue q).closed then .closed else .overWait := by
  have failed := mt State.entryCheck_pass_iff.1 (not_not_intro h)
  unfold Queue.entryCheck at failed ⊢
  split
  · rfl
  · rename_i isOpen
    rw [if_neg isOpen] at failed
    split
    · rename_i unlimited
      rw [unlimited] at failed
      exact absurd rfl failed
    · rename_i w limited
      rw [limited] at failed
      dsimp only at failed
      split
      · rename_i within
        rw [if_pos within] at failed
        exact absurd rfl failed
      · rfl

/-! ## The chain of an arrival (R46) -/

/-- What a divert chain that ends answers: the last queue that was not closed takes the call. -/
def chainEnd : Option Placement → ArrivalChain
  | some p => .placed p
  | none => .queueClosed

theorem State.arrivalChain_pass (h : ¬s.FailsEntry q) (fuel : Nat) : s.arrivalChain (fuel + 1) q count passed last
    = .placed { queue := q, redirects := count, passed := passed } := by
  rw [State.arrivalChain, State.entryCheck_pass_iff.2 h]

/-- A queue that fails its check diverts, with the last open queue behind it. -/
theorem State.arrivalChain_fails (h : s.FailsEntry q) (fuel : Nat) : s.arrivalChain (fuel + 1) q count passed last =
    (match s.divertTarget q with
    | none => chainEnd (if (s.queue q).closed then last else some { queue := q, redirects := count, passed := passed })
    | some t => if 7 < count + 1 then .redirectLimit else s.arrivalChain fuel t (count + 1) (passed ++ [q])
        (if (s.queue q).closed then last else some { queue := q, redirects := count, passed := passed })) := by
  rw [State.arrivalChain, State.entryCheck_fails h]
  cases (s.queue q).closed with
  | true => cases s.divertTarget q <;> rfl
  | false => cases s.divertTarget q <;> rfl

/-- A chain has walked along its path of diverts. -/
theorem State.arrivalChain_along (h : s.Diverts path n) (hn : n ≤ 7) (fuel : Nat) :
    s.arrivalChain (fuel + n) (path 0) 0 [] none
      = s.arrivalChain fuel (path n) n (passedAlong path n) (s.lastOpenAlong path n) := by
  induction n generalizing fuel with
  | zero => rfl
  | succ n ih =>
    obtain ⟨fails, target⟩ := h n (Nat.lt_succ_self n)
    have before := ih (fun i hi => h i (Nat.lt_succ_of_lt hi)) (Nat.le_of_succ_le hn) (fuel + 1)
    rw [Nat.add_right_comm, Nat.add_assoc] at before
    rw [before, State.arrivalChain_fails fails, target]
    dsimp only
    rw [if_neg (Nat.not_lt.2 hn), passedAlong_succ]
    rfl

/-- The last queue not closed. -/
theorem State.lastOpenAlong_some {m : Nat} (hm : m < n) (opened : (s.queue (path m)).closed = false)
    (later : ∀ i, m < i → i < n → (s.queue (path i)).closed = true) : s.lastOpenAlong path n = some (placeAlong path m) := by
  induction n with
  | zero => exact absurd hm (Nat.not_lt_zero m)
  | succ n ih =>
    unfold State.lastOpenAlong
    rcases Nat.lt_succ_iff_lt_or_eq.1 hm with before | here
    · rw [later n before (Nat.lt_succ_self n), if_pos rfl]
      exact ih before fun i hi hin => later i hi (Nat.lt_succ_of_lt hin)
    · subst here
      rw [opened]
      rfl

theorem State.lastOpenAlong_none (closed : ∀ i, i < n → (s.queue (path i)).closed = true) : s.lastOpenAlong path n = none := by
  induction n with
  | zero => rfl
  | succ n ih =>
    rw [State.lastOpenAlong, closed n (Nat.lt_succ_self n), if_pos rfl]
    exact ih fun i hi => closed i (Nat.lt_succ_of_lt hi)

theorem State.arrivalChain_placed (h : s.Diverts path n) (hn : n ≤ 7) (pass : ¬s.FailsEntry (path n)) :
    s.arrivalChain 9 (path 0) 0 [] none = .placed (placeAlong path n) := by
  have along := State.arrivalChain_along h hn (8 - n + 1)
  rw [show 8 - n + 1 + n = 9 by omega, State.arrivalChain_pass pass] at along
  exact along

theorem State.arrivalChain_ends (h : s.Diverts path n) (hn : n ≤ 7) (fails : s.FailsEntry (path n))
    (target : s.divertTarget (path n) = none) :
    s.arrivalChain 9 (path 0) 0 [] none = chainEnd (s.lastOpenAlong path (n + 1)) := by
  have along := State.arrivalChain_along h hn (8 - n + 1)
  rw [show 8 - n + 1 + n = 9 by omega, State.arrivalChain_fails fails, target] at along
  exact along

theorem State.arrivalChain_limit (h : s.Diverts path 8) : s.arrivalChain 9 (path 0) 0 [] none = .redirectLimit := by
  obtain ⟨fails, target⟩ := h 7 (by decide)
  have along := State.arrivalChain_along (n := 7) (fun i hi => h i (Nat.lt_succ_of_lt hi)) (le_refl 7) 2
  rw [State.arrivalChain_fails fails, target] at along
  exact along

/-! ## The queues that a placed call has passed -/

/-- Each queue of a list but the last fails its check and diverts to the next. -/
def State.Linked (s : State) (qs : List Nat) : Prop :=
  ∀ i u v, qs[i]? = some u → qs[i + 1]? = some v → s.divertTarget u = some v ∧ s.FailsEntry u

/-- A place that a chain from a queue can give: the queues passed over, each diverting to the next, and a queue not closed. -/
def State.PlaceFrom (s : State) (q : Nat) (p : Placement) : Prop :=
  p.redirects ≤ 7 ∧ p.passed.length = p.redirects ∧ (s.queue p.queue).closed = false
    ∧ (p.passed ++ [p.queue])[0]? = some q ∧ s.Linked (p.passed ++ [p.queue])

theorem State.Linked.snoc {t : Nat} (h : s.Linked (passed ++ [q])) (target : s.divertTarget q = some t) (fails : s.FailsEntry q) :
    s.Linked (passed ++ [q] ++ [t]) := by
  intro i u v hu hv
  have bound : i + 1 < (passed ++ [q] ++ [t]).length := (List.getElem?_eq_some_iff.1 hv).1
  simp only [List.length_append, List.length_singleton] at bound
  rw [List.getElem?_append_left (by simp; omega)] at hu
  by_cases hi : i + 1 < (passed ++ [q]).length
  · rw [List.getElem?_append_left hi] at hv
    exact h i u v hu hv
  · have last : i = passed.length := by simp at hi; omega
    subst last
    rw [List.getElem?_append_right (by simp)] at hv
    simp at hu hv
    rw [← hu, ← hv]
    exact ⟨target, fails⟩

/-- A chain places a call where it can. -/
theorem State.arrivalChain_placeFrom {start : Nat} (fuel : Nat) {p : Placement} (hcount : count ≤ 7)
    (hlen : passed.length = count) (head : (passed ++ [q])[0]? = some start) (linked : s.Linked (passed ++ [q]))
    (hlast : ∀ p, last = some p → s.PlaceFrom start p) (h : s.arrivalChain fuel q count passed last = .placed p) :
    s.PlaceFrom start p := by
  induction fuel generalizing q count passed last with
  | zero => cases h
  | succ fuel ih =>
    by_cases fails : s.FailsEntry q
    · have nextLast : ∀ p, (if (s.queue q).closed then last else some { queue := q, redirects := count, passed := passed })
          = some p → s.PlaceFrom start p := fun p hp => by
        cases closed : (s.queue q).closed with
        | true =>
          rw [closed] at hp
          exact hlast p hp
        | false =>
          rw [closed] at hp
          cases hp
          exact ⟨hcount, hlen, closed, head, linked⟩
      rw [State.arrivalChain_fails fails] at h
      generalize (if (s.queue q).closed then last else some { queue := q, redirects := count, passed := passed }) = last'
        at h nextLast
      cases target : s.divertTarget q with
      | none =>
        rw [target] at h
        cases last' with
        | none => cases h
        | some p' =>
          cases h
          exact nextLast p rfl
      | some t =>
        rw [target] at h
        dsimp only at h
        split at h
        · cases h
        · exact ih (by omega) (by simp [hlen]) (by rw [List.getElem?_append_left (by simp)]; exact head)
            (linked.snoc target fails) nextLast h
    · rw [State.arrivalChain_pass fails] at h
      cases h
      exact ⟨hcount, hlen, by
        cases closed : (s.queue q).closed with
        | true => exact absurd (.inl closed) fails
        | false => rfl, head, linked⟩

/-! ## The chain of an OVERFLOW step (R48) -/

theorem State.moveChainFrom_pass (h : ¬s.FailsEntry q) (fuel : Nat) : s.moveChainFrom own (fuel + 1) q count passed
    = .moves { queue := q, redirects := count, passed := passed } := by
  rw [State.moveChainFrom, if_pos (State.entryCheck_pass_iff.2 h)]

theorem State.moveChainFrom_fails (h : s.FailsEntry q) (fuel : Nat) : s.moveChainFrom own (fuel + 1) q count passed =
    (match s.divertTarget q with
    | none => .stays
    | some t => if 7 < count + 1 then .exits else if t = own then .stays
        else s.moveChainFrom own fuel t (count + 1) (passed ++ [q])) := by
  rw [State.moveChainFrom]
  exact if_neg (mt State.entryCheck_pass_iff.1 (not_not_intro h))

theorem State.moveChainFrom_along (h : s.Diverts path n) (own_not : ∀ i, i ≤ n → path i ≠ own) (hn : count + n ≤ 7)
    (fuel : Nat) : s.moveChainFrom own (fuel + n) (path 0) count []
      = s.moveChainFrom own fuel (path n) (count + n) (passedAlong path n) := by
  induction n generalizing fuel with
  | zero => rfl
  | succ n ih =>
    obtain ⟨fails, target⟩ := h n (Nat.lt_succ_self n)
    have before := ih (fun i hi => h i (Nat.lt_succ_of_lt hi)) (fun i hi => own_not i (Nat.le_succ_of_le hi)) (by omega) (fuel + 1)
    rw [Nat.add_right_comm, Nat.add_assoc] at before
    rw [before, State.moveChainFrom_fails fails, target]
    dsimp only
    rw [if_neg (by omega), if_neg (own_not _ (le_refl _)), passedAlong_succ]
    rfl

/-- A chain that an OVERFLOW step starts has walked along its path of diverts. -/
theorem State.moveChain_along (enabled : (s.queue (path 0)).config.enabled = true) (own_not : ∀ i, i ≤ n → path i ≠ c.queue)
    (h : s.Diverts path n) (hn : c.redirects + 1 + n ≤ 7) : s.moveChain c (path 0)
      = s.moveChainFrom c.queue (7 - n + 1) (path n) (c.redirects + 1 + n) (passedAlong path n) := by
  rw [State.moveChain, if_neg (by rw [enabled]; simp [own_not 0 (Nat.zero_le n)]),
    if_neg (show ¬7 < c.redirects + 1 by omega), ← State.moveChainFrom_along h own_not hn, show 7 - n + 1 + n = 8 by omega]

end

end Sys2Proof.Machine
end

section
/-!
PROOF. The deadline of a step behind which an OVERFLOW step stands: the event that runs it, the step that follows where the call
stays, and the exit of a call (R48, R51, R52, R128).
-/
namespace Sys2Proof.Machine

open Sys2Proof

section
variable {s t u : State} {e d : Ev} {y q fuel count reason : Nat} {c c' : Call} {r r' : Treatment} {passed : List Nat}
  {programme : Option Nat} {duration : Nat} {deadline : Tick}

/-! ## The event of a step deadline (R128) -/

theorem Call.treated_self (h : c.treatment = some r) : c.treated r = c := by
  cases c
  cases h
  rfl

/-- A treatment whose step deadline has been taken, at its next step. -/
def Treatment.stepTaken (r : Treatment) : Treatment := { r with deadline := none, step := r.step + 1 }

/-- The event of a step deadline at the step that it runs. -/
def State.stepEvent (s : State) (y : Nat) (c : Call) (r : Treatment) : Ev :=
  { s.event with st := s.setCall y (c.treated r.stepTaken) }

theorem State.stepEvent_call (s : State) (y : Nat) (c : Call) (r : Treatment) :
    (s.stepEvent y c r).st.call? y = some (c.treated r.stepTaken) := by rw [State.stepEvent, State.call?_setCall, if_pos rfl]

theorem exec_stepDeadline_due (hc : s.call? y = some c) (ht : c.treatment = some r) (hd : r.deadline = some deadline)
    (due : 0 ≤ (s.tick - deadline).toInt) :
    exec (.stepDeadline y) s = .next (Ev.runSteps 4096 0 y (s.stepEvent y c r)).finish := by
  have held : s.call? y = some (c.treated r) := by rw [Call.treated_self ht, hc]
  have reached : Tick.reached s.tick deadline = true := decide_eq_true due
  have taken : (s.event.upd fun s => s.updTreatment y fun t => { t with deadline := none }).completePhrase y
      = Ev.runSteps 4096 0 y (s.stepEvent y c r) := by
    unfold Ev.completePhrase Ev.treatmentEvent Ev.advanceStep
    rw [Ev.upd_eq s.event (State.updTreatment_of held _), Ev.upd_eq _ (State.setCall_updTreatment _ _ _ _ _)]
    rfl
  show Host.Outcome.next (s.takeStepDeadline y) = _
  unfold State.takeStepDeadline
  rw [hc, Option.bind_some, ht]
  dsimp only
  rw [hd]
  dsimp only
  rw [if_pos reached, taken]

/-! ## The OVERFLOW step (R133) -/

theorem State.moveChainFrom_congr (queue : ∀ q, t.queue q = s.queue q) (own fuel q count : Nat) (passed : List Nat) :
    t.moveChainFrom own fuel q count passed = s.moveChainFrom own fuel q count passed := by
  have target : ∀ q, t.divertTarget q = s.divertTarget q := fun q => by simp only [State.divertTarget, queue]
  induction fuel generalizing q count passed with
  | zero => rfl
  | succ fuel ih => simp only [State.moveChainFrom, queue, target, ih]

/-- The chain of a move looks at the queues, and at the call's queue and redirect count. -/
theorem State.stepEvent_moveChain (s : State) (y : Nat) (c : Call) (r : Treatment) (q : Nat) :
    (s.stepEvent y c r).st.moveChain (c.treated r.stepTaken) q = s.moveChain c q := by
  have queue : ∀ q, (s.stepEvent y c r).st.queue q = s.queue q := fun q => State.setCall_queue _ _ _ _
  unfold State.moveChain
  rw [queue, State.moveChainFrom_congr queue]
  rfl

theorem State.stepEvent_runStep (waiting : c.state = .waiting)
    (step : (s.pattern r.bank r.pattern)[r.step + 1]? = some (.overflow q)) :
    (s.stepEvent y c r).runStep 0 y (c.treated r.stepTaken) r.stepTaken = (match s.moveChain c q with
      | .stays => .goesOn 1 ((s.stepEvent y c r).advanceStep y)
      | .exits => .waits ((s.stepEvent y c r).exitCall y (c.treated r.stepTaken) 16)
      | .moves p => .moved p.queue ((s.stepEvent y c r).moveCall y (c.treated r.stepTaken) r.stepTaken p).2
          ((s.stepEvent y c r).moveCall y (c.treated r.stepTaken) r.stepTaken p).1) := by
  have found : ((s.stepEvent y c r).st.pattern r.stepTaken.bank r.stepTaken.pattern)[r.stepTaken.step]? = some (.overflow q) := by
    rw [State.stepEvent, State.setCall_pattern]
    exact step
  have waiting' : (c.treated r.stepTaken).state ≠ .offering := fun h => CallState.noConfusion (waiting.symm.trans h)
  unfold Ev.runStep
  dsimp only
  rw [found]
  dsimp only
  rw [if_neg waiting', State.stepEvent_moveChain]
  rfl

/-- The running of a MUSIC or SILENCE step replaces the call's step and its deadline. -/
theorem State.soundRun_setCall (s : State) (y : Nat) (c c' : Call) (r : Treatment) (n index : Nat) (programme : Option Nat)
    (duration : Nat) : (s.setCall y c').soundRun y c { r with deadline := none, step := n } index programme duration
      = s.soundRun y c r index programme duration := by
  by_cases same : r.source = soundSource programme
  · rw [State.soundRun_same same, State.soundRun_same (by exact same), State.setCall_setCall, State.setCall_tick]
  · by_cases free : 0 < s.freeNotices c.owner
    · rw [State.soundRun_free same free, State.soundRun_free (by exact same) (by rw [State.setCall_freeNotices]; exact free),
        State.setCall_setCall, State.setCall_tick]
    · rw [State.soundRun_held same free, State.soundRun_held (by exact same) (by rw [State.setCall_freeNotices]; exact free),
        State.setCall_setCall, State.setCall_link]

/-- Where the call stays, the step behind the OVERFLOW step is run. -/
theorem State.stepEvent_stays (waiting : c.state = .waiting)
    (step : (s.pattern r.bank r.pattern)[r.step + 1]? = some (.overflow q)) (stays : s.moveChain c q = .stays)
    (next : (s.pattern r.bank r.pattern)[r.step + 2]? = some (soundStep programme duration)) :
    Ev.runSteps 4096 0 y (s.stepEvent y c r) = { s.event with st := s.soundRun y c r (r.step + 2) programme duration } := by
  have advanced : (s.stepEvent y c r).advanceStep y
      = { s.event with st := s.setCall y (c.treated { r with deadline := none, step := r.step + 2 }) } := by
    unfold Ev.advanceStep
    rw [Ev.upd_eq _ (State.updTreatment_of (s.stepEvent_call y c r) _), State.stepEvent, State.setCall_setCall]
    rfl
  rw [Ev.runSteps, State.stepEvent_call]
  dsimp only [Call.treated]
  have run := State.stepEvent_runStep (y := y) waiting step
  dsimp only [Call.treated] at run
  rw [run, stays]
  dsimp only
  rw [advanced, Ev.runSteps_sound 4094 (c := c) (by rw [State.call?_setCall, if_pos rfl]) (by rw [State.setCall_pattern]; exact next),
    State.soundRun_setCall]

/-! ## The exit of a call (R51, R52) -/

theorem Ev.exitCall_tells (e : Ev) (y : Nat) (c : Call) (reason : Nat) : e.Tells (e.exitCall y c reason) := by
  by_cases free : 0 < e.st.freeNotices c.owner
  · rw [Ev.exitCall_eq free]
    exact (Ev.Tells.upd _ _).trans (Ev.removeCall_tells _ _ _ _)
  · rw [Ev.exitCall, if_neg free]
    exact (Ev.Tells.upd _ _).trans (.updLink _ _ _)

/-- The state of a pending exit. -/
def State.exitHeld (s : State) (y : Nat) (c : Call) (reason : Nat) : State :=
  let u := (s.stopTreatment y).updCall y fun c => { c with exitPending := some reason, promotion := none }
  u.setLink c.owner { u.link c.owner with exitOrder := (u.link c.owner).exitOrder ++ [y] }

theorem Ev.exitCall_held (full : ¬0 < e.st.freeNotices c.owner) :
    (e.exitCall y c reason).st = e.st.exitHeld y c reason := by
  rw [Ev.exitCall, if_neg full]
  rfl

theorem State.exitHeld_link (hc : s.call? y = some c) (k : Link) : (s.exitHeld y c reason).link k = { s.link k with
    exitOrder := if k = c.owner then (s.link k).exitOrder ++ [y] else (s.link k).exitOrder
    listenOrder := if c.treatment.isSome ∧ k = c.owner then (s.link k).listenOrder.filter (· != y) else (s.link k).listenOrder } := by
  unfold State.exitHeld
  dsimp only
  rw [State.link_setLink, State.updCall_link, State.updCall_link, State.stopTreatment_link hc, State.stopTreatment_link hc]
  by_cases hk : c.owner = k
  · subst hk; simp
  · simp [hk, Ne.symm hk]

theorem State.exitHeld_call (hc : s.call? y = some c) (z : Nat) : (s.exitHeld y c reason).call? z =
    if y = z then some { c with exitPending := some reason, promotion := none, treatment := none } else s.call? z := by
  have call := (State.stopTreatment_replaced hc).call
  rw [State.exitHeld, State.setLink_call, State.call?_updCall]
  by_cases hz : y = z
  · rw [if_pos hz, if_pos hz, call, if_pos hz]; rfl
  · rw [if_neg hz, if_neg hz, call, if_neg hz]

theorem State.exitHeld_queue (s : State) (y : Nat) (c : Call) (reason q : Nat) :
    (s.exitHeld y c reason).queue q = s.queue q := by
  rw [State.exitHeld, State.setLink_queue, State.updCall_queue, State.queue, (s.stopTreatment_rest y).2, State.queue]

theorem State.exitHeld_agents (s : State) (y : Nat) (c : Call) (reason : Nat) : s.SameAgents (s.exitHeld y c reason) := by
  obtain ⟨same, -⟩ := s.stopTreatment_rest y
  constructor
  all_goals simp [State.exitHeld, same.agents, same.available, same.recent, same.token]

theorem State.exitHeld_stopped (hc : s.call? y = some c) : s.TreatmentStopped (s.exitHeld y c reason) y c := by
  have playout : (s.stopTreatment y).SamePlayout (s.exitHeld y c reason) := by
    constructor <;> simp [State.exitHeld]
  refine (State.stopTreatment_stopped hc).before playout fun k => ?_
  rw [State.exitHeld_link hc, State.stopTreatment_link hc]

theorem State.SameAgents.notified (h : s.SameAgents t) (k : t.Notified u) : s.SameAgents u :=
  h.trans ⟨k.agents, k.available, k.recent, k.token⟩

/-- An event that is an exit, part by part. -/
theorem Ev.Quiet.exited (quiet : e.Quiet) (hc : e.st.call? y = some c) (reason : Nat) :
    e.st.Exited (e.exitCall y c reason).finish y c reason ∧ e.st.SameAgents (e.exitCall y c reason).finish := by
  have tells := e.exitCall_tells y c reason
  have engine := (e.exitCall_engine y c reason).trans (Ev.finish_engine _)
  have told : (e.exitCall y c reason).st.Notified (e.exitCall y c reason).finish := by
    rw [Ev.finish_unfreed (tells.freedA.trans quiet.freedA) (tells.freedB.trans quiet.freedB)]
    exact State.delivered_notified _ _
  generalize (e.exitCall y c reason).finish = t at engine told ⊢
  by_cases free : 0 < e.st.freeNotices c.owner
  · have exits := Ev.exitCall_eq (y := y) (reason := reason) free
    have gone := Ev.removeCall_gone (e := e.upd fun s => s.exitTold y c reason) (y := y) (c := c)
      (by rw [Ev.upd_st, State.exitTold, State.setLink_call, hc]) .exited
    rw [← exits, Ev.upd_st] at gone
    generalize (e.exitCall y c reason).st = u at gone told
    have same : e.st.SameAgents (e.st.exitTold y c reason) := by constructor <;> simp [State.exitTold]
    have stopped := gone.stopped.after (e.st.exitTold_playout y c reason) (fun k => by rw [State.exitTold_link]) rfl rfl
    obtain ⟨ns, _, own⟩ := told.link c.owner
    refine ⟨⟨fun z hz => ?_, stopped.notified told, fun q hq => ?_, fun k => ?_, engine.onlyTold,
      fun _ => ⟨?_, ?_, ⟨ns, ?_⟩, fun k => ?_⟩, fun full => absurd full (Nat.ne_of_gt free)⟩, (same.trans gone.agents).notified told⟩
    · rw [told.call, gone.call, if_neg (Ne.symm hz), State.exitTold, State.setLink_call]
    · rw [told.queue, gone.queue, if_neg hq, State.exitTold_queue]
    · rw [told.reserved, gone.link, State.exitTold_link]
    · rw [told.call, gone.call, if_pos rfl]
    · rw [told.queue, gone.queue, if_pos rfl, State.exitTold_queue]
    · rw [own, gone.link, State.exitTold_link, if_pos rfl]
      exact List.append_assoc _ _ _
    · rw [told.exitOrder, gone.link, State.exitTold_link]
  · have held := e.exitCall_held (y := y) (reason := reason) free
    rw [held] at told
    have call := State.exitHeld_call (reason := reason) hc
    have queue := e.st.exitHeld_queue y c reason
    have link := State.exitHeld_link (reason := reason) hc
    have stopped := State.exitHeld_stopped (reason := reason) hc
    refine ⟨⟨fun z hz => ?_, stopped.notified told, fun q _ => ?_, fun k => ?_, engine.onlyTold, fun h => absurd h free,
      fun _ => ⟨?_, ?_, fun k => ?_⟩⟩,
      (e.st.exitHeld_agents y c reason).notified told⟩
    · rw [told.call, call, if_neg (Ne.symm hz)]
    · rw [told.queue, queue]
    · rw [told.reserved, link]
    · rw [told.call, call, if_pos rfl]
    · rw [told.queue, queue]
    · rw [told.exitOrder, link]

/-- The leaving of a treatment looks at its bank alone. -/
theorem State.TreatmentStopped.of_treated (k : (s.setCall y (c.treated r')).TreatmentStopped t y (c.treated r'))
    (ht : c.treatment = some r) (bank : r'.bank = r.bank) : s.TreatmentStopped t y c := by
  have playout := State.SamePlayout.setCall s y (c.treated r')
  have held : (c.treated r').treatment.isSome = c.treatment.isSome := by rw [ht]; rfl
  have segments : (s.setCall y (c.treated r')).heldSegments y (c.treated r') = s.heldSegments y c := playout.heldSegments _ _
  have banks : (c.treated r').treatment.map (·.bank) = c.treatment.map (·.bank) := by rw [ht]; exact congrArg some bank
  constructor
  · intro b
    rw [k.refs, playout.refs, banks]
  · intro w; rw [k.deferral, playout.highways, held]; rfl
  · intro w ts; rw [k.channel, playout.channel, playout.heldTimeslot, held]; rfl
  · intro g; rw [k.useCount, segments, held, State.useCount, playout.useCounts, State.useCount]
  · intro j; rw [k.listens, held, State.setCall_link]; rfl
  · intro w; rw [k.output, playout.highways]

/-- An exit does not look at the step of the call's treatment. -/
theorem State.Exited.of_treated (k : (s.setCall y (c.treated r')).Exited t y (c.treated r') reason)
    (ht : c.treatment = some r) (bank : r'.bank = r.bank) : s.Exited t y c reason where
  others z hz := by rw [k.others z hz, State.call?_setCall, if_neg (Ne.symm hz)]
  stopped := k.stopped.of_treated ht bank
  queues q hq := by rw [k.queues q hq, State.setCall_queue]
  reserved j := by rw [k.reserved, State.setCall_link]
  told j := by
    have told := k.told j
    rw [State.setCall_link] at told
    exact told
  gone free := by
    have gone := k.gone (by rw [State.setCall_freeNotices]; exact free)
    simp only [State.setCall_link, State.setCall_queue] at gone
    exact gone
  pending full := by
    have pending := k.pending (by rw [State.setCall_freeNotices]; exact full)
    simp only [State.setCall_link, State.setCall_queue] at pending
    exact pending

/-- Where the chain of an OVERFLOW step ends at the redirect limit, the call exits with reason 16. -/
theorem State.stepEvent_exits (waiting : c.state = .waiting) (ht : c.treatment = some r)
    (step : (s.pattern r.bank r.pattern)[r.step + 1]? = some (.overflow q)) (exits : s.moveChain c q = .exits) :
    ∃ u, (Ev.runSteps 4096 0 y (s.stepEvent y c r)).finish = u ∧ s.Exited u y c 16 ∧ s.SameAgents u ∧ u.settings = s.settings
      ∧ s.SameLinks u := by
  have run := State.stepEvent_runStep (y := y) waiting step
  rw [exits] at run
  dsimp only [Call.treated] at run
  have event : Ev.runSteps 4096 0 y (s.stepEvent y c r) = (s.stepEvent y c r).exitCall y (c.treated r.stepTaken) 16 := by
    rw [Ev.runSteps, State.stepEvent_call]
    dsimp only [Call.treated]
    rw [run]
  have quiet : (s.stepEvent y c r).Quiet := ⟨rfl, rfl, rfl⟩
  obtain ⟨exited, agents⟩ := quiet.exited (s.stepEvent_call y c r) 16
  have engine := ((s.stepEvent y c r).exitCall_engine y (c.treated r.stepTaken) 16).trans (Ev.finish_engine _)
  have links : s.SameLinks (s.stepEvent y c r).st := by
    constructor
    all_goals
      intro j
      rw [State.stepEvent, State.setCall_link]
  have kept := engine.sameLinks
  exact ⟨_, congrArg Ev.finish event, exited.of_treated ht rfl, ⟨agents.agents, agents.available, agents.recent, agents.token⟩,
    engine.settings, ⟨fun j => (kept.up j).trans (links.up j), fun j => (kept.receiving j).trans (links.receiving j),
      fun j => (kept.permissions j).trans (links.permissions j), fun j => (kept.enables j).trans (links.enables j),
      fun j => (kept.faultCount j).trans (links.faultCount j)⟩⟩

end

end Sys2Proof.Machine
end

section
/-!
PROOF. The move of a call by an OVERFLOW step, and the divert chains (O43).
-/
namespace Sys2Proof.Machine

open Sys2Proof

section
variable {s t u : State} {e d : Ev} {y q m duration : Nat} {c : Call} {h : Highway} {r : Treatment} {p : Placement}
  {rest : List PatternStep}

/-! ## A call that leaves its order with nothing held (R138) -/

theorem State.setHighway_self (s : State) (w : Highway) : s.setHighway w (s.highway w) = s := by cases w <;> rfl

theorem State.setLink_self (s : State) (l : Link) : s.setLink l (s.link l) = s := by cases l <;> rfl

/-- A treatment that holds no channel, no deferral entry and no LISTEN gives back its bank's count alone. -/
theorem State.stopTreatment_idle (hc : s.call? y = some c) (ht : c.treatment = some r) (hw : c.owner.highway? = some h)
    (channel : s.heldTimeslot h y = none) (deferral : ∀ e ∈ (s.highway h).deferral, e.call ≠ y)
    (listens : y ∉ (s.link c.owner).listenOrder) :
    s.stopTreatment y = (s.updRefs r.bank (· - 1)).setCall y c.untreated := by
  have undeferred : (s.updRefs r.bank (· - 1)).leaveDeferral h y = s.updRefs r.bank (· - 1) := by
    have kept : ((s.highway h).deferral.filter fun d => d.call != y) = (s.highway h).deferral :=
      List.filter_eq_self.2 fun d hd => bne_iff_ne.2 (deferral d hd)
    unfold State.leaveDeferral
    dsimp only
    rw [State.updRefs_highway, kept, ← State.updRefs_highway s r.bank (· - 1) h]
    exact State.setHighway_self _ _
  have audio : (s.updRefs r.bank (· - 1)).stopAudio y c = s.updRefs r.bank (· - 1) := by
    unfold State.stopAudio
    rw [hw]
    dsimp only
    rw [undeferred, State.updRefs_heldTimeslot, channel]
  have unheld : (s.link c.owner).listenOrder.filter (· != y) = (s.link c.owner).listenOrder :=
    List.filter_eq_self.2 fun z hz => bne_iff_ne.2 fun hzy => listens (hzy ▸ hz)
  unfold State.stopTreatment
  rw [hc]
  dsimp only
  rw [ht]
  dsimp only
  rw [audio, State.updRefs_link, unheld, ← State.updRefs_link s r.bank (· - 1) c.owner]
  exact congrArg (fun u => State.setCall u y c.untreated) (State.setLink_self _ _)

/-! ## The move (R48) -/

/-- The record of a call that an overflow move has placed, before its treatment begins. -/
def State.movedCall (s : State) (c : Call) (p : Placement) : Call :=
  { c with queue := p.queue, entry := s.tick, redirects := p.redirects, treatment := none
           promotion := (s.queue p.queue).config.firstPromotion c.band s.tick }

/-- The counts of an overflow move: OVERFLOWED_OUT at the queue left and at each queue passed, OFFERED where the call is placed
(R163). -/
def Placement.moveCounts (p : Placement) (own q : Nat) (n : CounterName) : Word32 :=
  (if n = .offered ∧ q = p.queue then 1 else 0)
    + if n = .overflowedOut then BitVec.ofNat 32 (p.passed.count q + if q = own then 1 else 0) else 0

/-- The event of an overflow move, before the new treatment begins (R48 steps 1 to 4). -/
def Ev.relocate (e : Ev) (y : Nat) (c : Call) (p : Placement) : Ev :=
  let left := e.leaveOrder y c
  let c' := { c with queue := p.queue, entry := e.st.tick, redirects := p.redirects, treatment := none
                     promotion := (left.st.queue p.queue).config.firstPromotion c.band e.st.tick }
  ((((left.upd fun s => s.setCall y c').joinOrder y c').count c.queue .overflowedOut).countPassed p.passed).count p.queue .offered

theorem Ev.moveCall_eq (e : Ev) (y : Nat) (c : Call) (r : Treatment) (other : p.queue ≠ c.queue) :
    e.moveCall y c r p = (e.relocate y c p).startTreatment y (e.st.movedCall c p) r.source r.lastProgramme := by
  have config : ((e.leaveOrder y c).st.queue p.queue).config = (e.st.queue p.queue).config := by
    rw [Ev.leaveOrder_queue, if_neg other]
  unfold State.movedCall
  rw [← config]
  rfl

/-- A move has placed a call in another queue and counted it (R36, R40, R43, R48, R163). -/
structure State.Relocated (s t : State) (y : Nat) (c : Call) (r : Treatment) (p : Placement) : Prop where
  rest : t = { (s.updRefs r.bank (· - 1)).setCall y (s.movedCall c p) with queues := t.queues }
  queue : ∀ q, (if p.queue = q then (s.queue q).joinedBy (s.placeIn y c.band s.tick (s.queue q).order)
    else if q = c.queue then (s.queue q).without y else s.queue q).CountedBy (t.queue q) (p.moveCounts c.queue q)

theorem Ev.relocate_tells (e : Ev) (y : Nat) (c : Call) (p : Placement) : e.Tells (e.relocate y c p) := by
  unfold Ev.relocate Ev.leaveOrder
  exact (((((((Ev.Tells.upd _ _).trans (Ev.evalOpening_tells _ _)).trans (.upd _ _)).trans (Ev.joinOrder_tells _ _ _)).trans
    (Ev.count_tells _ _ _)).trans (Ev.countPassed_tells _ _)).trans (Ev.count_tells _ _ _))

/-- The place of a call in an order that does not hold it depends on the records of the other calls alone. -/
theorem State.placeIn_congr {order : List Nat} (hy : y ∉ order) (call : ∀ z, y ≠ z → t.call? z = s.call? z) (band : Nat)
    (entry : Tick) : t.placeIn y band entry order = s.placeIn y band entry order := by
  have same : ∀ z ∈ order, t.standsBefore band entry z = s.standsBefore band entry z := fun z hz => by
    rw [State.standsBefore, call z fun h => hy (h ▸ hz)]
    rfl
  rw [State.placeIn, List.takeWhile_congr same, List.dropWhile_congr same]
  rfl

theorem Ev.relocated (e : Ev) (hc : e.st.call? y = some c) (ht : c.treatment = some r) (hw : c.owner.highway? = some h)
    (channel : e.st.heldTimeslot h y = none) (deferral : ∀ d ∈ (e.st.highway h).deferral, d.call ≠ y)
    (listens : y ∉ (e.st.link c.owner).listenOrder) (other : p.queue ≠ c.queue) (absent : y ∉ (e.st.queue p.queue).order) :
    e.st.Relocated (e.relocate y c p).st y c r p := by
  have order := e.leaveOrder_queue y c
  have left : (e.leaveOrder y c).st = { (e.st.updRefs r.bank (· - 1)).setCall y c.outOfOrder with
      queues := (e.leaveOrder y c).st.queues } := by
    rw [Ev.leaveOrder_eq, State.stopTreatment_idle hc ht hw channel deferral listens,
      State.updCall_of (c := c.untreated) (by rw [State.call?_setCall, if_pos rfl]), State.setCall_setCall]
    rfl
  have config : ((e.leaveOrder y c).st.queue p.queue).config = (e.st.queue p.queue).config := by rw [order, if_neg other]
  have call : ∀ z, y ≠ z → (e.leaveOrder y c).st.call? z = e.st.call? z := fun z hz => by
    rw [(Ev.leaveOrder_left hc).call, if_neg hz]
  unfold Ev.relocate
  dsimp only
  rw [config]
  generalize e.leaveOrder y c = f at order left call
  have placed := State.PlacedBy.of_joined (e := f) (y := y) (c := e.st.movedCall c p)
    (by show y ∉ (f.st.queue p.queue).order; rw [order, if_neg other]; exact absent)
    (((Ev.count_counted _ c.queue .overflowedOut).trans (Ev.countPassed_counted p.passed _)).trans
      (Ev.count_counted _ p.queue .offered))
  change e.st.Relocated (((((f.upd fun s => s.setCall y (e.st.movedCall c p)).joinOrder y (e.st.movedCall c p)).count c.queue
    .overflowedOut).countPassed p.passed).count p.queue .offered).st y c r p
  generalize (((((f.upd fun s => s.setCall y (e.st.movedCall c p)).joinOrder y (e.st.movedCall c p)).count c.queue
    .overflowedOut).countPassed p.passed).count p.queue .offered).st = t at placed ⊢
  generalize f.st.queues = qs at left
  refine ⟨?_, fun q => ?_⟩
  · calc t = { f.st.setCall y (e.st.movedCall c p) with queues := t.queues } := placed.rest
      _ = { (e.st.updRefs r.bank (· - 1)).setCall y (e.st.movedCall c p) with queues := t.queues } := by
        rw [left]
        exact congrArg (fun u : State => { u with queues := t.queues }) (State.setCall_setCall (e.st.updRefs r.bank (· - 1)) y _ _)
  · have joined := placed.queue q
    have counts : ∀ n, (((if n = .overflowedOut ∧ q = c.queue then (1 : Word32) else 0)
        + (if n = .overflowedOut then BitVec.ofNat 32 (p.passed.count q) else 0))
          + if n = .offered ∧ q = p.queue then 1 else 0) = p.moveCounts c.queue q n := fun n => by
      unfold Placement.moveCounts
      by_cases hn : n = .overflowedOut
      · subst hn
        by_cases hq : q = c.queue
        · simp [hq, BitVec.ofNat_add, add_comm]
        · simp [hq]
      · simp [hn]
    by_cases hp : p.queue = q
    · subst hp
      rw [if_pos rfl]
      rw [if_pos (show (e.st.movedCall c p).queue = p.queue from rfl), order, if_neg other, State.placeIn_congr absent call] at joined
      exact { joined with counter := fun n => (joined.counter n).trans (congrArg _ (counts n)) }
    · rw [if_neg hp]
      rw [if_neg (show ¬(e.st.movedCall c p).queue = q from hp), order] at joined
      exact { joined with counter := fun n => (joined.counter n).trans (congrArg _ (counts n)) }

/-- A move does not look at the step of the call's treatment. -/
theorem State.Relocated.of_treated {r' : Treatment} (k : (s.setCall y (c.treated r')).Relocated t y (c.treated r') r' p)
    (bank : r'.bank = r.bank) (absent : y ∉ (s.queue p.queue).order) : s.Relocated t y c r p where
  rest := by
    refine k.rest.trans ?_
    rw [bank, State.setCall_updRefs, State.setCall_setCall]
    rfl
  queue q := by
    have queue := k.queue q
    rw [State.setCall_queue] at queue
    by_cases hp : p.queue = q
    · subst hp
      have call : ∀ z, y ≠ z → (s.setCall y (c.treated r')).call? z = s.call? z := fun z hz => by
        rw [State.call?_setCall, if_neg hz]
      rw [if_pos rfl, State.placeIn_congr absent call] at queue
      rw [if_pos rfl]
      exact queue
    · rw [if_neg hp] at queue ⊢
      exact queue

/-- A chain never moves a call to its own queue. -/
theorem State.moveChainFrom_ne {own fuel count : Nat} {passed : List Nat} (hq : q ≠ own)
    (h : s.moveChainFrom own fuel q count passed = .moves p) : p.queue ≠ own := by
  induction fuel generalizing q count passed with
  | zero => cases h
  | succ fuel ih =>
    by_cases fails : s.FailsEntry q
    · rw [State.moveChainFrom_fails fails] at h
      cases target : s.divertTarget q with
      | none => rw [target] at h; cases h
      | some t =>
        rw [target] at h
        dsimp only at h
        split at h
        · cases h
        · split at h
          · cases h
          · rename_i ht
            exact ih ht h
    · rw [State.moveChainFrom_pass fails] at h
      cases h
      exact hq

theorem State.moveChain_ne (h : s.moveChain c q = .moves p) : p.queue ≠ c.queue := by
  unfold State.moveChain at h
  split at h
  · cases h
  · rename_i hq
    split at h
    · cases h
    · exact State.moveChainFrom_ne (fun h => hq (.inl h)) h

/-! ## The new treatment of a moved call -/

namespace State.Relocated

theorem config (k : s.Relocated t y c r p) (q : Nat) : (t.queue q).config = (s.queue q).config := by
  rw [(k.queue q).config]
  split
  · rfl
  · split <;> rfl

theorem call (k : s.Relocated t y c r p) (z : Nat) : t.call? z = if y = z then some (s.movedCall c p) else s.call? z := by
  rw [k.rest]
  refine (State.call?_setCall _ y z _).trans ?_
  rw [State.updRefs_call]

theorem link (k : s.Relocated t y c r p) (j : Link) : t.link j = s.link j := by
  rw [k.rest]
  refine Eq.trans ?_ (State.updRefs_link s r.bank (· - 1) j)
  cases j <;> rfl

theorem agents (k : s.Relocated t y c r p) : s.SameAgents t := by
  rw [k.rest]
  exact ⟨State.updRefs_agents _ _ _, State.updRefs_available _ _ _, State.updRefs_recent _ _ _, State.updRefs_token _ _ _⟩

theorem settings (k : s.Relocated t y c r p) : t.settings = s.settings := by
  rw [k.rest]
  exact State.updRefs_settings s r.bank (· - 1)

theorem pattern (k : s.Relocated t y c r p) (bank : Bank) (n : Nat) : t.pattern bank n = s.pattern bank n := by
  rw [k.rest]
  refine Eq.trans ?_ (State.updRefs_pattern s r.bank (· - 1) bank n)
  cases bank <;> rfl

theorem refs (k : s.Relocated t y c r p) (bank : Bank) : t.refs bank = s.refs bank - if bank = r.bank then 1 else 0 := by
  rw [k.rest]
  refine Eq.trans (b := (s.updRefs r.bank (· - 1)).refs bank) (by cases bank <;> rfl) ?_
  rw [State.refs_updRefs]
  by_cases hb : r.bank = bank
  · rw [if_pos hb, if_pos hb.symm]
  · rw [if_neg hb, if_neg (Ne.symm hb)]; rfl

theorem useCounts (k : s.Relocated t y c r p) : t.useCounts = s.useCounts := by
  rw [k.rest]
  exact State.updRefs_useCounts s r.bank (· - 1)

theorem highway (k : s.Relocated t y c r p) (w : Highway) : t.highway w = s.highway w := by
  rw [k.rest]
  refine Eq.trans ?_ (State.updRefs_highway s r.bank (· - 1) w)
  cases w <;> rfl

theorem activeBank (k : s.Relocated t y c r p) : t.activeBank = s.activeBank := congrArg Settings.activeBank k.settings

theorem tick (k : s.Relocated t y c r p) : t.tick = s.tick := congrArg Settings.tick k.settings

end State.Relocated

/-- A call stands in the queue that an overflow move has placed it in, and its treatment there has begun with a MUSIC step (R48). -/
structure State.Moved (s v : State) (y : Nat) (c : Call) (h : Highway) (r : Treatment) (p : Placement) (m duration : Nat) : Prop where
  call : ∀ z, v.call? z = if y = z then some ((s.movedCall c p).treated (s.musicBegun (s.movedCall c p) m duration)) else s.call? z
  link : ∀ j, v.link j = { s.link j with outbound := (s.link j).outbound
    ++ (if r.source ≠ .programme m ∧ j = c.owner then [.notice (.listen y c.ref h (some m))] else []) }
  agents : s.SameAgents v
  settings : v.settings = s.settings
  refs : ∀ i, v.refs i = s.refs i - (if i = r.bank then 1 else 0) + if i = s.activeBank then 1 else 0
  useCounts : v.useCounts = s.useCounts
  highway : ∀ w, v.highway w = s.highway w
  queue : ∀ q, (if p.queue = q then (s.queue q).joinedBy (s.placeIn y c.band s.tick (s.queue q).order)
    else if q = c.queue then (s.queue q).without y else s.queue q).CountedBy (v.queue q) (p.moveCounts c.queue q)

theorem State.Relocated.begins (k : s.Relocated t y c r p) (hw : c.owner.highway? = some h) :
    s.Moved (t.treatmentBegun y (s.movedCall c p) m duration r.source) y c h r p m duration where
  call z := by
    rw [State.treatmentBegun_call, k.call, State.musicBegun, k.activeBank, k.tick, k.config]
    split <;> rfl
  link j := by
    rw [State.treatmentBegun_link (c := s.movedCall c p) hw, k.link]
    rfl
  agents := k.agents.trans (t.treatmentBegun_agents y _ m duration r.source)
  settings := (t.treatmentBegun_settings y _ m duration r.source).trans k.settings
  refs i := by rw [State.treatmentBegun_refs, k.refs, k.activeBank]
  useCounts := (t.treatmentBegun_useCounts y _ m duration r.source).trans k.useCounts
  highway w := by rw [State.treatmentBegun_highway, k.highway]
  queue q := by rw [State.treatmentBegun_queue]; exact k.queue q

/-- The LISTEN alone joins the links. -/
theorem State.Moved.posted (k : s.Moved t y c h r p m duration) : s.Posted t := fun j =>
  ⟨if r.source ≠ .programme m ∧ j = c.owner then [.listen y c.ref h (some m)] else [], (s.link j).dropped, (s.link j).reserved, by
    rw [k.link, apply_ite (List.map OutEntry.notice)]
    rfl⟩

theorem State.Posted.sameLinks (h : s.Posted t) : s.SameLinks t := by
  constructor
  all_goals
    intro j
    obtain ⟨ns, _, _, hj⟩ := h j
    rw [hj]

theorem State.Posted.onlyTold (h : s.Posted t) : s.OnlyTold t := fun j => by
  obtain ⟨ns, _, _, hj⟩ := h j
  exact ⟨by rw [hj], ns, by rw [hj]⟩

/-- Where the chain of an OVERFLOW step moves the call, the call stands in its new queue and its new treatment begins. -/
theorem State.stepEvent_moves (hw : c.owner.highway? = some h)
    (waiting : c.state = .waiting) (step : (s.pattern r.bank r.pattern)[r.step + 1]? = some (.overflow q))
    (moves : s.moveChain c q = .moves p)
    (pattern : s.pattern s.activeBank (s.queue p.queue).config.pattern = .music m duration :: rest)
    (impersonal : ∀ ts, r.source ≠ .personal ts) (ready : r.source = .programme m ∨ 0 < s.freeNotices c.owner)
    (absent : y ∉ (s.queue p.queue).order) (channel : s.heldTimeslot h y = none)
    (deferral : ∀ e ∈ (s.highway h).deferral, e.call ≠ y) (listens : y ∉ (s.link c.owner).listenOrder)
    (unqualified : ∀ x, x ∈ s.available ∨ (s.agent x).state = .available → s.qualified (s.agent x) p.queue = false) :
    ∃ v, s.Moved v y c h r p m duration ∧ v.Notified (Ev.runSteps 4096 0 y (s.stepEvent y c r)).finish := by
  have other := State.moveChain_ne moves
  have tells := (s.stepEvent y c r).relocate_tells y (c.treated r.stepTaken) p
  have relocated := (s.stepEvent y c r).relocated (p := p) (s.stepEvent_call y c r) rfl hw
    (by rw [State.stepEvent, (State.SamePlayout.setCall _ _ _).heldTimeslot]; exact channel)
    (by rw [State.stepEvent, State.setCall_highway]; exact deferral)
    (by rw [State.stepEvent, State.setCall_link]; exact listens) other
    (by rw [State.stepEvent, State.setCall_queue]; exact absent)
  have event : (s.stepEvent y c r).moveCall y (c.treated r.stepTaken) r.stepTaken p
      = ((s.stepEvent y c r).relocate y (c.treated r.stepTaken) p).startTreatment y (s.movedCall c p) r.source r.lastProgramme :=
    (s.stepEvent y c r).moveCall_eq y (c.treated r.stepTaken) r.stepTaken other
  have run := State.stepEvent_runStep (y := y) waiting step
  rw [moves] at run
  dsimp only at run
  rw [event] at run
  generalize (s.stepEvent y c r).relocate y (c.treated r.stepTaken) p = f at tells relocated run
  have k := relocated.of_treated (r := r) rfl absent
  have runs : (f.startTreatment y (s.movedCall c p) r.source r.lastProgramme).2 = true := by rw [Ev.startTreatment_eq impersonal]
  have begun := Ev.treatmentBegins (e := f) (y := y) (c := s.movedCall c p) (last := r.lastProgramme) (m := m) (duration := duration)
    (rest := rest) 4094 impersonal
    (by
      rw [k.pattern, k.activeBank]
      exact (congrArg _ (congrArg QueueConfig.pattern (k.config p.queue))).trans pattern)
    (by rw [State.freeNotices, k.link]; exact ready)
  refine ⟨f.st.treatmentBegun y (s.movedCall c p) m duration r.source, k.begins hw, ?_⟩
  rw [Ev.runSteps, State.stepEvent_call]
  dsimp only [Call.treated]
  dsimp only [Call.treated] at run
  rw [run]
  dsimp only
  rw [if_pos runs, begun, Ev.queueAttempts_unqualified, Ev.finish_mk tells.freedA tells.freedB]
  · exact State.delivered_notified _ _
  intro x hx
  have same := k.agents.trans (f.st.treatmentBegun_agents y (s.movedCall c p) m duration r.source)
  have qualified : ∀ a, (f.st.treatmentBegun y (s.movedCall c p) m duration r.source).qualified a p.queue = s.qualified a p.queue :=
    fun a => by
      unfold State.qualified
      rw [State.treatmentBegun_queue, k.config]
  rw [qualified, same.agent]
  exact unqualified x (.inl (same.available ▸ hx))

end

/-- Settles O43: the chains along their paths of diverts, and the deadline of a step behind which an OVERFLOW step stands, by what
the chain of the move answers. -/
theorem arrivalChainFollowsDiverts : Obligations.ArrivalChainFollowsDiverts := by
  intro s
  have diverts : ∀ (path : Nat → Nat) (n : Nat), (∀ i, i < n → s.FailsEntry (path i)
      ∧ ((s.queue (path i)).config.overflowTarget.filter fun t => (s.queue t).config.enabled) = some (path (i + 1))) →
      s.Diverts path n := fun path n along i hi => by
    obtain ⟨fails, target⟩ := along i hi
    exact ⟨fails, (s.divertTarget_eq _).trans target⟩
  dsimp only
  refine ⟨fun path n hn along => ⟨fun pass => ?_, fun fails target => ⟨fun m hm opened later => ?_, fun closed => ?_⟩⟩,
    fun path along => State.arrivalChain_limit (diverts path 8 along), fun q p placed => ?_,
    fun c q => ⟨fun stays => ?_, fun other enabled full => ?_⟩,
    fun c path n enabled own_not along hn => ⟨fun pass => ?_, fun fails target => ?_, fun fails target full => ?_,
      fun fails target below => ?_⟩,
    fun y q c t h deadline hc ht hw waiting hd due step => ⟨fun stays programme duration next => ?_, fun exits => ?_,
      fun p m d rest moves pattern impersonal ready absent channel deferral listens unqualified => ?_⟩⟩
  · exact State.arrivalChain_placed (diverts path n along) hn pass
  · rw [State.arrivalChain_ends (diverts path n along) hn fails ((s.divertTarget_eq _).trans target),
      State.lastOpenAlong_some (Nat.lt_succ_of_le hm) opened fun i hi hin => later i hi (Nat.le_of_lt_succ hin)]
    rfl
  · rw [State.arrivalChain_ends (diverts path n along) hn fails ((s.divertTarget_eq _).trans target),
      State.lastOpenAlong_none fun i hi => closed i (Nat.le_of_lt_succ hi)]
    rfl
  · obtain ⟨redirects, length, opened, head, linked⟩ := State.arrivalChain_placeFrom (start := q) 9 (Nat.zero_le 7) rfl rfl
      (fun i u v _ hv => absurd hv (by simp)) (last := none) (fun p hp => by cases hp) placed
    refine ⟨redirects, length, opened, head, fun i u v hu hv => ?_⟩
    obtain ⟨target, fails⟩ := linked i u v hu hv
    exact ⟨(s.divertTarget_eq u).symm.trans target, fails⟩
  · exact if_pos stays
  · refine (if_neg ?_).trans (if_pos (Nat.lt_succ_of_le full))
    rw [enabled]
    simp [other]
  · rw [State.moveChain_along enabled own_not (diverts path n along) hn, State.moveChainFrom_pass pass]
    rfl
  · rw [State.moveChain_along enabled own_not (diverts path n along) hn, State.moveChainFrom_fails fails, s.divertTarget_eq, target]
  · obtain ⟨v, target⟩ := target
    rw [State.moveChain_along enabled own_not (diverts path n along) hn, State.moveChainFrom_fails fails, s.divertTarget_eq, target]
    exact if_pos (by omega)
  · rw [State.moveChain_along enabled own_not (diverts path n along) hn, State.moveChainFrom_fails fails, s.divertTarget_eq, target]
    exact (if_neg (by omega)).trans (if_pos rfl)
  · rw [exec_stepDeadline_due hc ht hd due, State.stepEvent_stays waiting step stays next]
    rfl
  · obtain ⟨u, event, exited⟩ := State.stepEvent_exits (y := y) waiting ht step exits
    rw [exec_stepDeadline_due hc ht hd due, event]
    exact ⟨u, rfl, exited⟩
  · have other := State.moveChain_ne moves
    obtain ⟨v, k, told⟩ := State.stepEvent_moves (y := y) hw waiting step moves pattern impersonal ready (absent _ other) channel
      deferral listens unqualified
    rw [exec_stepDeadline_due hc ht hd due]
    refine ⟨_, rfl, ?_⟩
    generalize Ev.finish _ = u at told
    have posted := k.posted.trans told.posted
    refine ⟨?_, fun z hz => ?_, k.agents.notified told, told.settings.trans k.settings, ?_, fun j => ?_, fun was => ?_, fun j => ?_,
      fun i => ?_, told.useCounts.trans k.useCounts, fun w => (told.highway w).trans (k.highway w), fun i => ?_⟩
    · rw [told.call, k.call, if_pos rfl]
      rfl
    · rw [told.call, k.call, if_neg (Ne.symm hz)]
    · exact posted.sameLinks
    · exact posted.onlyTold j
    · obtain ⟨ns, _, own⟩ := told.link c.owner
      refine ⟨ns, ?_⟩
      rw [own, k.link, if_pos ⟨was, rfl⟩]
      exact List.append_assoc _ _ _
    · rw [told.reserved, told.exitOrder, told.listenOrder, k.link]
      exact ⟨rfl, rfl, rfl⟩
    · rw [told.refs, k.refs]
    · have record := k.queue i
      rw [told.queue]
      by_cases hp : i = p.queue
      · subst hp
        rw [if_pos rfl] at record
        refine ⟨record.config, record.aht, record.weight, record.order.trans (if_pos rfl).symm, ?_, ?_, fun n => ?_⟩
        · rw [if_pos rfl, record.closed]
          exact congrArg (fun n => _ || decide (_ ≤ n)) (s.placeIn_length _ _ _ _)
        · rw [if_pos rfl, record.peak]
          exact congrArg (max _) (s.placeIn_length _ _ _ _)
        · rw [record.counter, Queue.joinedBy_counter, Placement.moveCounts, add_assoc]
      · rw [if_neg (Ne.symm hp)] at record
        rw [if_neg hp, if_neg hp, if_neg hp]
        by_cases hq : i = c.queue
        · rw [if_pos hq] at record
          rw [if_pos hq, if_pos hq, ← hq]
          refine ⟨record.config, record.aht, record.weight, record.order, record.closed, record.peak, fun n => ?_⟩
          rw [record.counter, Placement.moveCounts, ← hq, add_assoc]
          rfl
        · rw [if_neg hq] at record
          rw [if_neg hq, if_neg hq]
          refine ⟨record.config, record.aht, record.weight, record.order, record.closed, record.peak, fun n => ?_⟩
          rw [record.counter, Placement.moveCounts, add_assoc]

end Sys2Proof.Machine
end
